-- ==== Sys2Proof/Word.lean ====
section
/-! DEFINITION. The words of KX-9: bytes, 64-bit words, instruction words, register numbers (04_encoding R60, R68, R70). -/

namespace Sys2Proof

/-- A byte of memory. -/
abbrev Byte := BitVec 8
/-- A 64-bit scalar register or memory word. -/
abbrev Word := BitVec 64
/-- The sixteen 32-bit lanes of a vector register, lane 0 first (R70). -/
abbrev Lanes := List (BitVec 32)
/-- A program counter (R80: bit 31 selects the code space). -/
abbrev Pc := BitVec 32
/-- A 6-bit register number (Table 4.4). -/
abbrev Reg := BitVec 6
/-- A 96-bit instruction word (R60). -/
abbrev IWord := BitVec 96

end Sys2Proof
end

