-- ==== Sys2Proof/Syntax.lean ====
section
/-! DEFINITION. The syntax: one constructor of `Instr` per row of spec/opcode_table.json. The first rows are the
instructions of Table 4.7, which have encodings; the later rows are host commands and device events
(95_what_each_step_holds), which have none and are taken from the state's agenda. -/

namespace Sys2Proof

/-- The fields that mean the same in every instruction word, and MO and SC (Table 4.3, R68). -/
structure Ctl where
  pr : BitVec 3 := 0
  pn : BitVec 1 := 0
  at' : BitVec 3 := 0
  ct : BitVec 7 := 0
  pd : BitVec 2 := 0
  mo : BitVec 2 := 0
  sc : BitVec 3 := 0
  deriving DecidableEq, Repr

/-- The condition codes of `cmp` (Table 4.7, OP 0x22). -/
inductive Cond where
  | eq | ne | ltI | leI | gtI | geI | ltN | leN | gtN | geN
  deriving DecidableEq, Repr

/-- The float types of Table 6.1. -/
inductive FTy where
  | f32 | bf16 | f16 | e4m3 | e5m2
  deriving DecidableEq, Repr

/-- The conditions of `fcmp` (Table 4.7, OP 0x45). -/
inductive FCond where
  | eq | ne | lt | le | gt | ge | un | ord
  deriving DecidableEq, Repr

/-- The integer kinds of `fcvt` (R113). -/
inductive IKind where
  | i32 | n32 | i64 | n64
  deriving DecidableEq, Repr

/-- The kinds of `fcvt` (R113): float to float, float to integer, integer to float. -/
inductive Cvt where
  | ff (src dst : FTy)
  | fi (src : FTy) (k : IKind)
  | fromInt (k : IKind) (dst : FTy)
  deriving DecidableEq, Repr

/-- The operations of `vred` and `vscan` (Table 4.7, OP 0x51). -/
inductive VOp where
  | add | and | or | xor | minI | minN | maxI | maxN | fadd | fmin | fmax
  deriving DecidableEq, Repr

/-- Load variants (Table 7.3). -/
inductive LdKind where
  | i8 | n8 | i16 | n16 | i32 | n32 | d
  deriving DecidableEq, Repr

/-- Store sizes (R124). -/
inductive StKind where
  | b | h | w | d
  deriving DecidableEq, Repr

/-- Atomic operations (Table 7.6). -/
inductive AtomOp where
  | add | and | or | xor | minI | minN | maxI | maxN | swap | fadd
  deriving DecidableEq, Repr

/-- A message: the header fields of Table 2.2, its payload words (LEN = their number), the attempt count ATT that its
inbox entry keeps (R310), and where it is kept: 0 inbox entries 0 to 55, 1 entries 56 to 63, 2 the overflow, 3 a
prefetch entry (R26, R40); `bad` marks an entry that a soft error made uncorrectable (R308). -/
structure Msg where
  dst : BitVec 13 := 0
  chan : BitVec 6 := 0
  cls : Bool := false
  ctx : BitVec 8 := 0
  src : BitVec 13 := 0
  mid : BitVec 16 := 0
  err : Bool := false
  wake : Bool := false
  task : Bool := false
  host : Bool := false
  body : List Word := []
  att : Nat := 0
  area : Nat := 0
  bad : Bool := false
  deriving DecidableEq, Repr

/-- The header of a host command entry: TAG and the result buffer (R324). -/
structure HostCmd where
  tag : BitVec 32 := 0
  resAddr : Nat := 0
  resLen : Nat := 0
  deriving DecidableEq, Repr

/-- An initial task of a launch (R44): target as X[A] of `fork` names it (R149), PC, arguments, counter, priority. -/
structure LaunchTask where
  target : Word := 0
  pc : Word := 0
  args : List Word := []
  cnt : Word := 0
  prio : Nat := 0
  deriving DecidableEq, Repr

/-- The fields a launch command carries (R44). -/
structure LaunchBlock where
  ctx : Nat := 0
  coreSet : BitVec 8192 := 0
  sup : Nat := 0
  prog : Nat := 0
  part : BitVec 32 := 0
  hteAll : List (Nat × BitVec 128) := []
  hteSup : List (Nat × BitVec 128) := []
  groups : List (Nat × BitVec 128) := []
  counters : List (Word × Word × BitVec 8) := []
  preload : List (Nat × Nat × Nat) := []
  tasks : List LaunchTask := []
  deriving DecidableEq, Repr, Inhabited

/-- A firmware image met at power-on: its bytes and its signature (R305). -/
structure Image where
  bytes : List Byte := []
  sig : List Byte := []
  deriving DecidableEq, Repr

/-- What the device configuration image sets (R305, R314, R330), and the width and rate in GT/s to which each host link has
trained (R321): the HBM scrub interval in hours, the end-to-end timer in cycles, and the default reservations by link. -/
structure DevConfig where
  hbmHours : Nat := 6
  e2e : Nat := 35000
  resv : List (Nat × List (BitVec 32)) := []
  hostLinks : List (Nat × Nat) := [(16, 128), (16, 128)]
  deriving DecidableEq, Repr

/-- What POWER_ON meets (R305): the images in the order in which they are verified: the controller firmware, the die firmware of
die 0 to 7, the SerDes and optics firmware, the configuration image; and what that one sets. -/
structure Firmware where
  images : List Image := []
  config : DevConfig := {}
  deriving DecidableEq, Repr

/-- What a control flit says, with its CRC-16 and its GMAC as they arrive (R327). -/
structure FlitIn where
  val : Nat := 0
  crc : BitVec 16 := 0
  mac : BitVec 32 := 0
  deriving DecidableEq, Repr

/-- A fabric cell: the header of Table 17.6 and its payload, in the clear (R302). -/
structure Cell where
  ddev : BitVec 15 := 0
  sdev : BitVec 15 := 0
  ctx : BitVec 6 := 0
  vc : BitVec 2 := 0
  kg : Bool := false
  kind : BitVec 4 := 0
  hops : BitVec 2 := 0
  eseq : BitVec 32 := 0
  txc : BitVec 16 := 0
  lseq : BitVec 12 := 0
  body : List Byte := []
  deriving DecidableEq, Repr

/-- One access of a peer's atomic line region (R135, R289): a load of `n` bytes at an address, or a store of bytes there. -/
structure RegionPart where
  va : Nat := 0
  n : Nat := 8
  bytes : Option (List Byte) := none
  deriving DecidableEq, Repr

/-- What a peer access asks (R289): a load of `n` bytes, a store of bytes, an atomic of Table 7.6, or an atomic line region. -/
inductive PeerOp where
  | load (n : Nat)
  | store (bytes : List Byte)
  | atom (op : AtomOp) (n : Nat) (b : Word)
  | cas (n : Nat) (cmp new : Word)
  | region (parts : List RegionPart)
  deriving DecidableEq, Repr

/-- An access that arrives from a peer device (R289): what it asks, the cell that brought it, and whether it wants its result. -/
structure PeerAccess where
  eseq : Nat := 0
  posted : Bool := false
  dev : BitVec 15 := 0
  ctx : Nat := 0
  core : Nat := 0
  va : Nat := 0
  op : PeerOp := .load 8
  deriving DecidableEq, Repr

/-- What the reply to a peer's access carries (R289): that it is done, the bytes read, or the cause and address of its fault. -/
inductive PeerAnswer where
  | done
  | data (bytes : List Byte)
  | fault (code : BitVec 16) (va : Nat)
  deriving DecidableEq, Repr

/-- A parcel that reaches this device (R200): where from, where to, and what travels with it: its size in 256-byte units,
its attributes, the bytes of its resident extent from offset `lo` on, and the offsets of its poisoned words. -/
structure ParcelIn where
  srcDev : BitVec 15 := 0
  srcCore : Nat := 0
  srcCtx : Nat := 0
  core : Nat := 0
  chan : Nat := 0
  dstWord : Word := 0
  oldHandle : Nat := 0
  units : Nat := 0
  perm : BitVec 8 := 0
  fmt : BitVec 5 := 0
  geo : BitVec 15 := 0
  lo : Nat := 0
  body : List Byte := []
  poison : List Nat := []
  deriving DecidableEq, Repr

/-- How a load reply reaches the core: from its performing point, from a store in flight that a core released (R240: that
core and the entry's place among its released entries), from one in the outbound queue of a fabric port (the device and
the place among the cells it has not acknowledged), or from a peer device, by the ESEQ of its cell, with its data or
fault. -/
inductive ReplyFrom where
  | home
  | inFlight (core idx : Nat)
  | port (dev idx : Nat)
  | peer (dev eseq : Nat) (bytes : List Byte)
  | peerFault (dev eseq : Nat) (cause : BitVec 16) (info : Word)
  deriving DecidableEq, Repr

/-- A soft error (R308): what it is, and where. `fixedAt` is a corrected word of a structure that no sweep reads: its UNIT
(Table 16.5: 1 registers, 7 inbox, 8 queues, 9 Quince), its core (for Quince its die × 16 + bank), and the word. -/
inductive SoftError where
  | corrected (level : Nat) (key : Nat)
  | poisonWord (level : Nat) (key : Nat)
  | slice (core sl i j : Nat)
  | counter (cluster idx : Nat)
  | waitOne (cluster idx : Nat)
  | waitBoth (cluster idx : Nat)
  | task (die bank idx : Nat) (cntOk : Bool)
  | message (core idx : Nat)
  | fixedAt (unit idx word : Nat)
  deriving DecidableEq, Repr

/-- A soft error that a scrub finds, or the access of an activation: its core, slot and virtual address, 0 where none is known
(R308, R314, R315). -/
structure ScrubFind where
  what : SoftError := .corrected 0 0
  by_ : Option (Nat × Nat × Nat) := none
  deriving DecidableEq, Repr

/-- What SCRUB_SWEEP brings: a sweep of a level with its findings, or, of no level, what accesses have found (R308, R314). -/
structure Sweep where
  level : Option Nat := none
  finds : List ScrubFind := []
  deriving DecidableEq, Repr

/-- What the permit audit of a die reads of one link (R316): the link, the sender's permits, the receiver's free slots, the
buffer size, and whether it drained in time. Of a fabric link it reads the credit snapshot: the cells that the receiver
holds for each VC, with the check values of its flit (R327). -/
structure AuditRead where
  snap : Option (List Nat) := none
  flit : FlitIn := {}
  link : Nat := 0
  permits : Nat := 0
  free : Nat := 0
  size : Nat := 0
  drained : Bool := true
  deriving DecidableEq, Repr

/-- What a failed check of a core's structure was (R308, R309, R311). -/
inductive CheckKind where
  | pipe | reg | queue
  deriving DecidableEq, Repr

/-- One constructor per row of spec/opcode_table.json. -/
inductive Instr where
  -- integer, bit field, predicate and control (05)
  | illegal (u : Ctl)
  | add (u : Ctl) (d a b : Reg) | sub (u : Ctl) (d a b : Reg) | mul (u : Ctl) (d a b : Reg)
  | mulhI (u : Ctl) (d a b : Reg) | mulhN (u : Ctl) (d a b : Reg)
  | divI (u : Ctl) (d a b : Reg) | divN (u : Ctl) (d a b : Reg)
  | remI (u : Ctl) (d a b : Reg) | remN (u : Ctl) (d a b : Reg)
  | addImm (u : Ctl) (d a : Reg) (imm : BitVec 32) | subImm (u : Ctl) (d a : Reg) (imm : BitVec 32)
  | mulImm (u : Ctl) (d a : Reg) (imm : BitVec 32)
  | mulhIImm (u : Ctl) (d a : Reg) (imm : BitVec 32) | mulhNImm (u : Ctl) (d a : Reg) (imm : BitVec 32)
  | divIImm (u : Ctl) (d a : Reg) (imm : BitVec 32) | divNImm (u : Ctl) (d a : Reg) (imm : BitVec 32)
  | remIImm (u : Ctl) (d a : Reg) (imm : BitVec 32) | remNImm (u : Ctl) (d a : Reg) (imm : BitVec 32)
  | and (u : Ctl) (d a b : Reg) | or (u : Ctl) (d a b : Reg) | xor (u : Ctl) (d a b : Reg) | andn (u : Ctl) (d a b : Reg)
  | shl (u : Ctl) (d a b : Reg) | shr (u : Ctl) (d a b : Reg) | sar (u : Ctl) (d a b : Reg) | rol (u : Ctl) (d a b : Reg)
  | minI (u : Ctl) (d a b : Reg) | minN (u : Ctl) (d a b : Reg) | maxI (u : Ctl) (d a b : Reg) | maxN (u : Ctl) (d a b : Reg)
  | andImm (u : Ctl) (d a : Reg) (imm : BitVec 32) | orImm (u : Ctl) (d a : Reg) (imm : BitVec 32)
  | xorImm (u : Ctl) (d a : Reg) (imm : BitVec 32) | andnImm (u : Ctl) (d a : Reg) (imm : BitVec 32)
  | shlImm (u : Ctl) (d a : Reg) (n : BitVec 6) | shrImm (u : Ctl) (d a : Reg) (n : BitVec 6)
  | sarImm (u : Ctl) (d a : Reg) (n : BitVec 6) | rolImm (u : Ctl) (d a : Reg) (n : BitVec 6)
  | minIImm (u : Ctl) (d a : Reg) (imm : BitVec 32) | minNImm (u : Ctl) (d a : Reg) (imm : BitVec 32)
  | maxIImm (u : Ctl) (d a : Reg) (imm : BitVec 32) | maxNImm (u : Ctl) (d a : Reg) (imm : BitVec 32)
  | clz (u : Ctl) (d a : Reg) | ctz (u : Ctl) (d a : Reg) | popc (u : Ctl) (d a : Reg)
  | bfx (u : Ctl) (d a : Reg) (pos : BitVec 6) (len : BitVec 7) | bfi (u : Ctl) (d a : Reg) (pos : BitVec 6) (len : BitVec 7)
  | brev (u : Ctl) (d a : Reg) | bswap (u : Ctl) (d a : Reg)
  | li (u : Ctl) (d : Reg) (imm : BitVec 32) | lih (u : Ctl) (d : Reg) (imm : BitVec 32) | mov (u : Ctl) (d a : Reg)
  | sel (u : Ctl) (d a b c : Reg) | extI (u : Ctl) (d a : Reg) (n : BitVec 7) | extN (u : Ctl) (d a : Reg) (n : BitVec 7)
  | cmp (u : Ctl) (cc : Cond) (d a b : Reg) | cmpImm (u : Ctl) (cc : Cond) (d a : Reg) (imm : BitVec 32)
  | pand (u : Ctl) (d a b : Reg) | por (u : Ctl) (d a b : Reg) | pxor (u : Ctl) (d a b : Reg)
  | pnot (u : Ctl) (d a : Reg) | pmov (u : Ctl) (d a : Reg)
  | br (u : Ctl) (imm : BitVec 32) | j (u : Ctl) (imm : BitVec 32) | jal (u : Ctl) (d : Reg) (imm : BitVec 32)
  | jr (u : Ctl) (a : Reg) | jtab (u : Ctl) (a : Reg) (len : BitVec 7) (base : BitVec 32) | loop (u : Ctl) (d : Reg) (imm : BitVec 32)
  | sig (u : Ctl) (imm : BitVec 24) | nop (u : Ctl) | brk (u : Ctl) (imm : BitVec 32) | trap (u : Ctl) (imm : BitVec 32)
  | done (u : Ctl) | commit (u : Ctl) | abort (u : Ctl) (drop : BitVec 1)
  -- floating point and vector (06)
  | fadd (u : Ctl) (ty : FTy) (rm : BitVec 2) (d a b : Reg) | fsub (u : Ctl) (ty : FTy) (rm : BitVec 2) (d a b : Reg)
  | fmul (u : Ctl) (ty : FTy) (rm : BitVec 2) (d a b : Reg) | fdiv (u : Ctl) (ty : FTy) (rm : BitVec 2) (d a b : Reg)
  | fma (u : Ctl) (ty : FTy) (rm : BitVec 2) (d a b c : Reg) | fms (u : Ctl) (ty : FTy) (rm : BitVec 2) (d a b c : Reg)
  | fnma (u : Ctl) (ty : FTy) (rm : BitVec 2) (d a b c : Reg)
  | fsqrt (u : Ctl) (ty : FTy) (rm : BitVec 2) (d a : Reg) | frcp (u : Ctl) (ty : FTy) (rm : BitVec 2) (d a : Reg)
  | frsq (u : Ctl) (ty : FTy) (rm : BitVec 2) (d a : Reg) | frnd (u : Ctl) (ty : FTy) (rm : BitVec 2) (d a : Reg)
  | fmin (u : Ctl) (ty : FTy) (d a b : Reg) | fmax (u : Ctl) (ty : FTy) (d a b : Reg)
  | fabs (u : Ctl) (ty : FTy) (d a : Reg) | fneg (u : Ctl) (ty : FTy) (d a : Reg) | fclass (u : Ctl) (ty : FTy) (d a : Reg)
  | fscale (u : Ctl) (ty : FTy) (rm : BitVec 2) (d a b : Reg) | fcvt (u : Ctl) (k : Cvt) (rm : BitVec 2) (d a : Reg)
  | fcmp (u : Ctl) (cc : FCond) (ty : FTy) (d a b : Reg)
  | vbcast (u : Ctl) (d a : Reg) | vext (u : Ctl) (d a b : Reg) (k : BitVec 4) | vins (u : Ctl) (d a b : Reg) (k : BitVec 4)
  | vperm (u : Ctl) (d a b : Reg) | vshift (u : Ctl) (d a b : Reg) (imm : BitVec 32)
  | vcompress (u : Ctl) (d a b : Reg) | vexpand (u : Ctl) (d a b : Reg) | vpopc (u : Ctl) (d a : Reg) | vlane (u : Ctl) (d : Reg)
  | vred (u : Ctl) (op : VOp) (d a : Reg) | vscan (u : Ctl) (op : VOp) (d a : Reg)
  -- memory, atomics, counters and messages (07)
  | ld (u : Ctl) (k : LdKind) (d a : Reg) (imm : BitVec 32) | st (u : Ctl) (k : StKind) (a b : Reg) (imm : BitVec 32)
  | ldv (u : Ctl) (d a : Reg) (imm : BitVec 32) | stv (u : Ctl) (a b : Reg) (imm : BitVec 32)
  | ldvx (u : Ctl) (d a b : Reg) (imm : BitVec 32) | stvx (u : Ctl) (a b c : Reg) (imm : BitVec 32)
  | pref (u : Ctl) (a : Reg) (imm : BitVec 32)
  | atom (u : Ctl) (op : AtomOp) (w : BitVec 1) (d a b : Reg) (imm : BitVec 32)
  | cas (u : Ctl) (w : BitVec 1) (d a b c : Reg) (imm : BitVec 32)
  | alrB (u : Ctl) (a : Reg) (imm : BitVec 32) | alrE (u : Ctl) | fence (u : Ctl) | fenceSc (u : Ctl) | ifence (u : Ctl)
  | cadd (u : Ctl) (a b : Reg) (imm : BitVec 32) | cread (u : Ctl) (e : BitVec 1) (d a : Reg)
  | cwait (u : Ctl) (d a b : Reg) (ch : BitVec 6) (imm : BitVec 32) | cerr (u : Ctl) (a : Reg) (code : BitVec 8)
  | cinit (u : Ctl) (a b : Reg) (code : BitVec 8)
  | send (u : Ctl) (a b : Reg) (n : BitVec 3) (ch : BitVec 6) | reply (u : Ctl) (a b : Reg) (n : BitVec 3) (ch : BitVec 6)
  | peek (u : Ctl) (d : Reg) (m : BitVec 4) (w : BitVec 3)
  | spawn (u : Ctl) (d a b c : Reg) (imm : BitVec 32) | fork (u : Ctl) (q : BitVec 3) (a b c : Reg) (imm : BitVec 32)
  | pause (u : Ctl) (n : BitVec 16) | chmask (u : Ctl) (a : Reg) (op : BitVec 1) | chstat (u : Ctl) (d : Reg) (ch : BitVec 6)
  | sysc (u : Ctl) (imm : BitVec 32)
  -- matrix, jobs and groups (08)
  | mzero (u : Ctl) (sl : BitVec 2) | mlda (u : Ctl) (pa : BitVec 5) (a b : Reg) | mldb (u : Ctl) (bw : BitVec 1) (a b : Reg)
  | gang (u : Ctl) (a : Reg) | mma (u : Ctl) (pa : BitVec 5) (sl : BitVec 2) (bw : BitVec 1) (a b c : Reg)
  | mst (u : Ctl) (sl : BitVec 2) (a : Reg) (imm : BitVec 32)
  | mquant (u : Ctl) (fmt : BitVec 3) (lay loc : BitVec 1) (a b c : Reg) (k : BitVec 32)
  | maxbar (u : Ctl) (d a b : Reg) | mscale (u : Ctl) (sl : BitVec 2) (a : Reg) | mstat (u : Ctl) (d : Reg) (sel : BitVec 3)
  | job (u : Ctl) (a : Reg) | wptr (u : Ctl) (d a : Reg) | gath (u : Ctl) (a : Reg) | scat (u : Ctl) (a : Reg)
  | gbar (u : Ctl) (a b : Reg) | gmcast (u : Ctl) (a b : Reg) (n : BitVec 3) (ch : BitVec 6)
  -- index, ranges, parcels and system (09)
  | ldnear (u : Ctl) (a : Reg) | stvec (u : Ctl) (a : Reg) | delvec (u : Ctl) (a : Reg) | ixsnap (u : Ctl) (a : Reg)
  | ixrel (u : Ctl) (a : Reg) | ixstat (u : Ctl) (a : Reg) | ixcfg (u : Ctl) (a : Reg) | ixcent (u : Ctl) (a : Reg)
  | rsplit (u : Ctl) (a b : Reg) (ctr : BitVec 18) | rmerge (u : Ctl) (a b : Reg) (ctr : BitVec 18)
  | rinval (u : Ctl) (reach : BitVec 2) (a : Reg) (ctr : BitVec 18) | rprobe (u : Ctl) (d a : Reg) | runpin (u : Ctl) (a : Reg)
  | rquery (u : Ctl) (a b : Reg) | rres (u : Ctl) (a b c : Reg) (ctr : BitVec 18) | rcompact (u : Ctl) (a b : Reg) (ctr : BitVec 18)
  | pmake (u : Ctl) (d a : Reg) (ctr : BitVec 18) | post (u : Ctl) (a b : Reg) (ch : BitVec 6) (ctr : BitVec 18)
  | ldp (u : Ctl) (d a : Reg) (imm : BitVec 32) | stp (u : Ctl) (a b : Reg) (imm : BitVec 32)
  | pstat (u : Ctl) (d a : Reg) | pfree (u : Ctl) (a : Reg) (ctr : BitVec 18)
  | csrr (u : Ctl) (d : Reg) (csr : BitVec 12) | csrw (u : Ctl) (a : Reg) (csr : BitVec 12) | sret (u : Ctl) (a b c : Reg)
  | ctxsave (u : Ctl) (a b : Reg) (ctr : BitVec 18) | ctxload (u : Ctl) (a b : Reg) (ctr : BitVec 18)
  | wdset (u : Ctl) (a : Reg) | prio (u : Ctl) (a : Reg) (ch : BitVec 6) | halt (u : Ctl) (a : Reg) (op : BitVec 1)
  | scrub (u : Ctl) (a b : Reg) | errpop (u : Ctl) (d a b : Reg) | cap (u : Ctl) (d a : Reg)
  -- host commands and host acts (17)
  | launch (h : HostCmd) (b : LaunchBlock) | resync (h : HostCmd) | attest (h : HostCmd) (nonce : BitVec 256)
  | capread (h : HostCmd) (off : Nat) | errlog (h : HostCmd) (level ctx most : Nat)
  | reserve (h : HostCmd) (link : Nat) (table : List (BitVec 32)) | hbmscrub (h : HostCmd) (hours : Nat)
  | rekey (h : HostCmd) (link : Nat) | inject (h : HostCmd) (core chan : Nat) (cls : Bool) (ctx : Nat) (words : List Word)
  | endctx (h : HostCmd) (ctx : Nat) | devnumWrite (n : BitVec 15) | hostRegisterWrite (off : Nat) (v : Word)
  | powerOn (images : Firmware) | linkTraining (link : Nat)
  -- device events
  | messageArrival (n : Nat) | activationBind (core : Nat) | budgetExpired (core slot : Nat) | injectionForward (core n : Nat)
  | forkEnterBank (core n : Nat) | quinceDispatch (die bank : Nat) | spawnRequestArrival (core slot id : Nat)
  | coreQuiescent (core : Nat) | caddPerformed (core n : Nat) | cerrPerformed (core n : Nat) | cinitPerformed (core n : Nat)
  | counterWake (cluster n : Nat) | loadReply (core slot id : Nat) (src : ReplyFrom) | rangeWalk (die n : Nat)
  | storeEntryPerformed (core n : Nat) | poolBankWrite (core : Nat) | commitDrainEnd (core slot : Nat)
  | shadowFold (ctx : Nat) | oobEvent (ctx : Nat) | contextCsrArrival (ctx : Nat)
  | matrixOpPerformed (core : Nat) | gangArrival (core : Nat) | gangJoin (leader : Nat) | gangTimeout (leader : Nat)
  | mmaStepComplete (leader : Nat) (badBlock : Option Nat) | maxbarRoundComplete (ctx grp : Nat) | maxbarTimeout (ctx grp : Nat)
  | gbarArrival (core : Nat) | gbarRelease (ctx grp : Nat) | gbarTimeout (ctx grp : Nat)
  | jobArrival (die n : Nat) | copyJobComplete (die n : Nat) | distributorJobComplete (die n : Nat)
  | brambleJobComplete (die n : Nat) | gatherKernel (die n : Nat) | gatherJobComplete (die n : Nat)
  | indexArrivalStep (die n : Nat) | indexWorkStep (die n engine : Nat) | indexReclaim (ctx vbase : Nat)
  | directoryUpdate (ctx : Nat) | rinvalComplete (ctx n : Nat) | pstatArrival (core slot id : Nat) | compactionComplete (die : Nat)
  | parcelPurgeComplete (n : Nat) | parcelPlacement (p : ParcelIn) | parcelArrivalComplete (n : Nat) | parcelAccepted (n : Nat)
  | parcelReturned (n : Nat) | sretPerformed (core n : Nat) | haltPerformed (core n : Nat) | ctxsavePerformed (core n : Nat)
  | ctxloadPerformed (core n : Nat) | peerAccessArrival (p : PeerAccess) | pipelineCheckFailure (core slot : Nat) (k : CheckKind)
  | scrubSweep (ctx : Nat) (finds : Sweep) | permitAudit (die : Nat) (reads : List AuditRead) | msgStall (core : Nat)
  | coreMap (core : Nat) | coreLost (core : Nat)
  | vcLimitRecompute (link : Nat) | creditLimitFlit (link vc : Nat) (limit : FlitIn) | frameSlotSend (link : Nat)
  | cellReceive (link : Nat) (head payload tail : List Byte) | nakReceive (link : Nat) (lseq : FlitIn)
  | linkAckReceive (link : Nat) (lseq : FlitIn)
  | endToEndAckReceive (dev eseq : Nat) | endToEndTimer (dev eseq : Nat) | pathAbandon (dev : Nat) | pathReset (dev : Nat)
  | eseqExhausted (dev : Nat) | keyChangeStart (link : Nat) | previousKeyDiscard (link : Nat) | authFailureRetrain (link : Nat)
  | wavelengthDark (link wave : Nat) | restripeFlit (link : Nat) (mask : FlitIn) | linkDown (link : Nat)
  | thermalThrottle (die : Nat) (up : Bool) | maxbarContribution (core slot id : Nat) | cwaitReservation (core slot id : Nat)
  | recordBufferSend (fromDie : Bool) (n : Nat) | fabricCreditReturn (link : Nat) (vc : FlitIn) | saddleLaneReplace (saddle : Nat)
  deriving DecidableEq, Repr

end Sys2Proof
end

