-- ==== Sys2Proof/Machine/Float.lean ====
section
/-! DEFINITION. Floating-point arithmetic (10_promise_arithmetic R208, R209, R217, R218; 06_isa_float_vector R105 to
R115): values are decoded to exact dyadic numbers, combined exactly, and rounded once. Bits are natural numbers. -/

namespace Sys2Proof.Machine.Float

/-- A layout of Table 10.1: exponent and fraction widths, bias, whether an infinity exists, and the canonical NaN. -/
structure Fmt where
  eb : Nat
  fb : Nat
  bias : Nat
  hasInf : Bool
  nan : Nat
  deriving DecidableEq, Repr

/-- Tables 10.1, 10.2 and 6.1. -/
def fmt : FTy → Fmt
  | .f32 => ⟨8, 23, 127, true, 0x7FC00000⟩
  | .bf16 => ⟨8, 7, 127, true, 0x7FC0⟩
  | .f16 => ⟨5, 10, 15, true, 0x7E00⟩
  | .e4m3 => ⟨4, 3, 7, false, 0x7F⟩
  | .e5m2 => ⟨5, 2, 15, true, 0x7E⟩

/-- The width w of a type (Table 6.1). -/
def width (t : FTy) : Nat := (fmt t).eb + (fmt t).fb + 1

/-- The sign bit's weight. -/
def signBit (t : FTy) : Nat := 2 ^ (width t - 1)

/-- The encoding of the largest finite value (Table 10.2). -/
def maxFin (t : FTy) : Nat :=
  if (fmt t).hasInf then (2 ^ (fmt t).eb - 1) * 2 ^ (fmt t).fb - 1 else 2 ^ (width t - 1) - 2

/-- A decoded value (R208): a NaN (signalling or not), an infinity, or (-1)^s × m × 2^e. -/
inductive Val where
  | nan (sig : Bool)
  | inf (s : Bool)
  | fin (s : Bool) (m : Nat) (e : Int)
  deriving DecidableEq, Repr

/-- Decodes the low w bits (R208, Table 10.1). -/
def dec (t : FTy) (bits : Nat) : Val :=
  let f := fmt t
  let s := decide (bits / 2 ^ (f.eb + f.fb) % 2 = 1)
  let e := bits / 2 ^ f.fb % 2 ^ f.eb
  let fr := bits % 2 ^ f.fb
  let top := 2 ^ f.eb - 1
  if f.hasInf && decide (e = top) then
    if fr = 0 then .inf s else .nan (decide (fr < 2 ^ (f.fb - 1)))
  else if !f.hasInf && decide (e = top) && decide (fr = 2 ^ f.fb - 1) then .nan false
  else if e = 0 then .fin s fr (1 - (f.bias : Int) - f.fb)
  else .fin s (2 ^ f.fb + fr) ((e : Int) - f.bias - f.fb)

/-- The sticky flags of the span shadow (R107): [2] invalid, [3] division by zero, [4] overflow, [5] underflow,
[6] inexact. -/
abbrev Flags := BitVec 7
/-- Invalid. -/
def fnv : Flags := 0x04
/-- Division by zero. -/
def fdz : Flags := 0x08
/-- Overflow. -/
def fof : Flags := 0x10
/-- Underflow. -/
def fuf : Flags := 0x20
/-- Inexact. -/
def fnx : Flags := 0x40

/-- A result: its bits and the flags it raises. -/
abbrev Res := Nat × Flags

/-- A rounding mode of FN [87:86] (R84): RNE, RZ, RU, RD. -/
abbrev Mode := BitVec 2

/-- The integer n for which n × 2^q is m × 2^e rounded in mode `rm` to a multiple of 2^q (R217), and whether it is
exact. -/
def quant (rm : Mode) (s : Bool) (m : Nat) (e q : Int) : Nat × Bool :=
  if q ≤ e then (m * 2 ^ (e - q).toNat, true) else
    let d := (q - e).toNat
    let n := m / 2 ^ d
    let r := m % 2 ^ d
    let up := if rm = 0 then decide (2 ^ d < 2 * r) || (decide (2 ^ d = 2 * r) && decide (n % 2 = 1))
      else if rm = 1 then false else if rm = 2 then !s && decide (r ≠ 0) else s && decide (r ≠ 0)
    (if up then n + 1 else n, decide (r = 0))

/-- ±∞, or in E4M3 the value ±448 with inexact added (R109). -/
def infOf (t : FTy) (s : Bool) : Res :=
  let sb := if s then signBit t else 0
  if (fmt t).hasInf then (sb + (2 ^ (fmt t).eb - 1) * 2 ^ (fmt t).fb, 0) else (sb + maxFin t, fnx)

/-- The rounding of (-1)^s × m × 2^e to type `t` in mode `rm` (R109, R217). -/
def roundTo (t : FTy) (rm : Mode) (s : Bool) (m : Nat) (e : Int) : Res :=
  let f := fmt t
  let sb := if s then signBit t else 0
  if m = 0 then (sb, 0) else
    let emin : Int := 1 - f.bias
    let top : Int := (Nat.log2 m : Int) + e
    let qmin : Int := emin - f.fb
    let q : Int := max (top - f.fb) qmin
    let nx := quant rm s m e q
    let bits := (q - qmin).toNat * 2 ^ f.fb + nx.1
    if maxFin t < bits then
      let toInf := decide (rm = 0) || (decide (rm = 2) && !s) || (decide (rm = 3) && s)
      if toInf then ((infOf t s).1, fof ||| fnx) else (sb + maxFin t, fof ||| fnx)
    else
      let wide := quant rm s m e (top - f.fb)
      let tiny := decide (top < emin) && !(decide (top + 1 = emin) && decide (wide.1 = 2 ^ (f.fb + 1)))
      (sb + bits, if nx.2 then 0 else if tiny then fnx ||| fuf else fnx)

/-- A zero with sign `s`. -/
def zeroOf (t : FTy) (s : Bool) : Res := (if s then signBit t else 0, 0)

/-- Who generates a NaN: the core id and the index (R108, Table 10.8). -/
structure Gen where
  core : Nat := 0
  idx : Nat := 0
  deriving DecidableEq, Repr

/-- A generated NaN (R108), raising invalid. -/
def genNan (t : FTy) (g : Gen) : Res :=
  ((fmt t).nan + (if t = .f32 then g.core % 8192 * 512 + g.idx % 512 else 0), fnv)

/-- Whether an operand is a NaN. -/
def isNan (t : FTy) (a : Nat) : Bool := match dec t a with | .nan _ => true | _ => false
/-- Whether an operand is a signalling NaN. -/
def isSnan (t : FTy) (a : Nat) : Bool := match dec t a with | .nan s => s | _ => false

/-- The NaN with the smallest bits [21:0], the first of equals (R108). -/
def pickNan (best : Nat) : List Nat → Nat
  | [] => best
  | a :: as => pickNan (if a % 2 ^ 22 < best % 2 ^ 22 then a else best) as

/-- The propagated NaN of the operands, if one is a NaN (R108). -/
def propagate (t : FTy) (ops : List Nat) : Option Res :=
  match ops.filter (isNan t) with
  | [] => none
  | a :: as =>
    let fl := if ops.any (isSnan t) then fnv else 0
    if t = .f32 then some (pickNan a as % 2 ^ 32 ||| 2 ^ 22, fl) else some ((fmt t).nan, fl)

/-- The exact sum of two finite numbers, as sign, magnitude and exponent; the sign of an exact zero is R110's. -/
def sumExact (rm : Mode) (sa : Bool) (ma : Nat) (ea : Int) (sb : Bool) (mb : Nat) (eb : Int) : Bool × Nat × Int :=
  if ma = 0 ∧ mb = 0 then (if sa = sb then sa else decide (rm = 3), 0, 0) else
    let e := min ea eb
    let a : Int := (ma * 2 ^ (ea - e).toNat : Nat)
    let b : Int := (mb * 2 ^ (eb - e).toNat : Nat)
    let v := (if sa then -a else a) + (if sb then -b else b)
    if v = 0 then (decide (rm = 3), 0, 0) else (decide (v < 0), v.natAbs, e)

/-- Rounds the sum of two terms neither of which is a NaN (R110). -/
def addVals (t : FTy) (rm : Mode) (g : Gen) (a b : Val) : Res :=
  match a, b with
  | .inf s, .inf s' => if s = s' then infOf t s else genNan t g
  | .inf s, _ => infOf t s
  | _, .inf s => infOf t s
  | .fin s m e, .fin s' m' e' =>
    let r := sumExact rm s m e s' m' e'
    roundTo t rm r.1 r.2.1 r.2.2
  | _, _ => genNan t g

/-- The negated value. -/
def negVal : Val → Val
  | .inf s => .inf (!s)
  | .fin s m e => .fin (!s) m e
  | v => v

/-- The exact product; `none` where it is 0 × ∞. -/
def mulVals (a b : Val) : Option Val :=
  match a, b with
  | .fin s m e, .fin s' m' e' => some (.fin (s ^^ s') (m * m') (e + e'))
  | .fin s m _, .inf s' => if m = 0 then none else some (.inf (s ^^ s'))
  | .inf s, .fin s' m _ => if m = 0 then none else some (.inf (s ^^ s'))
  | .inf s, .inf s' => some (.inf (s ^^ s'))
  | v, _ => some v

/-- Rounds a value that is not a NaN. -/
def roundVal (t : FTy) (rm : Mode) (g : Gen) : Val → Res
  | .inf s => infOf t s
  | .fin s m e => roundTo t rm s m e
  | .nan _ => genNan t g

/-- `fadd` (Table 6.2). -/
def add (t : FTy) (rm : Mode) (g : Gen) (a b : Nat) : Res :=
  (propagate t [a, b]).getD (addVals t rm g (dec t a) (dec t b))
/-- `fsub` (Table 6.2). -/
def sub (t : FTy) (rm : Mode) (g : Gen) (a b : Nat) : Res :=
  (propagate t [a, b]).getD (addVals t rm g (dec t a) (negVal (dec t b)))
/-- `fmul` (Table 6.2). -/
def mul (t : FTy) (rm : Mode) (g : Gen) (a b : Nat) : Res :=
  (propagate t [a, b]).getD (match mulVals (dec t a) (dec t b) with
    | none => genNan t g
    | some v => roundVal t rm g v)

/-- The quotient m ÷ m' of nonzero magnitudes with a sticky low bit, as (magnitude, exponent adjustment): exact enough
that one rounding of it to any type is the rounding of the exact quotient. -/
def quotient (m m' : Nat) : Nat × Int :=
  let k := 64 + Nat.log2 m'
  let q := m * 2 ^ k / m'
  (2 * q + (if m * 2 ^ k % m' = 0 then 0 else 1), -(k : Int) - 1)

/-- `fdiv` (Table 6.2). -/
def div (t : FTy) (rm : Mode) (g : Gen) (a b : Nat) : Res :=
  (propagate t [a, b]).getD (match dec t a, dec t b with
    | .inf _, .inf _ => genNan t g
    | .inf s, .fin s' _ _ => infOf t (s ^^ s')
    | .fin s _ _, .inf s' => zeroOf t (s ^^ s')
    | .fin s m e, .fin s' m' e' =>
      if m' = 0 then
        if m = 0 then genNan t g else ((infOf t (s ^^ s')).1, (infOf t (s ^^ s')).2 ||| fdz)
      else if m = 0 then zeroOf t (s ^^ s')
      else roundTo t rm (s ^^ s') (quotient m m').1 (e - e' + (quotient m m').2)
    | _, _ => genNan t g)

/-- The fused forms (Table 6.2): ±(a × b) ± c with one rounding; `np` negates the product, `nc` the added term. -/
def fused (t : FTy) (rm : Mode) (np nc : Bool) (g : Gen) (a b c : Nat) : Res :=
  let p := mulVals (dec t a) (dec t b)
  match propagate t [a, b, c] with
  | some r => (r.1, if p = none then r.2 ||| fnv else r.2)
  | none =>
    match p with
    | none => genNan t g
    | some v => addVals t rm g (if np then negVal v else v) (if nc then negVal (dec t c) else dec t c)

/-- The integer square root of `n`, deciding bits `k - 1` down to 0 of the result `r` so far. -/
def isqrt (n : Nat) : Nat → Nat → Nat
  | 0, r => r
  | k + 1, r => isqrt n k (if (r + 2 ^ k) * (r + 2 ^ k) ≤ n then r + 2 ^ k else r)

/-- √(n × 2^e) for even e and n < 2^160, with a sticky low bit. -/
def sqrtSticky (n : Nat) (exact : Bool) (e : Int) : Nat × Int :=
  let r := isqrt n 80 0
  (2 * r + (if exact && decide (r * r = n) then 0 else 1), e / 2 - 1)

/-- `fsqrt` (Table 6.2). -/
def sqrt (t : FTy) (rm : Mode) (g : Gen) (a : Nat) : Res :=
  (propagate t [a]).getD (match dec t a with
    | .inf s => if s then genNan t g else infOf t false
    | .fin s m e =>
      if m = 0 then zeroOf t s
      else if s then genNan t g
      else
        let k : Nat := if e % 2 = 0 then 64 else 65
        let r := sqrtSticky (m * 2 ^ k) true (e - k)
        roundTo t rm false r.1 r.2
    | .nan _ => genNan t g)

/-- `frcp` (Table 6.2). -/
def rcp (t : FTy) (rm : Mode) (g : Gen) (a : Nat) : Res :=
  (propagate t [a]).getD (match dec t a with
    | .inf s => zeroOf t s
    | .fin s m e =>
      if m = 0 then ((infOf t s).1, (infOf t s).2 ||| fdz)
      else roundTo t rm s (quotient 1 m).1 (-e + (quotient 1 m).2)
    | .nan _ => genNan t g)

/-- `frsq` (Table 6.2): 1 ÷ √(m × 2^e) = √(2^k ÷ m × 2^(-e - k)) with -e - k even. -/
def rsq (t : FTy) (rm : Mode) (g : Gen) (a : Nat) : Res :=
  (propagate t [a]).getD (match dec t a with
    | .inf s => if s then genNan t g else zeroOf t false
    | .fin s m e =>
      if m = 0 then ((infOf t s).1, (infOf t s).2 ||| fdz)
      else if s then genNan t g
      else
        let k : Nat := if e % 2 = 0 then 128 else 129
        let r := sqrtSticky (2 ^ k / m) (decide (2 ^ k % m = 0)) (-e - k)
        roundTo t rm false r.1 r.2
    | .nan _ => genNan t g)

/-- `frnd` (Table 6.2). -/
def rnd (t : FTy) (rm : Mode) (g : Gen) (a : Nat) : Res :=
  (propagate t [a]).getD (match dec t a with
    | .inf _ => (a % 2 ^ width t, 0)
    | .fin s m e =>
      if m = 0 then (a % 2 ^ width t, 0)
      else
        let n := quant rm s m e 0
        ((roundTo t 0 s n.1 0).1, if n.2 then 0 else fnx)
    | .nan _ => genNan t g)

/-- `fscale` (R112): a × 2^n. Outside ±1,000 the exponent no longer changes the rounded result, so n is cut there. -/
def scale (t : FTy) (rm : Mode) (g : Gen) (a : Nat) (n : Int) : Res :=
  (propagate t [a]).getD (match dec t a with
    | .inf _ => (a % 2 ^ width t, 0)
    | .fin s m e =>
      if m = 0 then (a % 2 ^ width t, 0) else roundTo t rm s m (e + max (-1000) (min 1000 n))
    | .nan _ => genNan t g)

/-- The sign-magnitude order of two numbers that are no NaNs, with -0 below +0 (R111). -/
def key (t : FTy) (a : Nat) : Int :=
  let mag : Int := (a % signBit t : Nat)
  if a / signBit t % 2 = 1 then -mag - 1 else mag

/-- The value order of two numbers that are no NaNs, with -0 equal to +0 (R115). -/
def vkey (t : FTy) (a : Nat) : Int :=
  let mag : Int := (a % signBit t : Nat)
  if a / signBit t % 2 = 1 then -mag else mag

/-- `fmin` and `fmax` (R111). -/
def minmax (t : FTy) (isMax : Bool) (a b : Nat) : Res :=
  let a := a % 2 ^ width t
  let b := b % 2 ^ width t
  let fl := if isSnan t a || isSnan t b then fnv else 0
  match isNan t a, isNan t b with
  | true, true => (((propagate t [a, b]).getD (a, 0)).1, fl)
  | true, false => (b, fl)
  | false, true => (a, fl)
  | false, false => (if (if isMax then decide (key t b ≤ key t a) else decide (key t a ≤ key t b)) then a else b, 0)

/-- `fabs` (Table 6.3). -/
def abs (t : FTy) (a : Nat) : Res := (a % signBit t, 0)
/-- `fneg` (Table 6.3). -/
def neg (t : FTy) (a : Nat) : Res := ((a % 2 ^ width t) ^^^ signBit t, 0)

/-- `fclass` (R112). -/
def fclass (t : FTy) (a : Nat) : Res :=
  let bit := match dec t a with
    | .nan s => if s then 8 else 9
    | .inf s => if s then 0 else 7
    | .fin s m _ =>
      if m = 0 then (if s then 3 else 4)
      else if m < 2 ^ (fmt t).fb then (if s then 2 else 5)
      else (if s then 1 else 6)
  (2 ^ bit, 0)

/-- `fcmp` (R115). -/
def cmp (t : FTy) (cc : FCond) (a b : Nat) : Bool × Flags :=
  let un := isNan t a || isNan t b
  let sg := isSnan t a || isSnan t b
  let ka := vkey t a
  let kb := vkey t b
  match cc with
  | .eq => (!un && decide (ka = kb), if sg then fnv else 0)
  | .ne => (un || decide (ka ≠ kb), if sg then fnv else 0)
  | .lt => (!un && decide (ka < kb), if un then fnv else 0)
  | .le => (!un && decide (ka ≤ kb), if un then fnv else 0)
  | .gt => (!un && decide (kb < ka), if un then fnv else 0)
  | .ge => (!un && decide (kb ≤ ka), if un then fnv else 0)
  | .un => (un, if sg then fnv else 0)
  | .ord => (!un, if sg then fnv else 0)

/-- `fcvt` between float types (R113). -/
def cvtFF (src dst : FTy) (rm : Mode) (a : Nat) : Res :=
  let a := a % 2 ^ width src
  match dec src a with
  | .nan s =>
    if src = dst then
      (if src = .e4m3 then a else a ||| 2 ^ ((fmt src).fb - 1), if s then fnv else 0)
    else ((fmt dst).nan, if s then fnv else 0)
  | .inf s => if src = dst then (a, 0) else infOf dst s
  | .fin s m e => if src = dst then (a, 0) else roundTo dst rm s m e

/-- The range of an integer kind (R210). -/
def kindLo : IKind → Int
  | .i32 => -2 ^ 31 | .i64 => -2 ^ 63 | _ => 0
/-- The largest value of an integer kind (R210). -/
def kindHi : IKind → Int
  | .i32 => 2 ^ 31 - 1 | .n32 => 2 ^ 32 - 1 | .i64 => 2 ^ 63 - 1 | .n64 => 2 ^ 64 - 1

/-- Float to integer (R114, Table 6.4): the result as an integer. A magnitude at or above 2^64 is out of every range. -/
def toInt (src : FTy) (k : IKind) (rm : Mode) (a : Nat) : Int × Flags :=
  match dec src a with
  | .nan _ => (0, fnv)
  | .inf s => (if s then kindLo k else kindHi k, fnv)
  | .fin s m e =>
    let n := quant rm s m e 0
    let v : Int := if s then -(n.1 : Int) else n.1
    if kindHi k < v then (kindHi k, fnv)
    else if v < kindLo k then (kindLo k, fnv)
    else (v, if n.2 then 0 else fnx)

/-- Integer to float (R114): one rounding of the exact integer. -/
def ofInt (dst : FTy) (rm : Mode) (v : Int) : Res := roundTo dst rm (decide (v < 0)) v.natAbs 0

/-- The integer that the low bits of a register hold under a kind (R114, R210). -/
def kindVal (k : IKind) (w : Word) : Int :=
  match k with
  | .i32 => (w.extractLsb' 0 32).toInt
  | .n32 => (w.extractLsb' 0 32).toNat
  | .i64 => w.toInt
  | .n64 => w.toNat

end Sys2Proof.Machine.Float
end

