-- ==== Sys2Proof/Config.lean ====
section
/-! DEFINITION. What the spec leaves open: free values. Each is an opaque constant without a body, so nothing can be
proved about the value it has. Log 13. -/

namespace Sys2Proof.Config

/-- Which of several enabled steps comes next when the agenda is empty; indexed by the step counter (log 3). -/
opaque choose : Nat → Nat
/-- The shared secret of a key agreement: link, whether this device transmits, generation (15_isolation R302). -/
opaque sharedSecret : Nat → Bool → Nat → List Byte
/-- The id of a link direction, by link and whether this device transmits (15_isolation Table 15.6). -/
opaque dirId : Nat → Bool → BitVec 32
/-- The generation count as key derivation takes it (15_isolation Table 15.6 gives no width). -/
opaque genBytes : Nat → List Byte
/-- The CRC-32 of a cell's bytes 0 to 123 (17_host_fabric R327 gives no polynomial). -/
opaque crc32 : List Byte → BitVec 32
/-- The CRC-16 of a control flit by its kind and fields (17_host_fabric R327 gives neither its layout nor a polynomial). -/
opaque flitCrc : List Nat → BitVec 16
/-- The 32-bit GMAC of a control flit under a key (R327 gives it no nonce and the flit no layout). -/
opaque flitMac : BitVec 256 → List Nat → BitVec 32
/-- Which of the control flits that no acknowledgement has covered a link error has lost, by step and place (14_progress R281). -/
opaque flitLost : Nat → Nat → Bool
/-- The payload of a key-agreement cell, by link and leaf (15_isolation R302 states no layout). -/
opaque keyBody : Nat → Nat → List Byte
/-- Whether a key-agreement cell answers this controller's own request, by step. -/
opaque keyAnswers : Nat → Bool
/-- The device number at the other end of a link, for cells that go no further. -/
opaque neighbour : Nat → BitVec 15
/-- Whether a management cell starts a path reset, by step (17_host_fabric R332 states no layout). -/
opaque resetAsked : Nat → Bool
/-- The payload of a management cell, by step. -/
opaque mgmtBody : Nat → List Byte
/-- The payload of a reply cell, by what it says (17_host_fabric states no layout). -/
opaque replyBody : PeerAnswer → List Byte
/-- The launch block that the bytes of an operand block hold: 02_activations R44 gives its fields and no byte layout. -/
opaque launchBlock : List Byte → LaunchBlock
/-- The vendor key in the fuses: root and seed, 64 bytes (15_isolation R305). -/
opaque vendorKey : List Byte
/-- The XMSS signature bytes over an attestation record, by leaf (15_isolation R306, R307), uninterpreted. -/
opaque signature : Nat → List Byte → List Byte
/-- The identity public key, 64 bytes (Table 15.7). -/
opaque identityKey : List Byte
/-- VER of a capability record, by ID (17_host_fabric R326). -/
opaque capVer : Nat → BitVec 8
/-- The body words of a capability record whose layout the spec does not give, by ID and the numbers it reports. -/
opaque capBody : Nat → List Nat → List Word
/-- The attempt count of a message that `ctxload` restores: the image of 09 Table 9.15 has no place for it, by step. -/
opaque loadedAtt : Nat → Nat
/-- Whether a job that met poison had written output byte k (Table 8.5: an unspecified subset). -/
opaque jobWrote : Nat → Nat → Bool
/-- The result word of a distributor or gather job (08_isa_matrix_engines R172 states none), by step. -/
opaque jobResult : Nat → Word
/-- Where the staged copy of a gather kernel's line stands in the pool, in 128-byte units (R179 states no place). -/
opaque stagedAt : Nat → Nat
/-- What a job reads from peer-device memory, which is no part of this module, by step and address. -/
opaque peerByte : Nat → Nat → Byte
/-- Whether another device answers such a read with a fault (15_isolation R289), by step and address. -/
opaque peerFaults : Nat → Nat → Bool
/-- The physical address INFO of an `ix.poison` record: index data has no stated layout (13_nearest R267). -/
opaque ixAddr : Nat → Word
/-- What a slot unit of the pool holds, as `ctxsave` finds it: R12 gives its registers, checkpoint and journal, and their order
within each is not stated; by step and offset in the pool. -/
opaque slotByte : Nat → Nat → Byte
/-- Syndrome and bit position fields of an error record (Table 16.5): the (72,64) code is not given. -/
opaque eccInfo : Nat → Word
/-- Whether an index range of so many bytes lacks the room for an insert, by the bytes of what the index would hold
(13_nearest R267: index data has no stated layout). -/
opaque ixFull : Nat → Nat → Bool
/-- Whether a work step meets index data that has become uncorrectable (13_nearest R267), by step. -/
opaque ixPoisoned : Nat → Bool
/-- Which of the parts that the work step reads that is, by step. -/
opaque ixPart : Nat → Nat

/-- The code and the information of a host event that Table 17.5 does not list (16_recovery R319), by step. -/
opaque eventCode : Nat → BitVec 16
/-- See `eventCode`. -/
opaque eventInfo : Nat → Word
/-- The payload of a request cell: 17_host_fabric states no layout, by step. -/
opaque cellBody : Nat → List Byte
/-- The virtual channel of an end-to-end acknowledgement cell (Table 14.3 lists none for it). -/
opaque ackVc : BitVec 2
/-- The payload of an end-to-end acknowledgement that names a source device and an ESEQ (R330 states no layout). -/
opaque ackBody : Nat → Nat → List Byte

/-- The INFO word of a record whose cause has no information that the spec states (16_recovery Table 16.3), by step. -/
opaque openInfo : Nat → Word
/-- The PC word of a unit's record that has neither a card nor a request (16_recovery Table 16.3), by step. -/
opaque openPc : Nat → Word
/-- What `mid`, `sender` and `chan` read in a spawned child, which holds no message (04_encoding Table 4.4 states no
value), by step. -/
opaque noHeld : Nat → Word

end Sys2Proof.Config
end

