-- ==== Sys2Proof/WellFormed.lean ====
section
/-! DEFINITION. Well-formed instructions: the checks of Table 4.6, orders 4 to 6 (R82), that need the word alone. -/

namespace Sys2Proof

/-- Why the common decode refuses a word, in the order of Table 4.6. -/
inductive DecErr where
  | illegal    -- order 4: unassigned, a nonzero unused bit, or a field value the definition excludes
  | modifier   -- order 5: R69
  | operand    -- order 6: R70, R71
  deriving DecidableEq, Repr

namespace Reg

/-- x0 to x31 (Table 4.4). -/
def isX (r : Reg) : Bool := decide (r.toNat < 32)
/-- v0 to v15. -/
def isV (r : Reg) : Bool := decide (32 ≤ r.toNat) && decide (r.toNat < 48)
/-- p0 to p7. -/
def isP (r : Reg) : Bool := decide (48 ≤ r.toNat) && decide (r.toNat < 56)
/-- p1 to p7, the predicates that may be written. -/
def isPd (r : Reg) : Bool := decide (49 ≤ r.toNat) && decide (r.toNat < 56)
/-- `in0` to `cyc`, the read-only registers 56 to 62. -/
def isSpec (r : Reg) : Bool := decide (56 ≤ r.toNat) && decide (r.toNat < 63)
/-- x0 to x31 or 56 to 62: a scalar source. -/
def isSrc (r : Reg) : Bool := isX r || isSpec r

end Reg

open Reg

/-- D, A, B all x or all v (R105). -/
def sameXV (rs : List Reg) : Bool := rs.all isX || rs.all isV

namespace Instr

/-- Whether the instruction writes a register (R69, R86: x0 counts). -/
def writesReg : Instr → Bool
  | add .. | sub .. | mul .. | mulhI .. | mulhN .. | divI .. | divN .. | remI .. | remN ..
  | addImm .. | subImm .. | mulImm .. | mulhIImm .. | mulhNImm .. | divIImm .. | divNImm .. | remIImm .. | remNImm ..
  | and .. | or .. | xor .. | andn .. | shl .. | shr .. | sar .. | rol .. | minI .. | minN .. | maxI .. | maxN ..
  | andImm .. | orImm .. | xorImm .. | andnImm .. | shlImm .. | shrImm .. | sarImm .. | rolImm ..
  | minIImm .. | minNImm .. | maxIImm .. | maxNImm ..
  | clz .. | ctz .. | popc .. | bfx .. | bfi .. | brev .. | bswap .. | li .. | lih .. | mov .. | sel .. | extI .. | extN ..
  | cmp .. | cmpImm .. | pand .. | por .. | pxor .. | pnot .. | pmov .. | jal .. | loop ..
  | fadd .. | fsub .. | fmul .. | fdiv .. | fma .. | fms .. | fnma .. | fsqrt .. | frcp .. | frsq .. | frnd ..
  | fmin .. | fmax .. | fabs .. | fneg .. | fclass .. | fscale .. | fcvt .. | fcmp ..
  | vbcast .. | vext .. | vins .. | vperm .. | vshift .. | vcompress .. | vexpand .. | vpopc .. | vlane .. | vred .. | vscan ..
  | ld .. | ldv .. | ldvx .. | atom .. | cas .. | cread .. | cwait .. | peek .. | spawn .. | chstat ..
  | maxbar .. | mstat .. | wptr .. | rprobe .. | pmake .. | ldp .. | pstat .. | csrr .. | errpop .. | cap .. => true
  | _ => false

/-- Which MO values the instruction allows, and whether it takes a scope (R69, Tables 7.5 and 7.8). -/
def orderUse : Instr → List (BitVec 2) × Bool
  | ld .. | ldv .. => ([0, 1], true)
  | st .. | stv .. => ([0, 2], true)
  | atom _ _ _ d .. => (if d = 0 then [0, 2] else [0, 1, 2, 3], true)
  | cas .. | alrB .. | fence .. | fenceSc .. => ([0, 1, 2, 3], true)
  | cadd .. | cerr .. => ([0, 2], true)
  | cread .. => ([0, 1], true)
  | wptr .. => ([0, 1], false)
  | _ => ([0], false)

/-- The common fields of an instruction; host commands and events have none. -/
def ctl : Instr → Ctl
  | illegal u | add u .. | sub u .. | mul u .. | mulhI u .. | mulhN u .. | divI u .. | divN u .. | remI u .. | remN u ..
  | addImm u .. | subImm u .. | mulImm u .. | mulhIImm u .. | mulhNImm u .. | divIImm u .. | divNImm u .. | remIImm u .. | remNImm u ..
  | and u .. | or u .. | xor u .. | andn u .. | shl u .. | shr u .. | sar u .. | rol u .. | minI u .. | minN u .. | maxI u .. | maxN u ..
  | andImm u .. | orImm u .. | xorImm u .. | andnImm u .. | shlImm u .. | shrImm u .. | sarImm u .. | rolImm u ..
  | minIImm u .. | minNImm u .. | maxIImm u .. | maxNImm u ..
  | clz u .. | ctz u .. | popc u .. | bfx u .. | bfi u .. | brev u .. | bswap u .. | li u .. | lih u .. | mov u .. | sel u .. | extI u .. | extN u ..
  | cmp u .. | cmpImm u .. | pand u .. | por u .. | pxor u .. | pnot u .. | pmov u ..
  | br u .. | j u .. | jal u .. | jr u .. | jtab u .. | loop u .. | sig u .. | nop u | brk u .. | trap u .. | done u | commit u | abort u ..
  | fadd u .. | fsub u .. | fmul u .. | fdiv u .. | fma u .. | fms u .. | fnma u .. | fsqrt u .. | frcp u .. | frsq u .. | frnd u ..
  | fmin u .. | fmax u .. | fabs u .. | fneg u .. | fclass u .. | fscale u .. | fcvt u .. | fcmp u ..
  | vbcast u .. | vext u .. | vins u .. | vperm u .. | vshift u .. | vcompress u .. | vexpand u .. | vpopc u .. | vlane u .. | vred u .. | vscan u ..
  | ld u .. | st u .. | ldv u .. | stv u .. | ldvx u .. | stvx u .. | pref u .. | atom u .. | cas u .. | alrB u .. | alrE u
  | fence u | fenceSc u | ifence u | cadd u .. | cread u .. | cwait u .. | cerr u .. | cinit u .. | send u .. | reply u ..
  | peek u .. | spawn u .. | fork u .. | pause u .. | chmask u .. | chstat u .. | sysc u ..
  | mzero u .. | mlda u .. | mldb u .. | gang u .. | mma u .. | mst u .. | mquant u .. | maxbar u .. | mscale u .. | mstat u ..
  | job u .. | wptr u .. | gath u .. | scat u .. | gbar u .. | gmcast u ..
  | ldnear u .. | stvec u .. | delvec u .. | ixsnap u .. | ixrel u .. | ixstat u .. | ixcfg u .. | ixcent u ..
  | rsplit u .. | rmerge u .. | rinval u .. | rprobe u .. | runpin u .. | rquery u .. | rres u .. | rcompact u ..
  | pmake u .. | post u .. | ldp u .. | stp u .. | pstat u .. | pfree u ..
  | csrr u .. | csrw u .. | sret u .. | ctxsave u .. | ctxload u .. | wdset u .. | prio u .. | halt u .. | scrub u .. | errpop u .. | cap u .. => u
  | _ => {}

/-- Order 4 of Table 4.6: the field values a definition excludes (unused bits are checked by the decoder, R69). -/
def legalOk : Instr → Bool
  | illegal _ => false
  | bfx _ _ _ pos len | bfi _ _ _ pos len => decide (0 < len.toNat) && decide (pos.toNat + len.toNat ≤ 64)      -- R91
  | li _ d imm => !isP d || decide (imm.toNat < 65536)                                                     -- R92
  | extI _ d _ n | extN _ d _ n => decide (0 < n.toNat) && decide (n.toNat ≤ if isV d then 32 else 64)       -- R92
  | jtab _ _ len base => decide (0 < len.toNat) && decide (base.toNat % 64 = 0)                             -- R98
  | sig u _ => decide (u.pr = 0) && decide (u.pn = 0)                                                      -- R100
  | alrE u => decide (u.pr = 0) && decide (u.pn = 0) && decide (u.ct = 0)                                  -- R135 (log 119)
  | ifence u => decide (u.ct = 0)                                                                          -- R138 (log 119)
  | fcvt _ (.fi _ k) _ d a | fcvt _ (.fromInt k _) _ d a =>                                              -- R113
      !((isV d || isV a) && (decide (k = .i64) || decide (k = .n64)))
  | atom _ op w .. => !(decide (op = .fadd) && decide (w = 0))                                             -- R131
  | spawn _ _ _ _ _ imm => !imm.getLsbD 31                                                              -- R148
  | send _ _ b n _ | reply _ _ b n _ | gmcast _ _ b n _ => !(decide (n = 0) && decide (b ≠ 0))               -- R145
  | mlda _ pa .. | mma _ pa .. => decide (0 < pa.toNat) && decide (pa.toNat ≤ 16)                           -- R159
  | mquant _ fmt .. => decide (fmt.toNat ≤ 4)                                                             -- R159
  | mstat _ _ k => decide (k.toNat ≤ 5)                                                               -- R169
  | _ => true

/-- Order 5 of Table 4.6: the conditions of R69. -/
def modifierOk (i : Instr) : Bool :=
  let u := i.ctl
  decide (u.sc.toNat ≤ 4) && i.orderUse.1.contains u.mo && (i.orderUse.2 || decide (u.sc = 0)) &&
  !(decide (u.pd ≠ 0) && decide (u.at' ≠ 0)) && (i.writesReg || (decide (u.pd = 0) && decide (u.at' = 0)))

/-- Order 6 of Table 4.6: register classes and writability (R70, R71 and each definition). Registers 56 to 62 are
sources of the integer arithmetic of OP 0x00 and 0x01, of `mov` to an x register, and bases of accesses; elsewhere, where a
definition asks for an x register or for operands of one class (bit fields, floats, lane moves), the model refuses them,
which the spec leaves open (log 20). -/
def operandOk : Instr → Bool
  | add _ d a b | sub _ d a b | mul _ d a b | mulhI _ d a b | mulhN _ d a b | divI _ d a b | divN _ d a b | remI _ d a b | remN _ d a b
  | and _ d a b | or _ d a b | xor _ d a b | andn _ d a b | shl _ d a b | shr _ d a b | sar _ d a b | rol _ d a b
  | minI _ d a b | minN _ d a b | maxI _ d a b | maxN _ d a b => isX d && isSrc a && isSrc b
  | addImm _ d a _ | subImm _ d a _ | mulImm _ d a _ | mulhIImm _ d a _ | mulhNImm _ d a _ | divIImm _ d a _ | divNImm _ d a _
  | remIImm _ d a _ | remNImm _ d a _ | andImm _ d a _ | orImm _ d a _ | xorImm _ d a _ | andnImm _ d a _
  | shlImm _ d a _ | shrImm _ d a _ | sarImm _ d a _ | rolImm _ d a _
  | minIImm _ d a _ | minNImm _ d a _ | maxIImm _ d a _ | maxNImm _ d a _ => isX d && isSrc a
  | clz _ d a | ctz _ d a | popc _ d a | bfx _ d a _ _ | bfi _ d a _ _ | brev _ d a | bswap _ d a => isX d && isX a
  | li _ d _ => isX d || isV d || isPd d
  | lih _ d _ => isX d
  | mov _ d a => (isX d && isSrc a) || (isV d && isV a)
  | sel _ d a b c => sameXV [d, a, b] && isP c
  | extI _ d a _ | extN _ d a _ => sameXV [d, a]
  | cmp _ _ d a b => isPd d && sameXV [a, b]
  | cmpImm _ _ d a _ => isPd d && (isX a || isV a)
  | pand _ d a b | por _ d a b | pxor _ d a b => isPd d && isP a && isP b
  | pnot _ d a => isPd d && isP a
  | pmov _ d a => (isPd d && (isP a || isX a)) || (isX d && isP a)
  | jal _ d _ | loop _ d _ => isX d
  | jr _ a | jtab _ a _ _ => isX a
  | fadd _ _ _ d a b | fsub _ _ _ d a b | fmul _ _ _ d a b | fdiv _ _ _ d a b | fmin _ _ d a b | fmax _ _ d a b
  | fscale _ _ _ d a b => sameXV [d, a, b]
  | fma _ _ _ d a b c | fms _ _ _ d a b c | fnma _ _ _ d a b c => sameXV [d, a, b, c]
  | fsqrt _ _ _ d a | frcp _ _ _ d a | frsq _ _ _ d a | frnd _ _ _ d a | fabs _ _ d a | fneg _ _ d a | fclass _ _ d a
  | fcvt _ _ _ d a => sameXV [d, a]
  | fcmp _ _ _ d a b => isPd d && sameXV [a, b]
  | vbcast _ d a => isV d && isX a
  | vext _ d a b _ => isX d && isV a && isX b
  | vins _ d a b _ => isV d && isX a && isX b
  | vperm _ d a b => isV d && isV a && isV b
  | vshift _ d a b _ => isV d && isV a && isX b
  | vcompress _ d a b | vexpand _ d a b => isV d && isV a && isP b
  | vpopc _ d a => isV d && isV a
  | vlane _ d => isV d
  | vred _ _ d a => isX d && isV a
  | vscan _ _ d a => isV d && isV a
  | ld _ _ d a _ => isX d && isSrc a
  | st _ _ a b _ => isSrc a && isX b
  | ldv _ d a _ => isV d && isSrc a
  | stv _ a b _ => isSrc a && isV b
  | ldvx _ d a b _ => isV d && isSrc a && isV b
  | stvx _ a b c _ => isSrc a && isV b && isV c
  | pref _ a _ | alrB _ a _ => isSrc a
  | atom _ _ _ d a b _ => isX d && isSrc a && isX b
  | cas _ _ d a b c _ => isX d && isSrc a && isX b && isX c
  | cadd _ a b _ => isX a && isX b
  | cread _ _ d a => isX d && isX a
  | cwait _ d a b _ _ => isPd d && isX a && isX b
  | cerr _ a _ => isX a
  | cinit _ a b _ => isX a && isX b
  | send _ a b n _ | reply _ a b n _ => (isX a || decide (a = 58)) && isX b && decide (b.toNat + n.toNat ≤ 32)
  | gmcast _ a b n _ => (isX a || decide (a = 58)) && isX b && decide (b.toNat + n.toNat ≤ 32)
  | peek _ d _ _ | chstat _ d _ => isX d
  | spawn _ d a b c _ => isPd d && isX a && isX b && decide (c.toNat ≤ 28)
  | fork _ _ a b c _ => isX a && isX b && decide (c.toNat ≤ 28)
  | chmask _ a _ => isX a
  | mlda _ _ a b | mldb _ _ a b | gbar _ a b => isX a && isX b
  | gang _ a | mst _ _ a _ | mscale _ _ a | job _ a | gath _ a | scat _ a => isX a
  | mma _ _ _ _ a b c | mquant _ _ _ _ a b c _ => isX a && isX b && isX c
  | maxbar _ d a b => isX d && isX a && isX b
  | mstat _ d _ => isX d
  | wptr _ d a | rprobe _ d a | pstat _ d a | pmake _ d a _ | cap _ d a => isX d && isX a
  | ldnear _ a | stvec _ a | delvec _ a | ixsnap _ a | ixrel _ a | ixstat _ a | ixcfg _ a | ixcent _ a | runpin _ a
  | rinval _ _ a _ | pfree _ a _ | csrw _ a _ | wdset _ a | prio _ a _ | halt _ a _ => isX a
  | rsplit _ a b _ | rmerge _ a b _ | rquery _ a b | rcompact _ a b _ | post _ a b _ _ | ctxsave _ a b _ | ctxload _ a b _
  | scrub _ a b => isX a && isX b
  | rres _ a b c _ | sret _ a b c => isX a && isX b && isX c
  | ldp _ d a _ => isX d && isSrc a
  | stp _ a b _ => isSrc a && isX b
  | csrr _ d _ => isX d
  | errpop _ d a b => isX d && isX a && isX b
  | _ => true

/-- The first of the three checks that fails, if any (Table 4.6, orders 4 to 6). -/
def check (i : Instr) : Option DecErr :=
  if !i.legalOk then some .illegal else if !i.modifierOk then some .modifier
  else if !i.operandOk then some .operand else none

/-- A well-formed instruction passes all three. -/
def WellFormed (i : Instr) : Bool := i.legalOk && i.modifierOk && i.operandOk

end Instr
end Sys2Proof
end

