-- ==== Sys2Proof/Decode.lean ====
section
/-! DEFINITION. Encodings: the fields of a word (Table 4.3), the encoder and the total decoder over Table 4.7.
The decoder reads the fields a form names, then asks that the encoder give back the word it read: a nonzero unused bit
is refused as illegal (R69). -/

namespace Sys2Proof

/-- The fields of Table 4.3. -/
structure Fields where
  op : BitVec 8 := 0
  fn : BitVec 4 := 0
  d : Reg := 0
  a : Reg := 0
  b : Reg := 0
  u : Ctl := {}
  x : BitVec 13 := 0
  imm : BitVec 32 := 0
  deriving DecidableEq, Repr

/-- The word of a set of fields (Table 4.3, from the high bits down). -/
def Fields.pack (f : Fields) : IWord :=
  (f.op ++ f.fn ++ f.d ++ f.a ++ f.b ++ f.u.pr ++ f.u.pn ++ f.u.at' ++ f.u.ct ++ f.u.pd ++ f.u.mo ++ f.u.sc ++ f.x ++ f.imm :)

/-- The fields of a word (Table 4.3). -/
def Fields.unpack (w : IWord) : Fields :=
  { op := w.extractLsb' 88 8, fn := w.extractLsb' 84 4, d := w.extractLsb' 78 6, a := w.extractLsb' 72 6, b := w.extractLsb' 66 6
    u := { pr := w.extractLsb' 63 3, pn := w.extractLsb' 62 1, at' := w.extractLsb' 59 3, ct := w.extractLsb' 52 7
           pd := w.extractLsb' 50 2, mo := w.extractLsb' 48 2, sc := w.extractLsb' 45 3 }
    x := w.extractLsb' 32 13, imm := w.extractLsb' 0 32 }

/-- FN of a `cmp` condition (Table 4.7). -/
def Cond.code : Cond → BitVec 4
  | .eq => 0 | .ne => 1 | .ltI => 2 | .leI => 3 | .gtI => 4 | .geI => 5 | .ltN => 6 | .leN => 7 | .gtN => 8 | .geN => 9
/-- The condition of an FN value. -/
def Cond.ofCode (n : BitVec 4) : Option Cond :=
  match n.toNat with
  | 0 => some .eq | 1 => some .ne | 2 => some .ltI | 3 => some .leI | 4 => some .gtI | 5 => some .geI
  | 6 => some .ltN | 7 => some .leN | 8 => some .gtN | 9 => some .geN | _ => none
/-- Type codes (Table 6.1). -/
def FTy.code : FTy → BitVec 3
  | .f32 => 0 | .bf16 => 1 | .f16 => 2 | .e4m3 => 3 | .e5m2 => 4
/-- The type of a code; 5 to 7 are illegal. -/
def FTy.ofCode (n : BitVec 3) : Option FTy :=
  match n.toNat with | 0 => some .f32 | 1 => some .bf16 | 2 => some .f16 | 3 => some .e4m3 | 4 => some .e5m2 | _ => none
/-- FN of an `fcmp` condition. -/
def FCond.code : FCond → BitVec 4
  | .eq => 0 | .ne => 1 | .lt => 2 | .le => 3 | .gt => 4 | .ge => 5 | .un => 6 | .ord => 7
/-- The `fcmp` condition of an FN value. -/
def FCond.ofCode (n : BitVec 4) : Option FCond :=
  match n.toNat with
  | 0 => some .eq | 1 => some .ne | 2 => some .lt | 3 => some .le | 4 => some .gt | 5 => some .ge | 6 => some .un | 7 => some .ord | _ => none
/-- Integer kind codes (R113). -/
def IKind.code : IKind → BitVec 2
  | .i32 => 0 | .n32 => 1 | .i64 => 2 | .n64 => 3
/-- The integer kind of a code. -/
def IKind.ofCode (n : BitVec 2) : IKind :=
  match n.toNat with | 0 => .i32 | 1 => .n32 | 2 => .i64 | _ => .n64
/-- X[38:32] of an `fcvt` (R113). -/
def Cvt.code : Cvt → BitVec 7
  | .ff s t => (0 : BitVec 1) ++ t.code ++ s.code
  | .fi s k => (1 : BitVec 1) ++ (0 : BitVec 1) ++ k.code ++ s.code
  | .fromInt k t => (1 : BitVec 1) ++ (1 : BitVec 1) ++ k.code ++ t.code
/-- The `fcvt` kind of X[38:32]. -/
def Cvt.ofCode (x : BitVec 7) : Option Cvt :=
  match FTy.ofCode (x.extractLsb' 0 3) with
  | none => none
  | some t =>
    if x.extractLsb' 6 1 = 0 then (FTy.ofCode (x.extractLsb' 3 3)).map (fun r => Cvt.ff t r)
    else if x.extractLsb' 5 1 = 0 then some (.fi t (IKind.ofCode (x.extractLsb' 3 2)))
    else some (.fromInt (IKind.ofCode (x.extractLsb' 3 2)) t)
/-- FN of a `vred` or `vscan` operation. -/
def VOp.code : VOp → BitVec 4
  | .add => 0 | .and => 1 | .or => 2 | .xor => 3 | .minI => 4 | .minN => 5 | .maxI => 6 | .maxN => 7 | .fadd => 8 | .fmin => 9 | .fmax => 10
/-- The operation of an FN value. -/
def VOp.ofCode (n : BitVec 4) : Option VOp :=
  match n.toNat with
  | 0 => some .add | 1 => some .and | 2 => some .or | 3 => some .xor | 4 => some .minI | 5 => some .minN | 6 => some .maxI
  | 7 => some .maxN | 8 => some .fadd | 9 => some .fmin | 10 => some .fmax | _ => none
/-- FN of a load. -/
def LdKind.code : LdKind → BitVec 4
  | .i8 => 0 | .n8 => 1 | .i16 => 2 | .n16 => 3 | .i32 => 4 | .n32 => 5 | .d => 6
/-- The load of an FN value. -/
def LdKind.ofCode (n : BitVec 4) : Option LdKind :=
  match n.toNat with
  | 0 => some .i8 | 1 => some .n8 | 2 => some .i16 | 3 => some .n16 | 4 => some .i32 | 5 => some .n32 | 6 => some .d | _ => none
/-- FN of a store. -/
def StKind.code : StKind → BitVec 4
  | .b => 0 | .h => 1 | .w => 2 | .d => 3
/-- The store of an FN value. -/
def StKind.ofCode (n : BitVec 4) : Option StKind :=
  match n.toNat with | 0 => some .b | 1 => some .h | 2 => some .w | 3 => some .d | _ => none
/-- FN of an atomic. -/
def AtomOp.code : AtomOp → BitVec 4
  | .add => 0 | .and => 1 | .or => 2 | .xor => 3 | .minI => 4 | .minN => 5 | .maxI => 6 | .maxN => 7 | .swap => 8 | .fadd => 9
/-- The atomic of an FN value. -/
def AtomOp.ofCode (n : BitVec 4) : Option AtomOp :=
  match n.toNat with
  | 0 => some .add | 1 => some .and | 2 => some .or | 3 => some .xor | 4 => some .minI | 5 => some .minN | 6 => some .maxI
  | 7 => some .maxN | 8 => some .swap | 9 => some .fadd | _ => none

/-- C (X[44:39]) with X[38:32] (Table 4.3). -/
def xOf (c : Reg) (lo : BitVec 7) : BitVec 13 := c ++ lo
/-- FN of an operation with a rounding mode (R84). -/
def fnOf (rm : BitVec 2) (k : BitVec 2) : BitVec 4 := rm ++ k

/-- The fields of an instruction's word; host commands and events have none (Table 4.7 and the instruction chapters). -/
def Instr.fields : Instr → Option Fields
  | add u d a b => some { op := 0x00, fn := 0x1, d := d, a := a, b := b, u := u }
  | sub u d a b => some { op := 0x00, fn := 0x2, d := d, a := a, b := b, u := u }
  | mul u d a b => some { op := 0x00, fn := 0x3, d := d, a := a, b := b, u := u }
  | mulhI u d a b => some { op := 0x00, fn := 0x4, d := d, a := a, b := b, u := u }
  | mulhN u d a b => some { op := 0x00, fn := 0x5, d := d, a := a, b := b, u := u }
  | divI u d a b => some { op := 0x00, fn := 0x6, d := d, a := a, b := b, u := u }
  | divN u d a b => some { op := 0x00, fn := 0x7, d := d, a := a, b := b, u := u }
  | remI u d a b => some { op := 0x00, fn := 0x8, d := d, a := a, b := b, u := u }
  | remN u d a b => some { op := 0x00, fn := 0x9, d := d, a := a, b := b, u := u }
  | and u d a b => some { op := 0x01, d := d, a := a, b := b, u := u }
  | or u d a b => some { op := 0x01, fn := 0x1, d := d, a := a, b := b, u := u }
  | xor u d a b => some { op := 0x01, fn := 0x2, d := d, a := a, b := b, u := u }
  | andn u d a b => some { op := 0x01, fn := 0x3, d := d, a := a, b := b, u := u }
  | shl u d a b => some { op := 0x01, fn := 0x4, d := d, a := a, b := b, u := u }
  | shr u d a b => some { op := 0x01, fn := 0x5, d := d, a := a, b := b, u := u }
  | sar u d a b => some { op := 0x01, fn := 0x6, d := d, a := a, b := b, u := u }
  | rol u d a b => some { op := 0x01, fn := 0x7, d := d, a := a, b := b, u := u }
  | minI u d a b => some { op := 0x01, fn := 0x8, d := d, a := a, b := b, u := u }
  | minN u d a b => some { op := 0x01, fn := 0x9, d := d, a := a, b := b, u := u }
  | maxI u d a b => some { op := 0x01, fn := 0xA, d := d, a := a, b := b, u := u }
  | maxN u d a b => some { op := 0x01, fn := 0xB, d := d, a := a, b := b, u := u }
  | addImm u d a imm => some { op := 0x10, fn := 0x1, d := d, a := a, imm := imm, u := u }
  | subImm u d a imm => some { op := 0x10, fn := 0x2, d := d, a := a, imm := imm, u := u }
  | mulImm u d a imm => some { op := 0x10, fn := 0x3, d := d, a := a, imm := imm, u := u }
  | mulhIImm u d a imm => some { op := 0x10, fn := 0x4, d := d, a := a, imm := imm, u := u }
  | mulhNImm u d a imm => some { op := 0x10, fn := 0x5, d := d, a := a, imm := imm, u := u }
  | divIImm u d a imm => some { op := 0x10, fn := 0x6, d := d, a := a, imm := imm, u := u }
  | divNImm u d a imm => some { op := 0x10, fn := 0x7, d := d, a := a, imm := imm, u := u }
  | remIImm u d a imm => some { op := 0x10, fn := 0x8, d := d, a := a, imm := imm, u := u }
  | remNImm u d a imm => some { op := 0x10, fn := 0x9, d := d, a := a, imm := imm, u := u }
  | andImm u d a imm => some { op := 0x11, d := d, a := a, imm := imm, u := u }
  | orImm u d a imm => some { op := 0x11, fn := 0x1, d := d, a := a, imm := imm, u := u }
  | xorImm u d a imm => some { op := 0x11, fn := 0x2, d := d, a := a, imm := imm, u := u }
  | andnImm u d a imm => some { op := 0x11, fn := 0x3, d := d, a := a, imm := imm, u := u }
  | shlImm u d a iv => some { op := 0x11, fn := 0x4, d := d, a := a, imm := iv.setWidth 32, u := u }
  | shrImm u d a iv => some { op := 0x11, fn := 0x5, d := d, a := a, imm := iv.setWidth 32, u := u }
  | sarImm u d a iv => some { op := 0x11, fn := 0x6, d := d, a := a, imm := iv.setWidth 32, u := u }
  | rolImm u d a iv => some { op := 0x11, fn := 0x7, d := d, a := a, imm := iv.setWidth 32, u := u }
  | minIImm u d a imm => some { op := 0x11, fn := 0x8, d := d, a := a, imm := imm, u := u }
  | minNImm u d a imm => some { op := 0x11, fn := 0x9, d := d, a := a, imm := imm, u := u }
  | maxIImm u d a imm => some { op := 0x11, fn := 0xA, d := d, a := a, imm := imm, u := u }
  | maxNImm u d a imm => some { op := 0x11, fn := 0xB, d := d, a := a, imm := imm, u := u }
  | clz u d a => some { op := 0x20, d := d, a := a, u := u }
  | ctz u d a => some { op := 0x20, fn := 0x1, d := d, a := a, u := u }
  | popc u d a => some { op := 0x20, fn := 0x2, d := d, a := a, u := u }
  | brev u d a => some { op := 0x20, fn := 0x5, d := d, a := a, u := u }
  | bswap u d a => some { op := 0x20, fn := 0x6, d := d, a := a, u := u }
  | bfx u d a pos len => some { op := 0x20, fn := 0x3, d := d, a := a, imm := (len ++ pos).setWidth 32, u := u }
  | bfi u d a pos len => some { op := 0x20, fn := 0x4, d := d, a := a, imm := (len ++ pos).setWidth 32, u := u }
  | li u d imm => some { op := 0x21, d := d, imm := imm, u := u }
  | lih u d imm => some { op := 0x21, fn := 0x1, d := d, imm := imm, u := u }
  | mov u d a => some { op := 0x21, fn := 0x2, d := d, a := a, u := u }
  | sel u d a b c => some { op := 0x21, fn := 0x3, d := d, a := a, b := b, x := xOf c 0, u := u }
  | extI u d a iv => some { op := 0x21, fn := 0x4, d := d, a := a, imm := iv.setWidth 32, u := u }
  | extN u d a iv => some { op := 0x21, fn := 0x5, d := d, a := a, imm := iv.setWidth 32, u := u }
  | cmp u cc d a b => some { op := 0x22, fn := cc.code, d := d, a := a, b := b, u := u }
  | cmpImm u cc d a imm => some { op := 0x23, fn := cc.code, d := d, a := a, imm := imm, u := u }
  | pand u d a b => some { op := 0x24, d := d, a := a, b := b, u := u }
  | por u d a b => some { op := 0x24, fn := 0x1, d := d, a := a, b := b, u := u }
  | pxor u d a b => some { op := 0x24, fn := 0x2, d := d, a := a, b := b, u := u }
  | pnot u d a => some { op := 0x24, fn := 0x3, d := d, a := a, u := u }
  | pmov u d a => some { op := 0x24, fn := 0x4, d := d, a := a, u := u }
  | br u imm => some { op := 0x30, imm := imm, u := u }
  | j u imm => some { op := 0x30, fn := 0x1, imm := imm, u := u }
  | jal u d imm => some { op := 0x30, fn := 0x2, d := d, imm := imm, u := u }
  | jr u a => some { op := 0x30, fn := 0x3, a := a, u := u }
  | jtab u a xv imm => some { op := 0x30, fn := 0x4, a := a, x := xv.setWidth 13, imm := imm, u := u }
  | loop u d imm => some { op := 0x30, fn := 0x5, d := d, imm := imm, u := u }
  | sig u iv => some { op := 0x31, imm := iv.setWidth 32, u := u }
  | nop u => some { op := 0x31, fn := 0x1, u := u }
  | brk u imm => some { op := 0x31, fn := 0x2, imm := imm, u := u }
  | trap u imm => some { op := 0x31, fn := 0x3, imm := imm, u := u }
  | done u => some { op := 0x32, u := u }
  | commit u => some { op := 0x32, fn := 0x1, u := u }
  | abort u iv => some { op := 0x32, fn := 0x2, imm := iv.setWidth 32, u := u }
  | illegal u => some { op := 0x00, u := u }
  | fadd u ty rm d a b => some { op := 0x40, fn := fnOf rm 0, d := d, a := a, b := b, x := ty.code.setWidth 13, u := u }
  | fsub u ty rm d a b => some { op := 0x40, fn := fnOf rm 1, d := d, a := a, b := b, x := ty.code.setWidth 13, u := u }
  | fmul u ty rm d a b => some { op := 0x40, fn := fnOf rm 2, d := d, a := a, b := b, x := ty.code.setWidth 13, u := u }
  | fdiv u ty rm d a b => some { op := 0x40, fn := fnOf rm 3, d := d, a := a, b := b, x := ty.code.setWidth 13, u := u }
  | fma u ty rm d a b c => some { op := 0x41, fn := fnOf rm 0, d := d, a := a, b := b, x := xOf c (ty.code.setWidth 7), u := u }
  | fms u ty rm d a b c => some { op := 0x41, fn := fnOf rm 1, d := d, a := a, b := b, x := xOf c (ty.code.setWidth 7), u := u }
  | fnma u ty rm d a b c => some { op := 0x41, fn := fnOf rm 2, d := d, a := a, b := b, x := xOf c (ty.code.setWidth 7), u := u }
  | fsqrt u ty rm d a => some { op := 0x42, fn := fnOf rm 0, d := d, a := a, x := ty.code.setWidth 13, u := u }
  | frcp u ty rm d a => some { op := 0x42, fn := fnOf rm 1, d := d, a := a, x := ty.code.setWidth 13, u := u }
  | frsq u ty rm d a => some { op := 0x42, fn := fnOf rm 2, d := d, a := a, x := ty.code.setWidth 13, u := u }
  | frnd u ty rm d a => some { op := 0x42, fn := fnOf rm 3, d := d, a := a, x := ty.code.setWidth 13, u := u }
  | fmin u ty d a b => some { op := 0x43, d := d, a := a, b := b, x := ty.code.setWidth 13, u := u }
  | fmax u ty d a b => some { op := 0x43, fn := 0x1, d := d, a := a, b := b, x := ty.code.setWidth 13, u := u }
  | fabs u ty d a => some { op := 0x43, fn := 0x2, d := d, a := a, x := ty.code.setWidth 13, u := u }
  | fneg u ty d a => some { op := 0x43, fn := 0x3, d := d, a := a, x := ty.code.setWidth 13, u := u }
  | fclass u ty d a => some { op := 0x44, d := d, a := a, x := ty.code.setWidth 13, u := u }
  | fscale u ty rm d a b => some { op := 0x44, fn := fnOf rm 1, d := d, a := a, b := b, x := ty.code.setWidth 13, u := u }
  | fcvt u k rm d a => some { op := 0x44, fn := fnOf rm 2, d := d, a := a, x := k.code.setWidth 13, u := u }
  | fcmp u cc ty d a b => some { op := 0x45, fn := cc.code, d := d, a := a, b := b, x := ty.code.setWidth 13, u := u }
  | vbcast u d a => some { op := 0x50, d := d, a := a, u := u }
  | vext u d a b iv => some { op := 0x50, fn := 0x1, d := d, a := a, b := b, imm := iv.setWidth 32, u := u }
  | vins u d a b iv => some { op := 0x50, fn := 0x2, d := d, a := a, b := b, imm := iv.setWidth 32, u := u }
  | vperm u d a b => some { op := 0x50, fn := 0x3, d := d, a := a, b := b, u := u }
  | vshift u d a b imm => some { op := 0x50, fn := 0x4, d := d, a := a, b := b, imm := imm, u := u }
  | vcompress u d a b => some { op := 0x50, fn := 0x5, d := d, a := a, b := b, u := u }
  | vexpand u d a b => some { op := 0x50, fn := 0x6, d := d, a := a, b := b, u := u }
  | vpopc u d a => some { op := 0x50, fn := 0x7, d := d, a := a, u := u }
  | vlane u d => some { op := 0x50, fn := 0x8, d := d, u := u }
  | vred u cc d a => some { op := 0x51, fn := cc.code, d := d, a := a, u := u }
  | vscan u cc d a => some { op := 0x52, fn := cc.code, d := d, a := a, u := u }
  | ld u cc d a imm => some { op := 0x60, fn := cc.code, d := d, a := a, imm := imm, u := u }
  | st u cc a b imm => some { op := 0x61, fn := cc.code, a := a, b := b, imm := imm, u := u }
  | ldv u d a imm => some { op := 0x62, d := d, a := a, imm := imm, u := u }
  | stv u a b imm => some { op := 0x62, fn := 0x1, a := a, b := b, imm := imm, u := u }
  | ldvx u d a b imm => some { op := 0x62, fn := 0x2, d := d, a := a, b := b, imm := imm, u := u }
  | stvx u a b c imm => some { op := 0x62, fn := 0x3, a := a, b := b, imm := imm, x := xOf c 0, u := u }
  | pref u a imm => some { op := 0x62, fn := 0x4, a := a, imm := imm, u := u }
  | atom u cc xv d a b imm => some { op := 0x70, fn := cc.code, x := xv.setWidth 13, d := d, a := a, b := b, imm := imm, u := u }
  | cas u xv d a b c imm => some { op := 0x71, d := d, a := a, b := b, imm := imm, x := xOf c (xv.setWidth 7), u := u }
  | alrB u a imm => some { op := 0x72, a := a, imm := imm, u := u }
  | alrE u => some { op := 0x72, fn := 0x1, u := u }
  | fence u => some { op := 0x73, u := u }
  | fenceSc u => some { op := 0x73, fn := 0x1, u := u }
  | ifence u => some { op := 0x73, fn := 0x2, u := u }
  | cadd u a b imm => some { op := 0x80, a := a, b := b, imm := imm, u := u }
  | cread u xv d a => some { op := 0x80, fn := 0x1, x := xv.setWidth 13, d := d, a := a, u := u }
  | cwait u d a b xv imm => some { op := 0x80, fn := 0x2, d := d, a := a, b := b, x := xv.setWidth 13, imm := imm, u := u }
  | cerr u a iv => some { op := 0x80, fn := 0x3, a := a, imm := iv.setWidth 32, u := u }
  | cinit u a b iv => some { op := 0x80, fn := 0x4, a := a, b := b, imm := iv.setWidth 32, u := u }
  | send u a b hi lo => some { op := 0x90, a := a, b := b, imm := (hi ++ lo : BitVec 9).setWidth 32, u := u }
  | reply u a b hi lo => some { op := 0x90, fn := 0x1, a := a, b := b, imm := (hi ++ lo : BitVec 9).setWidth 32, u := u }
  | peek u d hi lo => some { op := 0x90, fn := 0x2, d := d, imm := (hi ++ lo : BitVec 7).setWidth 32, u := u }
  | spawn u d a b c imm => some { op := 0x90, fn := 0x3, d := d, a := a, b := b, imm := imm, x := xOf c 0, u := u }
  | fork u xv a b c imm => some { op := 0x90, fn := 0x4, a := a, b := b, imm := imm, x := xOf c (xv.setWidth 7), u := u }
  | pause u iv => some { op := 0x90, fn := 0x5, imm := iv.setWidth 32, u := u }
  | chmask u a iv => some { op := 0x90, fn := 0x6, a := a, imm := iv.setWidth 32, u := u }
  | chstat u d iv => some { op := 0x90, fn := 0x7, d := d, imm := iv.setWidth 32, u := u }
  | sysc u imm => some { op := 0x90, fn := 0x8, imm := imm, u := u }
  | mzero u sl => some { op := 0xA0, x := xOf 0 (sl ++ (0 : BitVec 5)), u := u }
  | mlda u xv a b => some { op := 0xA0, fn := 0x1, x := xv.setWidth 13, a := a, b := b, u := u }
  | mldb u iv a b => some { op := 0xA0, fn := 0x2, imm := iv.setWidth 32, a := a, b := b, u := u }
  | gang u a => some { op := 0xA0, fn := 0x3, a := a, u := u }
  | mma u pa sl bw a b c => some { op := 0xA0, fn := 0x4, a := a, b := b, x := xOf c (sl ++ pa), imm := bw.setWidth 32, u := u }
  | mst u sl a imm => some { op := 0xA0, fn := 0x5, x := xOf 0 (sl ++ (0 : BitVec 5)), a := a, imm := imm, u := u }
  | mquant u fmt lay loc a b c k => some { op := 0xA0, fn := 0x6, a := a, b := b, x := xOf c ((0 : BitVec 2) ++ loc ++ lay ++ fmt), imm := k, u := u }
  | maxbar u d a b => some { op := 0xA0, fn := 0x7, d := d, a := a, b := b, u := u }
  | mscale u sl a => some { op := 0xA0, fn := 0x8, x := xOf 0 (sl ++ (0 : BitVec 5)), a := a, u := u }
  | mstat u d iv => some { op := 0xA0, fn := 0x9, d := d, imm := iv.setWidth 32, u := u }
  | job u a => some { op := 0xB0, a := a, u := u }
  | wptr u d a => some { op := 0xB0, fn := 0x1, d := d, a := a, u := u }
  | gath u a => some { op := 0xB0, fn := 0x2, a := a, u := u }
  | scat u a => some { op := 0xB0, fn := 0x3, a := a, u := u }
  | gbar u a b => some { op := 0xB0, fn := 0x4, a := a, b := b, u := u }
  | gmcast u a b hi lo => some { op := 0xB0, fn := 0x5, a := a, b := b, imm := (hi ++ lo : BitVec 9).setWidth 32, u := u }
  | ldnear u a => some { op := 0xC0, a := a, u := u }
  | stvec u a => some { op := 0xC0, fn := 0x1, a := a, u := u }
  | delvec u a => some { op := 0xC0, fn := 0x2, a := a, u := u }
  | ixsnap u a => some { op := 0xC0, fn := 0x3, a := a, u := u }
  | ixrel u a => some { op := 0xC0, fn := 0x4, a := a, u := u }
  | ixstat u a => some { op := 0xC0, fn := 0x5, a := a, u := u }
  | ixcfg u a => some { op := 0xC0, fn := 0x6, a := a, u := u }
  | ixcent u a => some { op := 0xC0, fn := 0x7, a := a, u := u }
  | rsplit u a b iv => some { op := 0xD0, a := a, b := b, imm := iv.setWidth 32, u := u }
  | rmerge u a b iv => some { op := 0xD0, fn := 0x1, a := a, b := b, imm := iv.setWidth 32, u := u }
  | rinval u xv a iv => some { op := 0xD0, fn := 0x2, x := xv.setWidth 13, a := a, imm := iv.setWidth 32, u := u }
  | rprobe u d a => some { op := 0xD0, fn := 0x3, d := d, a := a, u := u }
  | runpin u a => some { op := 0xD0, fn := 0x4, a := a, u := u }
  | rquery u a b => some { op := 0xD0, fn := 0x5, a := a, b := b, u := u }
  | rres u a b c iv => some { op := 0xD0, fn := 0x6, a := a, b := b, imm := iv.setWidth 32, x := xOf c 0, u := u }
  | rcompact u a b iv => some { op := 0xD0, fn := 0x7, a := a, b := b, imm := iv.setWidth 32, u := u }
  | pmake u d a iv => some { op := 0xD1, d := d, a := a, imm := iv.setWidth 32, u := u }
  | post u a b ch ctr => some { op := 0xD1, fn := 0x1, a := a, b := b, imm := (ctr ++ ch).setWidth 32, u := u }
  | ldp u d a imm => some { op := 0xD1, fn := 0x2, d := d, a := a, imm := imm, u := u }
  | stp u a b imm => some { op := 0xD1, fn := 0x3, a := a, b := b, imm := imm, u := u }
  | pstat u d a => some { op := 0xD1, fn := 0x4, d := d, a := a, u := u }
  | pfree u a iv => some { op := 0xD1, fn := 0x5, a := a, imm := iv.setWidth 32, u := u }
  | csrr u d iv => some { op := 0xE0, d := d, imm := iv.setWidth 32, u := u }
  | csrw u a iv => some { op := 0xE0, fn := 0x1, a := a, imm := iv.setWidth 32, u := u }
  | sret u a b c => some { op := 0xE0, fn := 0x2, a := a, b := b, x := xOf c 0, u := u }
  | ctxsave u a b iv => some { op := 0xE0, fn := 0x3, a := a, b := b, imm := iv.setWidth 32, u := u }
  | ctxload u a b iv => some { op := 0xE0, fn := 0x4, a := a, b := b, imm := iv.setWidth 32, u := u }
  | wdset u a => some { op := 0xE0, fn := 0x5, a := a, u := u }
  | prio u a iv => some { op := 0xE0, fn := 0x6, a := a, imm := iv.setWidth 32, u := u }
  | halt u a iv => some { op := 0xE0, fn := 0x7, a := a, imm := iv.setWidth 32, u := u }
  | scrub u a b => some { op := 0xE0, fn := 0x8, a := a, b := b, u := u }
  | errpop u d a b => some { op := 0xE0, fn := 0x9, d := d, a := a, b := b, u := u }
  | cap u d a => some { op := 0xE0, fn := 0xA, d := d, a := a, u := u }
  | _ => none

/-- OP 0x00 of Table 4.7. -/
def decode00 (f : Fields) : Option Instr :=
  match f.fn.toNat with
  | 0 => some (.illegal f.u)
  | 1 => some (.add f.u f.d f.a f.b)
  | 2 => some (.sub f.u f.d f.a f.b)
  | 3 => some (.mul f.u f.d f.a f.b)
  | 4 => some (.mulhI f.u f.d f.a f.b)
  | 5 => some (.mulhN f.u f.d f.a f.b)
  | 6 => some (.divI f.u f.d f.a f.b)
  | 7 => some (.divN f.u f.d f.a f.b)
  | 8 => some (.remI f.u f.d f.a f.b)
  | 9 => some (.remN f.u f.d f.a f.b)
  | _ => none

/-- OP 0x01 of Table 4.7. -/
def decode01 (f : Fields) : Option Instr :=
  match f.fn.toNat with
  | 0 => some (.and f.u f.d f.a f.b)
  | 1 => some (.or f.u f.d f.a f.b)
  | 2 => some (.xor f.u f.d f.a f.b)
  | 3 => some (.andn f.u f.d f.a f.b)
  | 4 => some (.shl f.u f.d f.a f.b)
  | 5 => some (.shr f.u f.d f.a f.b)
  | 6 => some (.sar f.u f.d f.a f.b)
  | 7 => some (.rol f.u f.d f.a f.b)
  | 8 => some (.minI f.u f.d f.a f.b)
  | 9 => some (.minN f.u f.d f.a f.b)
  | 10 => some (.maxI f.u f.d f.a f.b)
  | 11 => some (.maxN f.u f.d f.a f.b)
  | _ => none

/-- OP 0x10 of Table 4.7. -/
def decode10 (f : Fields) : Option Instr :=
  match f.fn.toNat with
  | 1 => some (.addImm f.u f.d f.a f.imm)
  | 2 => some (.subImm f.u f.d f.a f.imm)
  | 3 => some (.mulImm f.u f.d f.a f.imm)
  | 4 => some (.mulhIImm f.u f.d f.a f.imm)
  | 5 => some (.mulhNImm f.u f.d f.a f.imm)
  | 6 => some (.divIImm f.u f.d f.a f.imm)
  | 7 => some (.divNImm f.u f.d f.a f.imm)
  | 8 => some (.remIImm f.u f.d f.a f.imm)
  | 9 => some (.remNImm f.u f.d f.a f.imm)
  | _ => none

/-- OP 0x11 of Table 4.7. -/
def decode11 (f : Fields) : Option Instr :=
  match f.fn.toNat with
  | 0 => some (.andImm f.u f.d f.a f.imm)
  | 1 => some (.orImm f.u f.d f.a f.imm)
  | 2 => some (.xorImm f.u f.d f.a f.imm)
  | 3 => some (.andnImm f.u f.d f.a f.imm)
  | 4 => some (.shlImm f.u f.d f.a (f.imm.extractLsb' 0 6))
  | 5 => some (.shrImm f.u f.d f.a (f.imm.extractLsb' 0 6))
  | 6 => some (.sarImm f.u f.d f.a (f.imm.extractLsb' 0 6))
  | 7 => some (.rolImm f.u f.d f.a (f.imm.extractLsb' 0 6))
  | 8 => some (.minIImm f.u f.d f.a f.imm)
  | 9 => some (.minNImm f.u f.d f.a f.imm)
  | 10 => some (.maxIImm f.u f.d f.a f.imm)
  | 11 => some (.maxNImm f.u f.d f.a f.imm)
  | _ => none

/-- OP 0x20 of Table 4.7. -/
def decode20 (f : Fields) : Option Instr :=
  match f.fn.toNat with
  | 0 => some (.clz f.u f.d f.a)
  | 1 => some (.ctz f.u f.d f.a)
  | 2 => some (.popc f.u f.d f.a)
  | 3 => some (.bfx f.u f.d f.a (f.imm.extractLsb' 0 6) (f.imm.extractLsb' 6 7))
  | 4 => some (.bfi f.u f.d f.a (f.imm.extractLsb' 0 6) (f.imm.extractLsb' 6 7))
  | 5 => some (.brev f.u f.d f.a)
  | 6 => some (.bswap f.u f.d f.a)
  | _ => none

/-- OP 0x21 of Table 4.7. -/
def decode21 (f : Fields) : Option Instr :=
  match f.fn.toNat with
  | 0 => some (.li f.u f.d f.imm)
  | 1 => some (.lih f.u f.d f.imm)
  | 2 => some (.mov f.u f.d f.a)
  | 3 => some (.sel f.u f.d f.a f.b (f.x.extractLsb' 7 6))
  | 4 => some (.extI f.u f.d f.a (f.imm.extractLsb' 0 7))
  | 5 => some (.extN f.u f.d f.a (f.imm.extractLsb' 0 7))
  | _ => none

/-- OP 0x22 of Table 4.7. -/
def decode22 (f : Fields) : Option Instr :=
  (Cond.ofCode f.fn).map fun cc => .cmp f.u cc f.d f.a f.b

/-- OP 0x23 of Table 4.7. -/
def decode23 (f : Fields) : Option Instr :=
  (Cond.ofCode f.fn).map fun cc => .cmpImm f.u cc f.d f.a f.imm

/-- OP 0x24 of Table 4.7. -/
def decode24 (f : Fields) : Option Instr :=
  match f.fn.toNat with
  | 0 => some (.pand f.u f.d f.a f.b)
  | 1 => some (.por f.u f.d f.a f.b)
  | 2 => some (.pxor f.u f.d f.a f.b)
  | 3 => some (.pnot f.u f.d f.a)
  | 4 => some (.pmov f.u f.d f.a)
  | _ => none

/-- OP 0x30 of Table 4.7. -/
def decode30 (f : Fields) : Option Instr :=
  match f.fn.toNat with
  | 0 => some (.br f.u f.imm)
  | 1 => some (.j f.u f.imm)
  | 2 => some (.jal f.u f.d f.imm)
  | 3 => some (.jr f.u f.a)
  | 4 => some (.jtab f.u f.a (f.x.extractLsb' 0 7) f.imm)
  | 5 => some (.loop f.u f.d f.imm)
  | _ => none

/-- OP 0x31 of Table 4.7. -/
def decode31 (f : Fields) : Option Instr :=
  match f.fn.toNat with
  | 0 => some (.sig f.u (f.imm.extractLsb' 0 24))
  | 1 => some (.nop f.u)
  | 2 => some (.brk f.u f.imm)
  | 3 => some (.trap f.u f.imm)
  | _ => none

/-- OP 0x32 of Table 4.7. -/
def decode32 (f : Fields) : Option Instr :=
  match f.fn.toNat with
  | 0 => some (.done f.u)
  | 1 => some (.commit f.u)
  | 2 => some (.abort f.u (f.imm.extractLsb' 0 1))
  | _ => none

/-- OP 0x40 of Table 4.7. -/
def decode40 (f : Fields) : Option Instr :=
  match (f.fn.extractLsb' 0 2).toNat with
  | 0 => (FTy.ofCode (f.x.extractLsb' 0 3)).map fun ty => .fadd f.u ty (f.fn.extractLsb' 2 2) f.d f.a f.b
  | 1 => (FTy.ofCode (f.x.extractLsb' 0 3)).map fun ty => .fsub f.u ty (f.fn.extractLsb' 2 2) f.d f.a f.b
  | 2 => (FTy.ofCode (f.x.extractLsb' 0 3)).map fun ty => .fmul f.u ty (f.fn.extractLsb' 2 2) f.d f.a f.b
  | 3 => (FTy.ofCode (f.x.extractLsb' 0 3)).map fun ty => .fdiv f.u ty (f.fn.extractLsb' 2 2) f.d f.a f.b
  | _ => none

/-- OP 0x41 of Table 4.7. -/
def decode41 (f : Fields) : Option Instr :=
  match (f.fn.extractLsb' 0 2).toNat with
  | 0 => (FTy.ofCode (f.x.extractLsb' 0 3)).map fun ty => .fma f.u ty (f.fn.extractLsb' 2 2) f.d f.a f.b (f.x.extractLsb' 7 6)
  | 1 => (FTy.ofCode (f.x.extractLsb' 0 3)).map fun ty => .fms f.u ty (f.fn.extractLsb' 2 2) f.d f.a f.b (f.x.extractLsb' 7 6)
  | 2 => (FTy.ofCode (f.x.extractLsb' 0 3)).map fun ty => .fnma f.u ty (f.fn.extractLsb' 2 2) f.d f.a f.b (f.x.extractLsb' 7 6)
  | _ => none

/-- OP 0x42 of Table 4.7. -/
def decode42 (f : Fields) : Option Instr :=
  match (f.fn.extractLsb' 0 2).toNat with
  | 0 => (FTy.ofCode (f.x.extractLsb' 0 3)).map fun ty => .fsqrt f.u ty (f.fn.extractLsb' 2 2) f.d f.a
  | 1 => (FTy.ofCode (f.x.extractLsb' 0 3)).map fun ty => .frcp f.u ty (f.fn.extractLsb' 2 2) f.d f.a
  | 2 => (FTy.ofCode (f.x.extractLsb' 0 3)).map fun ty => .frsq f.u ty (f.fn.extractLsb' 2 2) f.d f.a
  | 3 => (FTy.ofCode (f.x.extractLsb' 0 3)).map fun ty => .frnd f.u ty (f.fn.extractLsb' 2 2) f.d f.a
  | _ => none

/-- OP 0x43 of Table 4.7. -/
def decode43 (f : Fields) : Option Instr :=
  match f.fn.toNat with
  | 0 => (FTy.ofCode (f.x.extractLsb' 0 3)).map fun ty => .fmin f.u ty f.d f.a f.b
  | 1 => (FTy.ofCode (f.x.extractLsb' 0 3)).map fun ty => .fmax f.u ty f.d f.a f.b
  | 2 => (FTy.ofCode (f.x.extractLsb' 0 3)).map fun ty => .fabs f.u ty f.d f.a
  | 3 => (FTy.ofCode (f.x.extractLsb' 0 3)).map fun ty => .fneg f.u ty f.d f.a
  | _ => none

/-- OP 0x44 of Table 4.7. -/
def decode44 (f : Fields) : Option Instr :=
  match (f.fn.extractLsb' 0 2).toNat with
  | 0 => (FTy.ofCode (f.x.extractLsb' 0 3)).map fun ty => .fclass f.u ty f.d f.a
  | 1 => (FTy.ofCode (f.x.extractLsb' 0 3)).map fun ty => .fscale f.u ty (f.fn.extractLsb' 2 2) f.d f.a f.b
  | 2 => (Cvt.ofCode (f.x.extractLsb' 0 7)).map fun k => .fcvt f.u k (f.fn.extractLsb' 2 2) f.d f.a
  | _ => none

/-- OP 0x45 of Table 4.7. -/
def decode45 (f : Fields) : Option Instr :=
  (FCond.ofCode f.fn).bind fun cc => (FTy.ofCode (f.x.extractLsb' 0 3)).map fun ty => .fcmp f.u cc ty f.d f.a f.b

/-- OP 0x50 of Table 4.7. -/
def decode50 (f : Fields) : Option Instr :=
  match f.fn.toNat with
  | 0 => some (.vbcast f.u f.d f.a)
  | 1 => some (.vext f.u f.d f.a f.b (f.imm.extractLsb' 0 4))
  | 2 => some (.vins f.u f.d f.a f.b (f.imm.extractLsb' 0 4))
  | 3 => some (.vperm f.u f.d f.a f.b)
  | 4 => some (.vshift f.u f.d f.a f.b f.imm)
  | 5 => some (.vcompress f.u f.d f.a f.b)
  | 6 => some (.vexpand f.u f.d f.a f.b)
  | 7 => some (.vpopc f.u f.d f.a)
  | 8 => some (.vlane f.u f.d)
  | _ => none

/-- OP 0x51 of Table 4.7. -/
def decode51 (f : Fields) : Option Instr :=
  (VOp.ofCode f.fn).map fun cc => .vred f.u cc f.d f.a

/-- OP 0x52 of Table 4.7. -/
def decode52 (f : Fields) : Option Instr :=
  (VOp.ofCode f.fn).map fun cc => .vscan f.u cc f.d f.a

/-- OP 0x60 of Table 4.7. -/
def decode60 (f : Fields) : Option Instr :=
  (LdKind.ofCode f.fn).map fun cc => .ld f.u cc f.d f.a f.imm

/-- OP 0x61 of Table 4.7. -/
def decode61 (f : Fields) : Option Instr :=
  (StKind.ofCode f.fn).map fun cc => .st f.u cc f.a f.b f.imm

/-- OP 0x62 of Table 4.7. -/
def decode62 (f : Fields) : Option Instr :=
  match f.fn.toNat with
  | 0 => some (.ldv f.u f.d f.a f.imm)
  | 1 => some (.stv f.u f.a f.b f.imm)
  | 2 => some (.ldvx f.u f.d f.a f.b f.imm)
  | 3 => some (.stvx f.u f.a f.b (f.x.extractLsb' 7 6) f.imm)
  | 4 => some (.pref f.u f.a f.imm)
  | _ => none

/-- OP 0x70 of Table 4.7. -/
def decode70 (f : Fields) : Option Instr :=
  (AtomOp.ofCode f.fn).map fun cc => .atom f.u cc (f.x.extractLsb' 0 1) f.d f.a f.b f.imm

/-- OP 0x71 of Table 4.7. -/
def decode71 (f : Fields) : Option Instr :=
  match f.fn.toNat with
  | 0 => some (.cas f.u (f.x.extractLsb' 0 1) f.d f.a f.b (f.x.extractLsb' 7 6) f.imm)
  | _ => none

/-- OP 0x72 of Table 4.7. -/
def decode72 (f : Fields) : Option Instr :=
  match f.fn.toNat with
  | 0 => some (.alrB f.u f.a f.imm)
  | 1 => some (.alrE f.u)
  | _ => none

/-- OP 0x73 of Table 4.7. -/
def decode73 (f : Fields) : Option Instr :=
  match f.fn.toNat with
  | 0 => some (.fence f.u)
  | 1 => some (.fenceSc f.u)
  | 2 => some (.ifence f.u)
  | _ => none

/-- OP 0x80 of Table 4.7. -/
def decode80 (f : Fields) : Option Instr :=
  match f.fn.toNat with
  | 0 => some (.cadd f.u f.a f.b f.imm)
  | 1 => some (.cread f.u (f.x.extractLsb' 0 1) f.d f.a)
  | 2 => some (.cwait f.u f.d f.a f.b (f.x.extractLsb' 0 6) f.imm)
  | 3 => some (.cerr f.u f.a (f.imm.extractLsb' 0 8))
  | 4 => some (.cinit f.u f.a f.b (f.imm.extractLsb' 0 8))
  | _ => none

/-- OP 0x90 of Table 4.7. -/
def decode90 (f : Fields) : Option Instr :=
  match f.fn.toNat with
  | 0 => some (.send f.u f.a f.b (f.imm.extractLsb' 6 3) (f.imm.extractLsb' 0 6))
  | 1 => some (.reply f.u f.a f.b (f.imm.extractLsb' 6 3) (f.imm.extractLsb' 0 6))
  | 2 => some (.peek f.u f.d (f.imm.extractLsb' 3 4) (f.imm.extractLsb' 0 3))
  | 3 => some (.spawn f.u f.d f.a f.b (f.x.extractLsb' 7 6) f.imm)
  | 4 => some (.fork f.u (f.x.extractLsb' 0 3) f.a f.b (f.x.extractLsb' 7 6) f.imm)
  | 5 => some (.pause f.u (f.imm.extractLsb' 0 16))
  | 6 => some (.chmask f.u f.a (f.imm.extractLsb' 0 1))
  | 7 => some (.chstat f.u f.d (f.imm.extractLsb' 0 6))
  | 8 => some (.sysc f.u f.imm)
  | _ => none

/-- OP 0xA0 of Table 4.7. -/
def decodeA0 (f : Fields) : Option Instr :=
  match f.fn.toNat with
  | 0 => some (.mzero f.u (f.x.extractLsb' 5 2))
  | 1 => some (.mlda f.u (f.x.extractLsb' 0 5) f.a f.b)
  | 2 => some (.mldb f.u (f.imm.extractLsb' 0 1) f.a f.b)
  | 3 => some (.gang f.u f.a)
  | 4 => some (.mma f.u (f.x.extractLsb' 0 5) (f.x.extractLsb' 5 2) (f.imm.extractLsb' 0 1) f.a f.b (f.x.extractLsb' 7 6))
  | 5 => some (.mst f.u (f.x.extractLsb' 5 2) f.a f.imm)
  | 6 => some (.mquant f.u (f.x.extractLsb' 0 3) (f.x.extractLsb' 3 1) (f.x.extractLsb' 4 1) f.a f.b (f.x.extractLsb' 7 6) f.imm)
  | 7 => some (.maxbar f.u f.d f.a f.b)
  | 8 => some (.mscale f.u (f.x.extractLsb' 5 2) f.a)
  | 9 => some (.mstat f.u f.d (f.imm.extractLsb' 0 3))
  | _ => none

/-- OP 0xB0 of Table 4.7. -/
def decodeB0 (f : Fields) : Option Instr :=
  match f.fn.toNat with
  | 0 => some (.job f.u f.a)
  | 1 => some (.wptr f.u f.d f.a)
  | 2 => some (.gath f.u f.a)
  | 3 => some (.scat f.u f.a)
  | 4 => some (.gbar f.u f.a f.b)
  | 5 => some (.gmcast f.u f.a f.b (f.imm.extractLsb' 6 3) (f.imm.extractLsb' 0 6))
  | _ => none

/-- OP 0xC0 of Table 4.7. -/
def decodeC0 (f : Fields) : Option Instr :=
  match f.fn.toNat with
  | 0 => some (.ldnear f.u f.a)
  | 1 => some (.stvec f.u f.a)
  | 2 => some (.delvec f.u f.a)
  | 3 => some (.ixsnap f.u f.a)
  | 4 => some (.ixrel f.u f.a)
  | 5 => some (.ixstat f.u f.a)
  | 6 => some (.ixcfg f.u f.a)
  | 7 => some (.ixcent f.u f.a)
  | _ => none

/-- OP 0xD0 of Table 4.7. -/
def decodeD0 (f : Fields) : Option Instr :=
  match f.fn.toNat with
  | 0 => some (.rsplit f.u f.a f.b (f.imm.extractLsb' 0 18))
  | 1 => some (.rmerge f.u f.a f.b (f.imm.extractLsb' 0 18))
  | 2 => some (.rinval f.u (f.x.extractLsb' 0 2) f.a (f.imm.extractLsb' 0 18))
  | 3 => some (.rprobe f.u f.d f.a)
  | 4 => some (.runpin f.u f.a)
  | 5 => some (.rquery f.u f.a f.b)
  | 6 => some (.rres f.u f.a f.b (f.x.extractLsb' 7 6) (f.imm.extractLsb' 0 18))
  | 7 => some (.rcompact f.u f.a f.b (f.imm.extractLsb' 0 18))
  | _ => none

/-- OP 0xD1 of Table 4.7. -/
def decodeD1 (f : Fields) : Option Instr :=
  match f.fn.toNat with
  | 0 => some (.pmake f.u f.d f.a (f.imm.extractLsb' 0 18))
  | 1 => some (.post f.u f.a f.b (f.imm.extractLsb' 0 6) (f.imm.extractLsb' 6 18))
  | 2 => some (.ldp f.u f.d f.a f.imm)
  | 3 => some (.stp f.u f.a f.b f.imm)
  | 4 => some (.pstat f.u f.d f.a)
  | 5 => some (.pfree f.u f.a (f.imm.extractLsb' 0 18))
  | _ => none

/-- OP 0xE0 of Table 4.7. -/
def decodeE0 (f : Fields) : Option Instr :=
  match f.fn.toNat with
  | 0 => some (.csrr f.u f.d (f.imm.extractLsb' 0 12))
  | 1 => some (.csrw f.u f.a (f.imm.extractLsb' 0 12))
  | 2 => some (.sret f.u f.a f.b (f.x.extractLsb' 7 6))
  | 3 => some (.ctxsave f.u f.a f.b (f.imm.extractLsb' 0 18))
  | 4 => some (.ctxload f.u f.a f.b (f.imm.extractLsb' 0 18))
  | 5 => some (.wdset f.u f.a)
  | 6 => some (.prio f.u f.a (f.imm.extractLsb' 0 6))
  | 7 => some (.halt f.u f.a (f.imm.extractLsb' 0 1))
  | 8 => some (.scrub f.u f.a f.b)
  | 9 => some (.errpop f.u f.d f.a f.b)
  | 10 => some (.cap f.u f.d f.a)
  | _ => none

/-- The instruction whose form a word's OP and FN name, read from the fields that form names (Table 4.7, R83). -/
def Fields.candidate (f : Fields) : Option Instr :=
  match f.op.toNat with
  | 0x00 => decode00 f
  | 0x01 => decode01 f
  | 0x10 => decode10 f
  | 0x11 => decode11 f
  | 0x20 => decode20 f
  | 0x21 => decode21 f
  | 0x22 => decode22 f
  | 0x23 => decode23 f
  | 0x24 => decode24 f
  | 0x30 => decode30 f
  | 0x31 => decode31 f
  | 0x32 => decode32 f
  | 0x40 => decode40 f
  | 0x41 => decode41 f
  | 0x42 => decode42 f
  | 0x43 => decode43 f
  | 0x44 => decode44 f
  | 0x45 => decode45 f
  | 0x50 => decode50 f
  | 0x51 => decode51 f
  | 0x52 => decode52 f
  | 0x60 => decode60 f
  | 0x61 => decode61 f
  | 0x62 => decode62 f
  | 0x70 => decode70 f
  | 0x71 => decode71 f
  | 0x72 => decode72 f
  | 0x73 => decode73 f
  | 0x80 => decode80 f
  | 0x90 => decode90 f
  | 0xA0 => decodeA0 f
  | 0xB0 => decodeB0 f
  | 0xC0 => decodeC0 f
  | 0xD0 => decodeD0 f
  | 0xD1 => decodeD1 f
  | 0xE0 => decodeE0 f
  | _ => none

/-- The total decoder: an instruction, or the first failing check of Table 4.6, orders 4 to 6 (R69, R82, R83). -/
def decodeFields (f : Fields) : Except DecErr Instr :=
  match f.candidate with
  | none => .error .illegal
  | some i =>
    if i.fields ≠ some f then .error .illegal
    else match i.check with
      | some e => .error e
      | none => .ok i

/-- The decoder on a 96-bit word. -/
def decode (w : IWord) : Except DecErr Instr := decodeFields (Fields.unpack w)

/-- The encoder: the word of an instruction that has one. -/
def encode (i : Instr) : Option IWord := i.fields.map Fields.pack

/-- The number that bytes hold little-endian (R54, R60, R210). -/
def leNat : List Byte → Nat
  | [] => 0
  | b :: bs => b.toNat + 256 * leNat bs

/-- The `n` little-endian bytes of a number. -/
def leBytes : Nat → Nat → List Byte
  | 0, _ => []
  | n + 1, v => BitVec.ofNat 8 v :: leBytes n (v / 256)

/-- The 96-bit word at twelve bytes, bits [8k+7:8k] at byte k (R60). -/
def wordOfBytes (bs : List Byte) : IWord := BitVec.ofNat 96 (leNat bs)

/-- The bytes of a word as a slot holds them (R60). -/
def bytesOfWord (w : IWord) : List Byte := leBytes 12 w.toNat

/-- The decoder on the bytes of a slot; fewer than twelve bytes are no word. -/
def decodeBytes (bs : List Byte) : Except DecErr Instr :=
  if bs.length < 12 then .error .illegal else decode (wordOfBytes (bs.take 12))

/-- What the decoder reads from an instruction whose bits are `w`, bit 0 the least significant bit of its first byte. -/
def decodeTableWord (_nbits w : Nat) : Option Instr :=
  match decodeBytes (bytesOfWord (BitVec.ofNat 96 w)) with
  | .ok i => some i
  | .error _ => none

end Sys2Proof
end

