-- ==== Sys2Proof/Machine/Sparse.lean ====
section
/-! DEFINITION. Sparse maps: lists of (key, value) sorted by key, listing no key that holds its default. Memory,
register files and tables are all held in this one canonical form. -/

namespace Sys2Proof.Machine.Sparse

variable {α : Type}

/-- The value at key `i`; an unlisted key holds `d`. -/
def get (d : α) (m : List (Nat × α)) (i : Nat) : α :=
  match m with
  | [] => d
  | e :: es => if e.1 = i then e.2 else get d es i

/-- Puts `v` at key `i`, keeping the order of keys. -/
def insert (m : List (Nat × α)) (i : Nat) (v : α) : List (Nat × α) :=
  match m with
  | [] => [(i, v)]
  | e :: es => if i < e.1 then (i, v) :: e :: es else if e.1 = i then (i, v) :: es else e :: insert es i v

/-- Removes key `i`. -/
def erase (m : List (Nat × α)) (i : Nat) : List (Nat × α) := m.filter (fun e => decide (e.1 ≠ i))

/-- Writes `v` at key `i`; writing the default removes the entry. -/
def set [DecidableEq α] (d : α) (m : List (Nat × α)) (i : Nat) (v : α) : List (Nat × α) :=
  if v = d then erase m i else insert m i v

/-- Applies `f` to the value at key `i`. -/
def modify [DecidableEq α] (d : α) (m : List (Nat × α)) (i : Nat) (f : α → α) : List (Nat × α) :=
  set d m i (f (get d m i))

/-- The canonical form: keys strictly rising, no entry equal to the default. -/
def wf [DecidableEq α] (d : α) (m : List (Nat × α)) : Bool :=
  match m with
  | [] => true
  | e :: es => decide (e.2 ≠ d) && es.all (fun e' => decide (e.1 < e'.1)) && wf d es

end Sys2Proof.Machine.Sparse
end

