-- ==== Sys2Proof/Machine/State.lean ====
section
/-! DEFINITION. The state of a KX-9 module as plain data, and the state after reset. Sparse maps are lists of
(key, value) sorted by key, with no entry for a key that holds its default (Sys2Proof/Machine/Sparse.lean). -/

namespace Sys2Proof.Machine

/-- Trap and record causes (16_recovery Table 16.2), in code order within each group. -/
inductive Cause where
  | fetchTarget | fetchFault | instrIllegal | instrModifier | instrOperand | tagOverflow | jtabFault | alrForm | matForm
  | privInstr | sendReply | csrNum | taskPc | debugBreak | userTrap
  | memAlign | memWindow | rangeMiss | rangePerm | rangePartial | parcelAbsent | parcelEscape | parcelState | ctrHandle | ctrCode
  | msgDest | engHandle | jobCard | ixBlock | matSlice | matOperand | matLeader | groupMember | groupKind | groupTimeout
  | fetchUe | memPoison | regUe | pipeError | sigMismatch | queueUe
  | budgetExpired | spanAbort | ckptUe | journalUe
  | gangTimeout | gangMismatch | matResidue | jobFault | gathBound | jobPoison | mergeOrder | gathKernel | ixPoison | taskLost | counterUe
  | msgNohandler | msgContext | msgClass | msgStall | msgUe | coreQuiet | coreMapped | coreLost | waitLost
  deriving DecidableEq, Repr

/-- A register write on its way: the destination, its scalar or predicate value, or its lanes with the lanes they
replace (R74). -/
structure RegWrite where
  d : Reg := 0
  x : Word := 0
  lanes : Lanes := []
  mask : BitVec 16 := 0xFFFF
  deriving DecidableEq, Repr

/-- A trap: its cause, information word and lane (Table 16.3). -/
structure Trap where
  cause : Cause
  info : Word := 0
  lane : Option Nat := none
  info2 : Word := 0
  deriving DecidableEq, Repr

/-- What a pending result of a landing buffer is: still awaited, returned, or returned as an error (R74, R77). -/
inductive LandSt where
  | wait (id : Nat)
  | ready (w : RegWrite)
  | fault (t : Trap)
  deriving DecidableEq, Repr

/-- One pending result of landing buffer `tag`, with the PC that allocated it (R74, R77). -/
structure Land where
  tag : BitVec 3 := 0
  pc : Pc := 0
  st : LandSt := .wait 0
  deriving DecidableEq, Repr

/-- One access of an atomic line region, in program order (R135): a load of a register at `n` bytes, or a store. -/
inductive RegionAcc where
  | load (k : LdKind) (d : Reg) (tag : BitVec 3) (pc : Pc) (va : Nat)
  | store (va : Nat) (bytes : List Byte)
  deriving DecidableEq, Repr

/-- An open atomic line region (R59, R135): its line, the line's key when it is translated, MO and SC, accesses. -/
structure Region where
  line : Nat := 0
  key : Nat := 0
  remote : Bool := false
  mo : BitVec 2 := 0
  sc : BitVec 3 := 0
  accs : List RegionAcc := []
  deriving DecidableEq, Repr

/-- What an outstanding result is a result of. -/
inductive LoadOp where
  | mem (k : LdKind)
  | vec
  | ptr (base size : Nat)
  | atom (op : AtomOp) (n : Nat) (b : Word)
  | cas (n : Nat) (cmp new : Word)
  | region (r : Region) (ids : List Nat)
  | counter (code : Bool) (h : Nat)
  | cwait (h : Nat) (v : Word) (ch : BitVec 6) (word : BitVec 32)
  | spawn (target : Nat) (pc : Pc) (args : List Word) (cnt : Word)
  | probe (va : Nat)
  | pstat (va : Nat)
  | csr (n : Nat)
  | wptr (die ch : Nat)
  | maxbar (grp : Nat) (v : BitVec 32)
  deriving DecidableEq, Repr

/-- An outstanding result of the slot's load tracking: the operation, where it lands, the bytes it reads as (key,
forwarded byte) with the virtual address, its value once the unit that decides it has decided, for a vector, the
register as it stood at issue, and its place among the core's store-buffer entries (R58, R74, R106, R123, R130). -/
structure Load where
  id : Nat := 0
  op : LoadOp := .vec
  d : Reg := 0
  tag : BitVec 3 := 0
  pd : Nat := 0
  mask : BitVec 16 := 0xFFFF
  pc : Pc := 0
  va : Nat := 0
  acq : Bool := false
  rel : Bool := false
  sc : BitVec 3 := 0
  bytes : List (Nat × Option Byte) := []
  res : Option LandSt := none
  old : Lanes := []
  ent : Nat := 0
  deriving DecidableEq, Repr

/-- The changes of the range directory that walker 0 performs (R191, R196). -/
inductive DirOp where
  | split (a b : Nat)
  | merge (a b : Nat)
  | res (a lo hi : Nat)
  | compact (a pa : Nat)
  | make (a : Nat)
  | free (a : Nat)
  | post (a : Nat) (dest : Word) (ch : BitVec 6)
  deriving DecidableEq, Repr

/-- A store-buffer entry (R126, Table 7.4): a line's bytes as (virtual address, key, byte), or an entry that stands
alone. -/
inductive SOp where
  | store (bytes : List (Nat × Nat × Byte))
  | posted (va key : Nat) (op : AtomOp) (n : Nat) (b : Word)
  | region (r : Region)
  | cadd (h : Nat) (amt : Nat)
  | cerr (h : Nat) (code : BitVec 8)
  | cinit (h : Nat) (v : Word) (code : BitVec 8)
  | marker
  | dir (op : DirOp) (ctr : Nat)
  | purge (reach : Nat) (vbase : Option Nat) (ctr : Nat)
  | sret (core : Nat) (ch : BitVec 6) (pc : Word)
  | halt (core : Nat) (withdraw : Bool)
  | ctxsave (core : Nat) (va : Nat) (ctr : Nat)
  | ctxload (core : Nat) (va : Nat) (ctr : Nat)
  deriving DecidableEq, Repr

/-- A store-buffer entry with its release order and scope (R130), and a number unique on its core. -/
structure SEntry where
  id : Nat := 0
  op : SOp := .marker
  rel : Bool := false
  sc : BitVec 3 := 0
  /-- set for the completion add of a task or child (R39), whose handle R133 reports -/
  completion : Bool := false
  /-- the loads of the activation before it: those whose id is smaller (R34, R130) -/
  upto : Nat := 0
  deriving DecidableEq, Repr

/-- A released entry on its way to its performing point: its activation (R237), whether `done` released it, the step at which
it left the core and entered the first outbound queue on its way, once it has, the steps at which it left each of these
(R126, R239, R240), and for `ctxload` the number of the requests with which it has asked other devices for its image (R322). -/
structure Rel where
  act : Nat := 0
  slot : Nat := 0
  byDone : Bool := false
  left : Option Nat := none
  via : List Nat := []
  asked : Option Nat := none
  e : SEntry := {}
  deriving DecidableEq, Repr

/-- A pool write in the port's write stage (R227): who stored (core, activation; activation 0 for no activation),
its place among that core's entries (R237), the bytes as (virtual address, key, byte), and whether it restores a poisoned
word (R125). -/
structure Staged where
  core : Nat := 0
  act : Nat := 0
  id : Nat := 0
  bytes : List (Nat × Nat × Byte) := []
  poison : Bool := false
  deriving DecidableEq, Repr

/-- An undo journal entry: the word's key, its old value, and whether it was poisoned (R125). -/
structure Journal where
  key : Nat := 0
  old : Word := 0
  poison : Bool := false
  deriving DecidableEq, Repr

/-- A matrix-queue operation (R158). -/
inductive MatOp where
  | zero (sl : Nat)
  | scale (sl : Nat) (f : BitVec 32)
  | gang (ctr : Nat)
  | mma (pa sl : Nat) (bw : Bool) (a b k : Nat)
  deriving DecidableEq, Repr

/-- A released matrix operation, with the span that issued it: its activation and the commits before it (R161: a failure
discards the span's rest). -/
structure MatEntry where
  act : Nat := 0
  commits : Nat := 0
  op : MatOp := .zero 0
  deriving DecidableEq, Repr

/-- An arrival on a wired barrier that a span will raise, with its place among the core's entries and its activation's loads (R180,
R237). -/
structure Gbar where
  id : Nat := 0
  grp : Nat := 0
  ctr : Nat := 0
  pc : Pc := 0
  act : Nat := 0
  upto : Nat := 0
  deriving DecidableEq, Repr

/-- A task as Quince holds it (Table 2.5): target as X[A] of `fork`, the payload words. -/
structure Task where
  target : Word := 0
  pc : Word := 0
  args : List Word := []
  cnt : Word := 0
  prio : Nat := 0
  seq : Nat := 0
  src : Nat := 0
  ctx : Nat := 0
  deriving DecidableEq, Repr

/-- A job: the issuing core and context, the card's address and its 32 words (Table 8.4), and its progress at the
front-end: for a gather the lines its kernel has run on and the rewritten indices (R178); the bases of the ranges it has
pinned (R172); the reads it has asked of other devices, by pass, with their numbers (R322); and, once its writes to other
devices are on their way, their number, what it will answer, the poisoned byte that has stopped it, if one has, and the address of
an access that has been given up, if one has (R332). -/
structure Job where
  core : Nat := 0
  ctx : Nat := 0
  card : Nat := 0
  words : List Word := []
  lines : Nat := 0
  idx : List (BitVec 32) := []
  pins : List Nat := []
  asks : List (Nat × Nat) := []
  sent : Option (Nat × Word) := none
  stop : Option Nat := none
  gone : Option Nat := none
  deriving DecidableEq, Repr

/-- An index request (R186): the issuing core and context, the FN of OP 0xC0, the block's address and words, the bytes at
VEC as they stood at release with the offsets of poisoned words, and what the arrival step fixed (R251): a sequence
number, a snapshot, or words 1 to 5 of its completion. -/
structure IxReq where
  core : Nat := 0
  ctx : Nat := 0
  fn : Nat := 0
  addr : Nat := 0
  words : List Word := []
  vec : List Byte := []
  bad : List Nat := []
  seq : Nat := 0
  snap : Nat := 0
  out : Option (List Word) := none
  deriving DecidableEq, Repr

/-- What an injection-queue entry holds (R145, R149, R173, R181, R186); for a multicast also the members that have their
message already (R277). -/
inductive InjOp where
  | msg (m : Msg)
  | mcast (grp : Nat) (m : Msg) (done : List Nat)
  | fork (t : Task) (die bank : Nat)
  | job (j : Job)
  | index (r : IxReq) (die : Nat)
  deriving DecidableEq, Repr

/-- An injection-queue entry: its activation, whether it is released, the release marker it stands behind (R136, R277),
the loads before it (R34), the entries it takes, and its place among the core's store-buffer entries (R265). -/
structure Inj where
  act : Nat := 0
  slot : Nat := 0
  op : InjOp := .msg {}
  released : Bool := false
  behind : Option Nat := none
  upto : Nat := 0
  width : Nat := 1
  ent : Nat := 0
  deriving DecidableEq, Repr

/-- Something on its way over the mesh (R18): a message to a core, a card to a front-end, a request to an engine; with
the core and activation it comes from (8192 for what a unit sends), for a reply that its core holds back its number among
those held back (R275), for a wake its cluster and wait-table entry (R273), for a card the release marker it stood
behind (R245), and for an index request its place among its core's entries and loads (R265). -/
structure Flight where
  src : Nat := 0
  act : Nat := 0
  op : InjOp := .msg {}
  back : Option Nat := none
  wait : Option (Nat × Nat) := none
  after : Option Nat := none
  ent : Nat := 0
  upto : Nat := 0
  deriving DecidableEq, Repr

/-- The checkpoint of `commit` (R102). -/
structure Ckpt where
  x : List (Nat × Word) := []
  v : List (Nat × Lanes) := []
  p : List (Nat × BitVec 16) := []
  cursor : Nat := 0
  pc : Pc := 0
  deriving DecidableEq, Repr

/-- What a spawned child keeps (R362). -/
structure Child where
  pc : Pc := 0
  args : List Word := []
  cnt : Word := 0
  att : Nat := 0
  deriving DecidableEq, Repr

/-- What a slot waits for. -/
inductive Hold where
  | ready
  | load (id : Nat)      -- an untagged non-local result (R58)
  | walk                 -- a range-table miss (R292)
  | drain                -- the drain of `commit` (R102)
  | parked               -- an MSK to be cleared (R271)
  deriving DecidableEq, Repr

/-- The span shadow: sticky flags [0] oob (never set here), [1] idz, [2] fnv, [3] fdz, [4] fof, [5] fuf, [6] fnx, and
MSAT (R107, R166). -/
structure Shadow where
  flags : BitVec 7 := 0
  msat : Nat := 0
  deriving DecidableEq, Repr

/-- An occupied slot: one activation. `lead` counts the cycles before its first issue (R30), `waited` those for which its
next instruction has been ready (R31), `pair` says that its next instruction is the second of a pair whose first has
issued in this cycle (R31); `line` is the current line, `ahead` the lines fetched ahead and `fresh` the step since which
the slot fetches afresh (R81); `newer` lists the pool bytes whose youngest store of the span is not a buffered one (R225),
and `scDrain` marks the drain of a `fence.sc` (R137). -/
structure Slot where
  act : Nat := 0
  chan : BitVec 6 := 0
  child : Option Child := none
  held : List Msg := []
  cursor : Nat := 0
  cnt : Word := 0
  x : List (Nat × Word) := []
  v : List (Nat × Lanes) := []
  p : List (Nat × BitVec 16) := []
  pc : Pc := 0
  entry : Option Pc := none
  task : Option Word := none
  sig : BitVec 24 := 0
  late : List (Nat × RegWrite) := []
  landing : List Land := []
  loads : List Load := []
  nextId : Nat := 0
  hold : Hold := .ready
  stores : List SEntry := []
  newer : List Nat := []
  journal : List Journal := []
  irrev : Bool := false
  commits : Nat := 0
  ckpt : Option Ckpt := none
  budget : Option Nat := none
  shadow : Shadow := {}
  matq : List MatOp := []
  gbars : List Gbar := []
  unpaired : Nat := 0
  region : Option Region := none
  halfHte : Option (Nat × Word) := none
  resv : Nat := 0
  paused : Nat := 0
  lead : Nat := 0
  waited : Nat := 0
  pair : Bool := false
  line : Option (Pc × List Byte) := none
  ahead : List (Pc × List Byte) := []
  fresh : Nat := 0
  fails : Nat := 0
  marker : Option Nat := none
  scDrain : Bool := false
  posted : List Nat := []
  kept : List Nat := []
  deriving DecidableEq, Repr

/-- A range descriptor (Table 15.2). -/
structure Desc where
  vbase : Nat := 0
  perm : BitVec 8 := 0
  size : Nat := 0
  ctx : Nat := 0
  st : Nat := 0
  pcl : Bool := false
  fmt : BitVec 5 := 0
  geo : BitVec 15 := 0
  off : Word := 0
  rhi : Nat := 0
  rlo : Nat := 0
  deriving DecidableEq, Repr

/-- A range-table entry: the descriptor and its pins (R194, R292). -/
structure RtEntry where
  desc : Desc := {}
  pins : Nat := 0
  deriving DecidableEq, Repr

/-- A spawn reservation a core holds (R41): who asked, and the child. -/
structure SpawnRes where
  core : Nat := 0
  act : Nat := 0
  released : Bool := false
  child : Child := {}
  deriving DecidableEq, Repr

/-- A core. `issued` lists the issues of this cycle as (M port, slot), `turnA` and `turnM` the slots that the ports chose
last (R31), `chose` says that the selector has bound an activation in this cycle (R29), `nextBack` numbers the replies it
holds back (R275), `used` lists the slots whose units an activation has written since they were zeroed or loaded (R12). -/
structure Core where
  ctx : Option Nat := none
  part : BitVec 32 := 0
  hte : List (Nat × BitVec 128) := []
  slots : List (Nat × Option Slot) := []
  inbox : List Msg := []
  inj : List Inj := []
  recs : List Msg := []
  seq : BitVec 32 := 0
  mid : BitVec 16 := 0
  last : List (Nat × Nat) := []
  selAge : BitVec 8 := 16
  ages : List (Nat × Nat) := []
  order : List Nat := []
  room : List (Nat × Nat) := []
  nextAct : Nat := 1
  nextEntry : Nat := 1
  stage : List Staged := []
  released : List Rel := []
  answered : List (Nat × Nat × Nat) := []
  spawns : List SpawnRes := []
  resume : List (Nat × Word) := []
  preempt : Bool := false
  quietSent : Bool := false
  matq : List MatEntry := []
  gbars : List Gbar := []
  gangFail : BitVec 8 := 0
  deadMat : List (Nat × Nat) := []
  rtab : List RtEntry := []
  cycBase : Nat := 0
  failTimes : List Nat := []
  lost : Bool := false
  mapped : Bool := false
  stallSince : Option Nat := none
  stallSent : Bool := false
  issued : List (Bool × Nat) := []
  turnA : Nat := 7
  turnM : Nat := 7
  chose : Bool := false
  nextBack : Nat := 0
  used : List Nat := []
  deriving DecidableEq, Repr

/-- A fold a commit or done has sent to the supervisor core (R222), with the commits before its span (R221). -/
structure Fold where
  core : Nat := 0
  act : Nat := 0
  commits : Nat := 0
  shadow : Shadow := {}
  deriving DecidableEq, Repr

/-- A context CSR access on its way to the supervisor core (R202). -/
inductive CsrReq where
  | read (core slot act id : Nat)
  | write (core : Nat) (n : Nat) (v : Word)
  deriving DecidableEq, Repr

/-- A directory update at walker 0, with the core and activation that released it and its counter (R191). -/
structure DirReq where
  core : Nat := 0
  op : DirOp := .make 0
  ctr : Nat := 0
  deriving DecidableEq, Repr

/-- A table purge (R193). -/
structure Purge where
  core : Nat := 0
  reach : Nat := 0
  vbase : Option Nat := none
  ctr : Nat := 0
  deriving DecidableEq, Repr

/-- An error ring (R315): eight-word records, the records lost since the last one stored, and the errors corrected at each
unit (UNIT × 65536 + DIE × 8192 + IDX of Table 16.5) since its last record. -/
structure Ring where
  recs : List (List Word) := []
  lost : Nat := 0
  corrected : List (Nat × Nat) := []
  deriving DecidableEq, Repr

/-- A round of `maxbar` (R168): contributions by core as (core, value), the cycle of the first, and the members whose
next contribution belongs to a failed round. -/
structure MaxRound where
  votes : List (Nat × BitVec 32) := []
  first : Nat := 0
  late : List Nat := []
  deriving DecidableEq, Repr

/-- A round of `gbar` (R180): the arrivals as (core, cycle, counter) in order, and the members whose next arrival is
late. -/
structure GbarRound where
  arrived : List (Nat × Nat × Nat) := []
  late : List Nat := []
  deriving DecidableEq, Repr

/-- One entry of an index (R250): links as (target, add stamp), removed links as (target, add stamp, removal stamp); whether
its vector or its links hold an uncorrectable word (R267). -/
structure IxEntry where
  bad : Bool := false
  seq : Nat := 0
  key : Word := 0
  cell : Nat := 0
  vec : List (BitVec 32) := []
  tomb : Option Nat := none
  links : List (Nat × Nat) := []
  removed : List (Nat × Nat × Nat) := []
  deriving DecidableEq, Repr

/-- An index (R250), with the cells whose centroids hold an uncorrectable word (R267). -/
structure Index where
  badCents : List Nat := []
  ctx : Nat := 0
  vbase : Nat := 0
  configured : Bool := false
  nc : Nat := 0
  dim : Nat := 0
  fmt : Nat := 0
  met : Bool := false
  lnk : Nat := 0
  cents : List (Nat × List (BitVec 32)) := []
  entries : List IxEntry := []
  next : Nat := 0
  cur : Nat := 0
  holds : List Nat := []
  deriving DecidableEq, Repr

/-- A context (R44, R285, Table 9.13). `sweep` lists the scrub intervals that `scrub` has set (0: the default) and `swept` the
cycle of the last sweep, by level (R314); `mended` lists what was corrected in the current sweep interval (R315); `folded` are
the performed folds of spans whose `commit` still drains, which count in `flags` and `msat` only once it has (R221, R222). -/
structure Ctx where
  live : Bool := false
  ending : Bool := false
  sup : Nat := 0
  clusters : List Nat := []
  part : BitVec 32 := 0
  prog : Nat := 0
  launches : Nat := 0
  flags : BitVec 7 := 0
  oobaddr : Word := 0
  dbg : BitVec 1 := 0
  gangTo : BitVec 32 := 65536
  grpTo : BitVec 32 := 65536
  parcBase : Word := 0
  parcSize : Word := 0
  mof : BitVec 32 := 0
  mnv : BitVec 32 := 0
  mnb : BitVec 32 := 0
  msat : BitVec 32 := 0
  groups : List (Nat × BitVec 128) := []
  folds : List Fold := []
  folded : List Fold := []
  oobs : List (Nat × Nat) := []
  csrs : List CsrReq := []
  dirq : List DirReq := []
  purges : List Purge := []
  rings : List (Nat × Ring) := []
  maxRounds : List (Nat × MaxRound) := []
  gbarRounds : List (Nat × GbarRound) := []
  sweep : List (Nat × Nat) := []
  swept : List (Nat × Nat) := []
  mended : List SoftError := []
  deriving DecidableEq, Repr

/-- A counter (R140). -/
structure Counter where
  val : Word := 0
  code : BitVec 8 := 0
  deriving DecidableEq, Repr

/-- A wait-table entry (R143): the counter index, the value waited for, who is woken, whether it is armed, the wake it must
send when `cinit` or an error fired it (R144), and whether its wake is on its way; the entry stays until the wake is
accepted (R273). -/
structure Wait where
  ent : Nat := 0
  ctr : Nat := 0
  value : Word := 0
  core : Nat := 0
  act : Nat := 0
  chan : BitVec 6 := 0
  word : BitVec 32 := 0
  armed : Bool := false
  fired : Option (Word × BitVec 8) := none
  sent : Bool := false
  deriving DecidableEq, Repr

/-- A cluster: the wait table of its counter bank (R143). -/
structure Cluster where
  waits : List Wait := []
  deriving DecidableEq, Repr

/-- A line in a cluster's instruction cache: the cluster, the line's key, its bytes, and the step at which it was read
(R81, R233). -/
structure CodeLine where
  cluster : Nat := 0
  key : Nat := 0
  bytes : List Byte := []
  at' : Nat := 0
  deriving DecidableEq, Repr

/-- A write to host memory that a host link has carried and that no zero-length read on that link has followed: the link,
and the core, activation and entry it comes from (R323). -/
structure HostWrite where
  link : Nat := 0
  core : Nat := 0
  act : Nat := 0
  ent : Nat := 0
  deriving DecidableEq, Repr

/-- A member's arrival at its gang's join: the member core, the cycle, the counter, and the span (R161). -/
structure GangArr where
  core : Nat := 0
  cycle : Nat := 0
  ctr : Nat := 0
  act : Nat := 0
  commits : Nat := 0
  deriving DecidableEq, Repr

/-- A gang (R9, R161): arrivals in order, the members whose next arrival is late, and the joined step's counter while it
runs. -/
structure Gang where
  arrivals : List GangArr := []
  late : List Nat := []
  step : Option Nat := none
  deriving DecidableEq, Repr

/-- A Quince bank (R40): its tasks, and the member last chosen for each group (context × 256 + number) plus 1. -/
structure Bank where
  tasks : List Task := []
  last : List (Nat × Nat) := []
  nextSeq : Nat := 0
  deriving DecidableEq, Repr

/-- A range-table miss at a walker (R292): the core, slot and activation that wait, the address, whether the slot waits for it (nothing
waits for `pref`, R129), and the outstanding result of an `rprobe` that it decides (R194). -/
structure Miss where
  core : Nat := 0
  slot : Nat := 0
  act : Nat := 0
  va : Nat := 0
  lane : Option Nat := none
  waits : Bool := true
  probe : Option Nat := none
  deriving DecidableEq, Repr

/-- A compaction (R195, R296), and whether it has started moving. -/
structure Compaction where
  moving : Bool := false
  ctx : Nat := 0
  vbase : Nat := 0
  newPa : Nat := 0
  ctr : Nat := 0
  core : Nat := 0
  deriving DecidableEq, Repr

/-- A mesh link or Saddle direction of a die (R316): the sender's permits, the receiver's free slots, the buffer size. -/
structure Mesh where
  permits : Nat := 0
  free : Nat := 0
  size : Nat := 0
  deriving DecidableEq, Repr

/-- A die and its engines (Table 1.6). `clock` counts sixteenths of the full rate (R335); `spares` lists the 2 × 2 cluster
blocks whose spare core is in use (R10, R318); `fixed` and `unfixed` count errors by level (Table 16.9). -/
structure Die where
  banks : List (Nat × Bank) := []
  pos : List (Nat × Nat) := []
  jobs : List Job := []
  recs : List (Nat × Msg) := []
  misses : List Miss := []
  works : List IxReq := []
  unitMid : List (Nat × BitVec 16) := []
  compactions : List Compaction := []
  clock : Nat := 16
  spares : List Nat := []
  lostCores : Nat := 0
  mesh : List (Nat × Mesh) := []
  skipped : Nat := 0
  repaired : Nat := 0
  fixed : List (Nat × Nat) := []
  unfixed : List (Nat × Nat) := []
  deriving DecidableEq, Repr

/-- A posted parcel on the sending side (Table 9.11); `answer` is what this device's own placement decided, where it is
the destination too: 1 accepted, 2 refused. -/
structure Xfer where
  ctx : Nat := 0
  vbase : Nat := 0
  core : Nat := 0
  dest : Word := 0
  chan : BitVec 6 := 0
  ctr : Nat := 0
  inTransit : Bool := false
  answer : Nat := 0
  deriving DecidableEq, Repr

/-- An arriving parcel on the receiving side (R200). -/
structure Arrival where
  ctx : Nat := 0
  vbase : Nat := 0
  p : ParcelIn := {}
  deriving DecidableEq, Repr

/-- A control flit that this device sends (R281, R316, R327, R329, R333). -/
inductive Flit where
  | ack (lseq : Nat)
  | nak (lseq : Nat)
  | credit (vc : Nat)
  | limit (vc n : Nat)
  | restripe (mask : BitVec 16)
  | snapshot (held : List Nat)
  deriving DecidableEq, Repr

/-- A fabric link (R279 to R283, R302 to R304, R327 to R333): its state (0 down, 1 training, 2 up, 3 narrowed). The sender:
live mask, KG, the limits last announced and cells in flight per VC, the VC last served, the next frame slot, the next LSEQ,
the replay buffer with the place to resend from, transmit count, key generation with the cells sent under it, whether a key
change is wanted, asked of the other end, and agreed, reservations, what takes effect at the next frame boundary, cells for
the other end alone, control flits that wait, those sent that no link acknowledgement has covered (R281), and what the last
slot sent: its flits as they went out and the 128 bytes of its cell. The receiver: announced and computed limits, when they were computed, cells held and received per VC, the LSEQ expected, KG, key
generation, the transmit count expected, cells left of the previous key's window, whether a next key is installed and whether
an agreement waits for the previous one's discard, whether the other end's message of the last training is still to come, the
last 1,024 authentication outcomes, dark wavelengths. -/
structure Link where
  st : Nat := 0
  mask : BitVec 16 := 0xFFFF
  kg : Bool := false
  replays : Nat := 0
  authFails : Nat := 0
  limit : List Nat := []
  inFlight : List Nat := [0, 0, 0, 0]
  lastVc : Nat := 3
  frame : Nat := 0
  lseq : Nat := 0
  replay : List Cell := []
  resend : Nat := 0
  txc : Nat := 0
  gen : Nat := 0
  genCells : Nat := 0
  rekey : Bool := false
  asked : Bool := false
  agreed : Bool := false
  own : List Cell := []
  flits : List Flit := []
  unsure : List Flit := []
  sentFlits : List (Flit × FlitIn) := []
  wire : List Byte := []
  resv : List (Nat × BitVec 32) := []
  newResv : Option (List (Nat × BitVec 32)) := none
  newMask : Option (BitVec 16) := none
  rxLimit : List Nat := []
  rxTarget : List Nat := []
  rxHeld : List Nat := [0, 0, 0, 0]
  rxCount : List Nat := [0, 0, 0, 0]
  rxNext : Nat := 0
  rxSince : Nat := 0
  rxKg : Bool := false
  rxGen : Nat := 0
  rxTxc : Nat := 0
  rxNew : Bool := false
  rxOwed : Bool := false
  rxHello : Bool := false
  rxPrev : Option Nat := none
  authLog : List Bool := []
  darkMask : BitVec 16 := 0
  deriving DecidableEq, Repr

/-- A cell of KIND 1 to 3 that this device sends (R330): the cell, the times it was sent, the cycle of the last or of its
queueing, whether it had no valid route (R328), and the
access it carries: the core, activation and store-buffer entry, the virtual address, whether that is a posted store or
atomic (R332), and the bytes a store writes at their keys (R240). -/
structure Kept where
  cell : Cell := {}
  sends : Nat := 0
  last : Nat := 0
  noRoute : Bool := false
  core : Nat := 0
  act : Nat := 0
  va : Nat := 0
  posted : Bool := false
  ent : Nat := 0
  bytes : List (Nat × Byte) := []
  deriving DecidableEq, Repr

/-- A peer device (R330 to R332): the next ESEQ of the sequence towards it, the cells it has not acknowledged, those that
wait to take an ESEQ, H and the numbers above H that it has delivered here, the cells handed to their performing points and not
yet performed, as (ESEQ, KIND), whether the path to it is abandoned, and whether it resets its path to here (R332). -/
structure Peer where
  next : Nat := 1
  kept : List Kept := []
  waiting : List Kept := []
  h : Nat := 0
  map : List Nat := []
  handed : List (Nat × Nat) := []
  dead : Bool := false
  resetting : Bool := false
  deriving DecidableEq, Repr

/-- The fabric side of the module. `out` holds the cells that wait to leave, oldest first, each with the link whose receive
buffer holds it (63 for a cell of this device's own). -/
structure Fab where
  out : List (Nat × Cell) := []
  links : List (Nat × Link) := []
  peers : List (Nat × Peer) := []
  discarded : Nat := 0
  deriving DecidableEq, Repr

/-- The host links, the management controller and what they hold (15_isolation R305 to R307, 17_host_fabric): `waiting` is a
command that has begun and waits (R325), `msi` counts the interrupts of MSI-X vectors 0 and 1, `hostLinks` the trained
width and rate of each host link (R321), `e2e` the end-to-end timer (R330). -/
structure Mgmt where
  measured : Bool := false
  tested : Bool := false
  devWritten : Bool := false
  linksUp : Bool := false
  badImage : Option Nat := none
  mr : List (Nat × BitVec 512) := []
  leaf : Nat := 0
  devnum : BitVec 15 := 0
  health : BitVec 8 := 0
  ctxTab : List (Nat × Word) := []
  route : List (Nat × Word) := []
  apert : List (Nat × Word) := []
  cqb : Word := 0
  cqn : Word := 0
  cqt : Word := 0
  cqh : Word := 0
  rqb : Word := 0
  rqt : Word := 0
  rqh : Word := 0
  back : List (Word × Word) := []
  mid : BitVec 16 := 0
  waiting : Option Instr := none
  msi : Nat × Nat := (0, 0)
  hostLinks : List (Nat × Nat) := []
  e2e : Nat := 35000
  hbmHours : Nat := 6
  swept : Nat := 0
  mended : List SoftError := []
  saddles : List (Nat × Nat) := []
  rings : List (Nat × Ring) := []
  deriving DecidableEq, Repr

/-- What the agenda schedules (log 3): cycles that pass, an issue of a slot, a host command or device event, or a byte the
host writes into its own memory. -/
inductive Act where
  | wait (n : Nat)
  | issue (core slot : Nat)
  | take (i : Instr)
  | hostMem (addr : Nat) (b : Byte)
  deriving DecidableEq, Repr

/-- The state of the module. `agenda`, `cur` and `tick` are the model's own fields (logs 3, 4 and 13). -/
structure State where
  agenda : List Act := []
  cur : Nat × Nat := (0, 0)
  tick : Nat := 0
  cycle : Nat := 0
  mem : List Host.Cell := []
  poison : List (Nat × Bool) := []
  cores : List (Nat × Core) := []
  ctxs : List (Nat × Ctx) := []
  counters : List (Nat × Counter) := []
  clusters : List (Nat × Cluster) := []
  code : List CodeLine := []
  gangs : List (Nat × Gang) := []
  dies : List (Nat × Die) := []
  flight : List Flight := []
  hostOut : List HostWrite := []
  xfers : List Xfer := []
  arrivals : List Arrival := []
  indexes : List Index := []
  fab : Fab := {}
  mgmt : Mgmt := {}
  deriving DecidableEq, Repr

/-- Why a step stops with a fault. -/
inductive Fault where
  /-- Raised by the agenda's host write to an address that is no host memory (17_host_fabric R322). Safe: the host has no
  such memory to write. -/
  | noHostMemory
  /-- Raised by a host write to a device register offset that Table 17.2 does not list. Safe: there is no register there. -/
  | noRegister
  deriving DecidableEq, Repr

/-- Why a step has no meaning. -/
inductive Refusal where
  /-- Raised by an arm of exec for an instruction without a meaning. Safe: nothing is claimed of it. -/
  | notModelled (mnemonic : String)
  deriving DecidableEq, Repr

/-- The module right after reset: nothing measured, no context launched, memory unwritten (17_host_fabric R334; logs 1
and 2). Every record's defaults above are its reset values. -/
def State.reset : State := {}

end Sys2Proof.Machine
end

