-- ==== Sys2Proof/Machine/Access.lean ====
section
/-! DEFINITION. Every piece of state has one reader and one writer here; the numbering of cores, clusters, gangs and
dies (01_machine R6 to R13) stands beside them. -/

namespace Sys2Proof.Machine

/-! ## Numbering -/

/-- The die of a core (Table 1.2). -/
def coreDie (c : Nat) : Nat := c / 1024 % 8
/-- The mesh row of a core (Table 1.2). -/
def coreRow (c : Nat) : Nat := c / 32 % 32
/-- The mesh column of a core (Table 1.2). -/
def coreCol (c : Nat) : Nat := c % 32
/-- The cluster id of a core (Table 1.3). -/
def coreCluster (c : Nat) : Nat := coreDie c * 64 + coreRow c / 4 * 8 + coreCol c / 4
/-- The cluster member number of a core (R8). -/
def coreMember (c : Nat) : Nat := coreRow c % 4 * 4 + coreCol c % 4
/-- Member `m` of the cluster of core `c` (R8). -/
def memberOf (c m : Nat) : Nat :=
  coreDie c * 1024 + (coreRow c / 4 * 4 + m / 4 % 4) * 32 + coreCol c / 4 * 4 + m % 4
/-- The core at member `m` of cluster `k` (Table 1.3). -/
def clusterCore (k m : Nat) : Nat := k / 64 * 1024 + (k / 8 % 8 * 4 + m / 4 % 4) * 32 + k % 8 * 4 + m % 4
/-- The leader of a core's gang (R9). -/
def gangLeader (c : Nat) : Nat := c / 4 * 4
/-- The gang member number of a core (R9). -/
def gangMember (c : Nat) : Nat := c % 4
/-- Whether a Saddle joins two dies (R6). -/
def saddleJoins (a b : Nat) : Bool :=
  (decide (a / 4 = b / 4) && (decide (a % 4 + 1 = b % 4) || decide (b % 4 + 1 = a % 4))) ||
  (decide (a / 4 ≠ b / 4) && decide (a % 4 = b % 4))
/-- The die path of R18 from `a` to `b`: first along the package row, then across it; both ends included. -/
def diePath (a b : Nat) : List Nat :=
  let ca := a % 4
  let cb := b % 4
  let row := if ca ≤ cb then (List.range (cb - ca + 1)).map (fun i => a / 4 * 4 + ca + i)
    else (List.range (ca - cb + 1)).map (fun i => a / 4 * 4 + ca - i)
  if a / 4 = b / 4 then row else row ++ [b]

/-! ## The pool and physical addresses -/

/-- The slot units S of a partition word (Table 1.4). -/
def partS (p : BitVec 32) : Nat := p.toNat % 16
/-- The accumulator units A of a partition word (Table 1.4). -/
def partA (p : BitVec 32) : Nat := p.toNat / 16 % 32
/-- A partition word a launch accepts (R11). -/
def partOk (p : BitVec 32) : Bool :=
  decide (1 ≤ partS p) && decide (partS p ≤ 8) && decide (partA p ≤ 16) && decide (p.toNat < 512)
/-- The scratchpad units scr (R12). -/
def partScr (p : BitVec 32) : Nat := 64 - partS p - partA p - 1

/-- The memory key of a pool byte: physical addresses end below 2^48 (R17), pools follow them (log 10). -/
def poolKey (c off : Nat) : Nat := 2 ^ 48 + c * 2 ^ 18 + off
/-- The owner of a pool key. -/
def keyCore (k : Nat) : Nat := (k - 2 ^ 48) / 2 ^ 18
/-- Whether a key is a pool byte's. -/
def keyIsPool (k : Nat) : Bool := decide (2 ^ 48 ≤ k)
/-- Where HBM ends (R17). -/
def hbmEnd : Nat := 0x006000000000
/-- The die that homes an HBM address (R17). -/
def homeDie (pa : Nat) : Nat := pa / 0x000C00000000
/-- The home slice of an HBM address on its die (R17). -/
def homeSlice (pa : Nat) : Nat := pa / 128 % 16

/-- What a physical address reaches (Table 17.1). -/
inductive PaClass where
  | hbm | regs | unmapped | host | peer
  deriving DecidableEq, Repr

/-- Table 17.1. -/
def paClass (pa : Nat) : PaClass :=
  if pa < hbmEnd then .hbm
  else if pa < 0x006100000000 then .regs
  else if pa < 0x010000000000 then .unmapped
  else if pa < 0x800000000000 then .host
  else .peer

/-! ## Bits -/

/-- Bits [lo + n - 1 : lo] of a word as a number. -/
def bits (w : Word) (lo n : Nat) : Nat := w.toNat / 2 ^ lo % 2 ^ n
/-- Bits [lo + n - 1 : lo] of a number. -/
def nbits (w lo n : Nat) : Nat := w / 2 ^ lo % 2 ^ n
/-- A word from a number, modulo 2^64. -/
def w64 (n : Nat) : Word := BitVec.ofNat 64 n
/-- IMM sign-extended from 32 bits to 64 (R86). -/
def sext32 (imm : BitVec 32) : Word := imm.signExtend 64
/-- IMM zero-extended to 64. -/
def zext32 (imm : BitVec 32) : Word := imm.setWidth 64
/-- The PC of the next slot (R86). -/
def nextPc (pc : Pc) : Pc := if pc.toNat % 64 < 48 then pc + 12 else pc + 16
/-- Whether a PC is a slot start (R60). -/
def slotStart (pc : Nat) : Bool := [0, 12, 24, 36, 48].contains (pc % 64)

/-! ## State readers and writers -/

namespace State

/-- Core `c`. -/
def core (s : State) (c : Nat) : Core := Sparse.get {} s.cores c
/-- Applies `f` to core `c`. -/
def modCore (s : State) (c : Nat) (f : Core → Core) : State := { s with cores := Sparse.modify {} s.cores c f }
/-- Context `k`. -/
def ctx (s : State) (k : Nat) : Ctx := Sparse.get {} s.ctxs k
/-- Applies `f` to context `k`. -/
def modCtx (s : State) (k : Nat) (f : Ctx → Ctx) : State := { s with ctxs := Sparse.modify {} s.ctxs k f }
/-- The activation in slot `k` of core `c`, if the slot is occupied. -/
def slot (s : State) (c k : Nat) : Option Slot := Sparse.get none (s.core c).slots k
/-- Puts an activation into slot `k` of core `c`, or frees the slot. -/
def setSlot (s : State) (c k : Nat) (sl : Option Slot) : State :=
  s.modCore c (fun co => { co with slots := Sparse.set none co.slots k sl })
/-- Applies `f` to the activation in slot `k` of core `c`. -/
def modSlot (s : State) (c k : Nat) (f : Slot → Slot) : State :=
  s.modCore c (fun co => { co with slots := Sparse.modify none co.slots k (Option.map f) })
/-- The activation whose instruction `exec` runs. -/
def curSlot (s : State) : Option Slot := s.slot s.cur.1 s.cur.2
/-- Puts the current activation back. -/
def putCur (s : State) (sl : Slot) : State := s.setSlot s.cur.1 s.cur.2 (some sl)
/-- The core whose instruction `exec` runs. -/
def curCore (s : State) : Core := s.core s.cur.1
/-- The context of a core, 64 when it has none (no context has that number). -/
def coreCtx (s : State) (c : Nat) : Nat := ((s.core c).ctx).getD 64
/-- Counter `k` (cluster × 256 + index). -/
def counter (s : State) (k : Nat) : Counter := Sparse.get {} s.counters k
/-- Writes counter `k`. -/
def setCounter (s : State) (k : Nat) (v : Counter) : State := { s with counters := Sparse.set {} s.counters k v }
/-- Cluster `k`. -/
def cluster (s : State) (k : Nat) : Cluster := Sparse.get {} s.clusters k
/-- Applies `f` to cluster `k`. -/
def modCluster (s : State) (k : Nat) (f : Cluster → Cluster) : State :=
  { s with clusters := Sparse.modify {} s.clusters k f }
/-- Die `d`. -/
def die (s : State) (d : Nat) : Die := Sparse.get {} s.dies d
/-- Applies `f` to die `d`. -/
def modDie (s : State) (d : Nat) (f : Die → Die) : State := { s with dies := Sparse.modify {} s.dies d f }
/-- Quince bank `b` of die `d`. -/
def bank (s : State) (d b : Nat) : Bank := Sparse.get {} (s.die d).banks b
/-- Applies `f` to Quince bank `b` of die `d`. -/
def modBank (s : State) (d b : Nat) (f : Bank → Bank) : State :=
  s.modDie d (fun x => { x with banks := Sparse.modify {} x.banks b f })
/-- The gang of leader `g`. -/
def gang (s : State) (g : Nat) : Gang := Sparse.get {} s.gangs g
/-- Applies `f` to the gang of leader `g`. -/
def modGang (s : State) (g : Nat) (f : Gang → Gang) : State := { s with gangs := Sparse.modify {} s.gangs g f }
/-- Applies `f` to the management side. -/
def modMgmt (s : State) (f : Mgmt → Mgmt) : State := { s with mgmt := f s.mgmt }
/-- Applies `f` to the fabric side. -/
def modFab (s : State) (f : Fab → Fab) : State := { s with fab := f s.fab }
/-- Link `n`. -/
def link (s : State) (n : Nat) : Link := Sparse.get {} s.fab.links n
/-- Applies `f` to link `n`. -/
def modLink (s : State) (n : Nat) (f : Link → Link) : State :=
  { s with fab := { s.fab with links := Sparse.modify {} s.fab.links n f } }
/-- Peer device `d`. -/
def peer (s : State) (d : Nat) : Peer := Sparse.get {} s.fab.peers d
/-- Applies `f` to peer device `d`. -/
def modPeer (s : State) (d : Nat) (f : Peer → Peer) : State :=
  { s with fab := { s.fab with peers := Sparse.modify {} s.fab.peers d f } }

/-- The byte at a memory key; a byte nothing has written reads 0 (log 2). -/
def byte (s : State) (key : Nat) : Byte := Sparse.get 0 s.mem key
/-- Writes the byte at a memory key. -/
def setByte (s : State) (key : Nat) (b : Byte) : State := { s with mem := Sparse.set 0 s.mem key b }
/-- Writes bytes at their keys, in list order. -/
def setBytes (s : State) (bs : List (Nat × Byte)) : State := bs.foldl (fun s e => s.setByte e.1 e.2) s
/-- `n` bytes from a memory key upward. -/
def bytes (s : State) (key n : Nat) : List Byte := (List.range n).map (fun i => s.byte (key + i))
/-- The 64-bit little-endian word at a memory key. -/
def word (s : State) (key : Nat) : Word := BitVec.ofNat 64 (leNat (s.bytes key 8))
/-- The keys and bytes of the 64-bit little-endian word `w` at `key`. -/
def wordBytes (key : Nat) (w : Word) : List (Nat × Byte) :=
  (List.range 8).map (fun i => (key + i, BitVec.ofNat 8 (w.toNat / 256 ^ i)))
/-- Writes a 64-bit little-endian word at a memory key. -/
def setWord (s : State) (key : Nat) (w : Word) : State := s.setBytes (wordBytes key w)
/-- Whether the 64-bit word that holds a key is poisoned (R239). -/
def poisoned (s : State) (key : Nat) : Bool := Sparse.get false s.poison (key / 8 * 8)
/-- Poisons the 64-bit word that holds a key, or clears its poison. -/
def setPoison (s : State) (key : Nat) (p : Bool) : State :=
  { s with poison := Sparse.set false s.poison (key / 8 * 8) p }

end State

/-! ## Handler entries and groups -/

/-- The fields of a handler table entry (Table 2.1). -/
abbrev Hte := BitVec 128

namespace Hte
/-- V. -/
def v (h : Hte) : Bool := h.getLsbD 64
/-- GW. -/
def gw (h : Hte) : Bool := h.getLsbD 65
/-- PRV. -/
def prv (h : Hte) : Bool := h.getLsbD 66
/-- MSK. -/
def msk (h : Hte) : Bool := h.getLsbD 67
/-- CLS. -/
def cls (h : Hte) : Bool := h.getLsbD 68
/-- PRI. -/
def pri (h : Hte) : Nat := (h.extractLsb' 69 3).toNat
/-- BND. -/
def bnd (h : Hte) : Nat := (h.extractLsb' 72 4).toNat
/-- RATE. -/
def rate (h : Hte) : Nat := (h.extractLsb' 76 4).toNat
/-- BUD. -/
def bud (h : Hte) : Nat := (h.extractLsb' 80 16).toNat
/-- EPC. -/
def epc (h : Hte) : Pc := h.extractLsb' 96 32
/-- CTXS. -/
def ctxs (h : Hte) : Word := h.extractLsb' 0 64
/-- Sets MSK. -/
def setMsk (h : Hte) (b : Bool) : Hte := if b then h ||| (1#128 <<< 67) else h &&& ~~~(1#128 <<< 67)
/-- Sets PRI. -/
def setPri (h : Hte) (p : Nat) : Hte := (h &&& ~~~(7#128 <<< 69)) ||| (BitVec.ofNat 128 (p % 8) <<< 69)

/-- Whether the entry of channel `ch` is valid (R22). -/
def ok (ch : Nat) (h : Hte) : Bool :=
  if h.v then
    slotStart h.epc.toNat && decide (h.rate ≠ 0) && (h.prv || decide (h.bud ≠ 0)) && (h.gw || decide (h.ctxs = 0)) &&
      !(decide (ch = 0) && (decide (h.epc ≠ 0) || decide (h.rate ≠ 1)))
  else decide (h = 0)
end Hte

/-- The handler entry of channel `ch` of core `c`. -/
def State.hte (s : State) (c ch : Nat) : Hte := Sparse.get 0 (s.core c).hte ch
/-- Writes a handler entry. -/
def State.setHte (s : State) (c ch : Nat) (h : Hte) : State :=
  s.modCore c (fun co => { co with hte := Sparse.set 0 co.hte ch h })

/-- Entry `g` of the group table of context `k` (Table 2.7). -/
def State.group (s : State) (k g : Nat) : BitVec 128 := Sparse.get 0 (s.ctx k).groups g

namespace Group
/-- V. -/
def v (g : BitVec 128) : Bool := g.getLsbD 127
/-- RC. -/
def rc (g : BitVec 128) : Bool := g.getLsbD 126
/-- DIE. -/
def die (g : BitVec 128) : Nat := (g.extractLsb' 123 3).toNat
/-- Y0. -/
def y0 (g : BitVec 128) : Nat := (g.extractLsb' 118 5).toNat
/-- X0. -/
def x0 (g : BitVec 128) : Nat := (g.extractLsb' 113 5).toNat
/-- HT. -/
def ht (g : BitVec 128) : Nat := (g.extractLsb' 108 5).toNat
/-- WD. -/
def wd (g : BitVec 128) : Nat := (g.extractLsb' 103 5).toNat
/-- MCNT. -/
def mcnt (g : BitVec 128) : Nat := (g.extractLsb' 82 14).toNat
/-- MAP. -/
def map (g : BitVec 128) : Nat := (g.extractLsb' 0 64).toNat
/-- The cores of a rectangle, in core-id order. -/
def rect (g : BitVec 128) : List Nat :=
  (List.range (ht g + 1)).flatMap (fun y => (List.range (wd g + 1)).map (fun x =>
    die g * 1024 + (y0 g + y) * 32 + x0 g + x))
/-- Whether a rectangle holds core `c`, read from its corners. -/
def inRect (g : BitVec 128) (c : Nat) : Bool :=
  decide (coreDie c = die g) && decide (y0 g ≤ coreRow c) && decide (coreRow c ≤ y0 g + ht g) &&
  decide (x0 g ≤ coreCol c) && decide (coreCol c ≤ x0 g + wd g)
end Group

/-! ## Core sets and counter handles -/

/-- Whether core `c` belongs to the core set of context `k` (R44, R285). -/
def State.inSet (s : State) (k c : Nat) : Bool := decide (c < 8192) && (s.ctx k).clusters.contains (coreCluster c)

/-- The counter that a handle names in context `k`: cluster × 256 + index; none for a malformed handle or a cluster that
holds no core of the context (R139). -/
def State.counterOf (s : State) (k : Nat) (h : Word) : Option Nat :=
  if h.toNat / 2 ^ 17 = 1 ∧ (s.ctx k).clusters.contains (bits h 8 9) then some (h.toNat % 2 ^ 17) else none

/-- The counter that an optional handle names: 0 names none (R139). -/
def State.optCounter (s : State) (k : Nat) (h : Word) : Option (Option Nat) :=
  if h = 0 then some none else (s.counterOf k h).map some

/-- The handle of a counter (R139). -/
def handleOf (h : Nat) : Word := w64 (2 ^ 17 + h)

end Sys2Proof.Machine
end

