-- ==== Sys2Proof/Machine/Operands.lean ====
section
/-! DEFINITION. Operands: reading and writing a slot's registers (04_encoding R70 to R77), predicates (R49, R86),
producer distance (R72, R73) and landing buffers (R74 to R77). -/

namespace Sys2Proof.Machine

/-- Sixteen zero lanes. -/
def zeroLanes : Lanes := List.replicate 16 0
/-- Lane `l` of a vector. -/
def lane (v : Lanes) (l : Nat) : BitVec 32 := v.getD l 0
/-- The sixteen lanes of a function. -/
def lanesOf (f : Nat → BitVec 32) : Lanes := (List.range 16).map f
/-- The lanes of `new` where the mask is 1, of `old` elsewhere (R49, R106). -/
def mergeLanes (mask : BitVec 16) (old new : Lanes) : Lanes :=
  lanesOf (fun l => if mask.getLsbD l then lane new l else lane old l)

/-- The bit vector whose bit `l` is `f l`. -/
def bitsFrom (f : Nat → Bool) : (n : Nat) → BitVec n
  | 0 => 0
  | n + 1 => BitVec.cons (f n) (bitsFrom f n)

/-- A write as it goes to its write point or landing buffer: a vector is one value, its lanes merged with those of the
register as it stands at issue (R73, R106). One that has no lane to write, `vins` where `lpred(k)` is false, writes nothing
(Table 6.6). -/
def RegWrite.whole (old : Lanes) (w : RegWrite) : RegWrite :=
  if Reg.isV w.d ∧ w.mask ≠ 0 then { w with lanes := mergeLanes w.mask old w.lanes, mask := 0xFFFF } else w

/-! ## The register file of a slot -/

namespace Slot

/-- X[r]; x0 reads zero (Table 4.4). -/
def getX (sl : Slot) (r : Reg) : Word := if r.toNat = 0 then 0 else Sparse.get 0 sl.x r.toNat
/-- V[r]. -/
def getV (sl : Slot) (r : Reg) : Lanes := Sparse.get zeroLanes sl.v r.toNat
/-- P[r]; p0 reads all ones (Table 4.4). -/
def getP (sl : Slot) (r : Reg) : BitVec 16 := if r.toNat = 48 then 0xFFFF else Sparse.get 0 sl.p r.toNat

/-- The register write itself: x0 is discarded, a vector keeps the lanes outside the write's mask (R70, R106). -/
def write (sl : Slot) (w : RegWrite) : Slot :=
  if Reg.isX w.d then
    if w.d.toNat = 0 then sl else { sl with x := Sparse.set 0 sl.x w.d.toNat w.x }
  else if Reg.isV w.d then
    { sl with v := Sparse.set zeroLanes sl.v w.d.toNat (mergeLanes w.mask (sl.getV w.d) w.lanes) }
  else if Reg.isPd w.d then { sl with p := Sparse.set 0 sl.p w.d.toNat (w.x.setWidth 16) }
  else sl

/-- The writes of a list, in order. -/
def writes (sl : Slot) (ws : List RegWrite) : Slot := ws.foldl write sl

/-- The mask of PR and PN over the sixteen bits of the predicate (R86). -/
def predMask (sl : Slot) (u : Ctl) : BitVec 16 :=
  let p := sl.getP (48 + u.pr.setWidth 6)
  if u.pn = 1 then ~~~p else p
/-- `pred()` (R86). -/
def pred (sl : Slot) (u : Ctl) : Bool := (sl.predMask u).getLsbD 0

/-! ## Producer distance -/

/-- One instruction has issued: the pending writes whose shadow has passed take effect, in program order (R72, R73). -/
def age (sl : Slot) : Slot :=
  let late := sl.late.map (fun e => (e.1 - 1, e.2))
  { sl.writes ((late.filter (fun e => decide (e.1 = 0))).map Prod.snd) with
    late := late.filter (fun e => decide (e.1 ≠ 0)) }

/-- Every pending write takes effect, by write point and then program order (R73: `commit`, `done` and `abort`). -/
def flushLate (sl : Slot) : Slot :=
  let due (k : Nat) := (sl.late.filter (fun e => decide (e.1 = k))).map Prod.snd
  { sl.writes (due 1 ++ due 2 ++ due 3) with late := [] }

/-! ## Landing buffers -/

/-- The pending results of landing[t], in allocation order (R74). -/
def landed (sl : Slot) (t : BitVec 3) : List Land := sl.landing.filter (fun l => decide (l.tag = t))

end Slot

/-- Whether an awaited result has not returned. -/
def LandSt.isWait : LandSt → Bool
  | .wait _ => true
  | _ => false
/-- The fault that a returned result holds, with the PC of its allocating instruction (R77). -/
def Land.fault? (l : Land) : Option (Pc × Trap) :=
  match l.st with
  | .fault t => some (l.pc, t)
  | _ => none
/-- The write that a returned result holds. -/
def Land.write? (l : Land) : Option RegWrite :=
  match l.st with
  | .ready w => some w
  | _ => none

/-- What awaiting tags comes to: a result is still out, a returned fault is raised, or the slot after the writes. -/
inductive Await where
  | wait (sl : Slot)
  | fault (pc : Pc) (t : Trap)
  | done (sl : Slot)
  deriving DecidableEq, Repr

namespace Slot

/-- Consumes tags in the order given: once every result of a tag has returned, each is written to its destination in
allocation order (R75), and the first fault is raised instead (R77). -/
def consume (sl : Slot) : List (BitVec 3) → Await
  | [] => .done sl
  | t :: ts =>
    let ls := sl.landed t
    if ls.any (fun l => l.st.isWait) then .wait sl
    else match ls.findSome? Land.fault? with
      | some (pc, tr) => .fault pc tr
      | none => consume { sl.writes (ls.filterMap Land.write?) with
          landing := sl.landing.filter (fun l => decide (l.tag ≠ t)) } ts

/-- The tags of a consume mask, ascending (Table 4.3: bit n - 1 of CT names tn). -/
def tagsOf (ct : BitVec 7) : List (BitVec 3) :=
  ((List.range 7).filter (fun i => ct.getLsbD i)).map (fun i => BitVec.ofNat 3 (i + 1))

/-- Whether landing[AT] has no room (R74). -/
def landingFull (sl : Slot) (t : BitVec 3) : Bool := decide (16 ≤ (sl.landed t).length)

/-- The instruction's own register write: to landing[AT] when AT ≠ 0, else at the write point of PD (R86 `wr`). The
older pending writes that share a write point go first (R73). -/
def wr (sl : Slot) (u : Ctl) (w : Option RegWrite) : Slot :=
  match w with
  | none => sl.age
  | some w0 =>
    let w := w0.whole (sl.getV w0.d)
    if u.at' ≠ 0 then { sl.age with landing := sl.landing ++ [{ tag := u.at', pc := sl.pc, st := .ready w }] }
    else if u.pd = 0 then sl.age.write w
    else { sl.age with late := sl.age.late ++ [(u.pd.toNat, w)] }

end Slot

/-! ## Control-flow signatures (R79) -/

/-- One step of the CRC-24 fold. -/
def sigStep (s : Nat) (bit : Bool) : Nat :=
  let t := s * 2 % 2 ^ 24
  if bit ^^ s.testBit 23 then t ^^^ 0x864CFB else t

/-- The fold of a 32-bit record into S, record bit 31 first. -/
def foldSig (s : BitVec 24) (rec : BitVec 32) : BitVec 24 :=
  BitVec.ofNat 24 ((List.range 32).foldl (fun a j => sigStep a (rec.getLsbD (31 - j))) s.toNat)

/-- The record of an instruction: bits [95:66] of its word and two zero bits (R79; log 7). -/
def sigRec (i : Instr) : BitVec 32 := (((encode i).getD 0).extractLsb' 66 30) ++ (0 : BitVec 2)

/-- The slot after an instruction has issued: S folded, the PC advanced (R79, R86). -/
def Slot.advance (sl : Slot) (i : Instr) : Slot :=
  { sl with pc := nextPc sl.pc, entry := none, fails := 0, sig := foldSig sl.sig (sigRec i) }

/-! ## Scalar sources -/

/-- The payload words of held messages, in order (R28). -/
def payload (ms : List Msg) : List Word := ms.flatMap (fun m => m.body)

/-- The value of a scalar source register and the slot after reading it: `in0` pops (R28, Table 4.4). A spawned child
holds no message, and its `mid`, `sender` and `chan` are free values (log 13). -/
def readSrc (s : State) (sl : Slot) (r : Reg) : Word × Slot :=
  match r.toNat with
  | 56 => ((payload sl.held).getD sl.cursor 0,
      { sl with cursor := min (sl.cursor + 1) (payload sl.held).length })
  | 57 => ((sl.held.head?.map (fun m => m.mid.setWidth 64)).getD (Config.noHeld s.tick), sl)
  | 58 => ((sl.held.head?.map (fun m => m.src.setWidth 64)).getD (Config.noHeld s.tick), sl)
  | 59 => ((sl.held.head?.map (fun m => m.chan.setWidth 64)).getD (Config.noHeld s.tick), sl)
  | 60 => (w64 s.cur.1, sl)
  | 61 => (w64 s.cur.2, sl)
  | 62 => (w64 (s.cycle - (s.core s.cur.1).cycBase), sl)
  | _ => (sl.getX r, sl)

/-- The header word of a message (Table 2.2). -/
def msgHeader (m : Msg) : Word :=
  m.dst ++ m.chan ++ (BitVec.ofBool m.cls) ++ (BitVec.ofNat 3 m.body.length) ++ m.ctx ++ m.src ++ m.mid ++
  (BitVec.ofBool m.err) ++ (BitVec.ofBool m.wake) ++ (BitVec.ofBool m.task) ++ (BitVec.ofBool m.host)

end Sys2Proof.Machine
end

