-- ==== Sys2Proof/Machine/Flags.lean ====
section
/-! DEFINITION. Flags: the sticky flags of the span shadow and their fold into the context (R89, R107, R221, R222), and
the condition codes of comparisons (R93). -/

namespace Sys2Proof.Machine

/-- The flag `idz` of `ctx.flags` (R89, Table 9.13 bit 1). -/
def idz : BitVec 7 := 0x02
/-- The flag `oob` of `ctx.flags` (Table 9.13 bit 0). -/
def oobFlag : BitVec 7 := 0x01

/-- Raises sticky flags in the span shadow (R107). -/
def Slot.raise (sl : Slot) (fl : BitVec 7) : Slot :=
  { sl with shadow := { sl.shadow with flags := sl.shadow.flags ||| fl } }

/-- Adds to a 32-bit context exception counter, which saturates (Table 10.3). -/
def satAdd32 (a : BitVec 32) (n : Nat) : BitVec 32 := BitVec.ofNat 32 (min (a.toNat + n) (2 ^ 32 - 1))

/-- The fold of a shadow into context state: flags are ORed, MSAT is added (Table 10.11). -/
def Ctx.fold (c : Ctx) (f : Shadow) : Ctx := { c with flags := c.flags ||| f.flags, msat := satAdd32 c.msat f.msat }
/-- The sticky flags as they read: those of performed folds whose `commit` still drains count too (R221, R222). -/
def Ctx.flagsNow (c : Ctx) : BitVec 7 := c.folded.foldl (fun a f => a ||| f.shadow.flags) c.flags
/-- MSAT as it reads. -/
def Ctx.msatNow (c : Ctx) : BitVec 32 := c.folded.foldl (fun a f => satAdd32 a f.shadow.msat) c.msat

/-- A condition code on two bit vectors: `.i` signed, `.n` unsigned (R93). -/
def condHolds {w : Nat} (cc : Cond) (a b : BitVec w) : Bool :=
  match cc with
  | .eq => a == b
  | .ne => a != b
  | .ltI => a.slt b
  | .leI => a.sle b
  | .gtI => b.slt a
  | .geI => b.sle a
  | .ltN => a.ult b
  | .leN => a.ule b
  | .gtN => b.ult a
  | .geN => b.ule a

/-- All ones or all zeros, as a scalar comparison or a reservation writes a predicate (R93, R143). -/
def allOrNone (b : Bool) : Word := if b then 0xFFFF else 0

/-- Whether any flag would be raised; nothing is folded for an empty shadow. -/
def Shadow.isClear (f : Shadow) : Bool := decide (f = {})

end Sys2Proof.Machine
end

