-- ==== Sys2Proof/Machine/Records.lean ====
section
/-! DEFINITION. Trap causes with their codes and classes (16_recovery Table 16.2) and supervisor records (R312, R313). -/

namespace Sys2Proof.Machine

namespace Cause

/-- The code of a cause (Table 16.2). -/
def code : Cause → Nat
  | fetchTarget => 0x0101 | fetchFault => 0x0102 | instrIllegal => 0x0103 | instrModifier => 0x0104
  | instrOperand => 0x0105 | tagOverflow => 0x0106 | jtabFault => 0x0107 | alrForm => 0x0108 | matForm => 0x0109
  | privInstr => 0x010A | sendReply => 0x010B | csrNum => 0x010C | taskPc => 0x010D | debugBreak => 0x010E
  | userTrap => 0x010F
  | memAlign => 0x0201 | memWindow => 0x0202 | rangeMiss => 0x0203 | rangePerm => 0x0204 | rangePartial => 0x0205
  | parcelAbsent => 0x0206 | parcelEscape => 0x0207 | parcelState => 0x0208 | ctrHandle => 0x0209 | ctrCode => 0x020A
  | msgDest => 0x020B | engHandle => 0x020C | jobCard => 0x020D | ixBlock => 0x020E | matSlice => 0x020F
  | matOperand => 0x0210 | matLeader => 0x0211 | groupMember => 0x0212 | groupKind => 0x0213 | groupTimeout => 0x0214
  | fetchUe => 0x0301 | memPoison => 0x0302 | regUe => 0x0303 | pipeError => 0x0304 | sigMismatch => 0x0305
  | queueUe => 0x0306
  | budgetExpired => 0x0401 | spanAbort => 0x0402 | ckptUe => 0x0403 | journalUe => 0x0404
  | gangTimeout => 0x0501 | gangMismatch => 0x0502 | matResidue => 0x0503 | jobFault => 0x0504 | gathBound => 0x0505
  | jobPoison => 0x0506 | mergeOrder => 0x0507 | gathKernel => 0x0508 | ixPoison => 0x0509 | taskLost => 0x050A
  | counterUe => 0x050B
  | msgNohandler => 0x0601 | msgContext => 0x0602 | msgClass => 0x0603 | msgStall => 0x0604 | msgUe => 0x0605
  | coreQuiet => 0x0606 | coreMapped => 0x0607 | coreLost => 0x0608 | waitLost => 0x0609

end Cause

/-- The class of a cause (R310). -/
inductive Klass where
  | t | m | c | u | v
  deriving DecidableEq, Repr

/-- Table 16.2. `budget.expired` has its own rule (R36) and is never taken through the class. -/
def Cause.klass (k : Cause) : Klass :=
  if k.code < 0x0300 then .m else if k.code < 0x0400 then .t else if k.code < 0x0500 then .c
  else if k.code < 0x0600 then .u else .v

/-- The fields of a supervisor record that vary (Table 16.3). -/
structure Rec where
  cause : Cause
  kind : Nat := 0
  att : Nat := 0
  commits : Nat := 0
  slot : Nat := 0
  lane : Option Nat := none
  pc : Word := 0
  info : Word := 0
  who : Word := 0
  info2 : Word := 0
  deriving DecidableEq, Repr

/-- Word 1 of a record (Table 16.3). -/
def Rec.word1 (r : Rec) : Word :=
  w64 (r.cause.code * 2 ^ 48 + r.kind % 16 * 2 ^ 44 + r.att % 4 * 2 ^ 42 + min r.commits 65535 * 2 ^ 24 +
    r.slot % 8 * 2 ^ 8 + (match r.lane with | some l => 2 ^ 7 + l % 16 | none => 0))

/-- Word 4 of a record: the message it concerns (Table 16.3). -/
def msgWho (m : Msg) : Word := w64 (m.mid.toNat + m.chan.toNat * 2 ^ 16 + m.src.toNat * 2 ^ 22 + m.ctx.toNat * 2 ^ 35)

/-- Cycles since a core's last reset (Table 4.4 `cyc`). -/
def State.cyc (s : State) (c : Nat) : Word := w64 (s.cycle - (s.core c).cycBase)

/-- The record message that core `c` raises in context `k` (R312). -/
def recordMsg (s : State) (k c : Nat) (r : Rec) (seq : BitVec 32) : Msg :=
  { dst := BitVec.ofNat 13 (s.ctx k).sup, chan := 1, ctx := BitVec.ofNat 8 k, src := BitVec.ofNat 13 c, err := true,
    body := [r.word1, r.pc, r.info, r.who, r.info2, s.cyc c, seq.setWidth 64] }

/-- Core `c` raises a record: SEQ rises and the record enters the record buffer (R312, R313; log 16). A core of no
context raises none (R285). -/
def State.record (s : State) (c : Nat) (r : Rec) : State :=
  match (s.core c).ctx with
  | none => s
  | some k =>
    let m := recordMsg s k c r ((s.core c).seq + 1)
    s.modCore c (fun co => { co with seq := co.seq + 1, recs := co.recs ++ [m] })

/-- Unit `u` of die `d` raises a record for the work of core `c` in context `k`: it takes the issuing core's SEQ (log 22)
and enters the die record queue (R312, R313). -/
def State.unitRecord (s : State) (d u k c : Nat) (r : Rec) : State :=
  let m := recordMsg s k c r ((s.core c).seq + 1)
  (s.modCore c (fun co => { co with seq := co.seq + 1 })).modDie d (fun x => { x with recs := x.recs ++ [(u, m)] })

/-! ## Units of a die, as MID counts name them (R25) -/

/-- Range walker 0. -/
def unitWalker : Nat := 4
/-- Job front-end. -/
def unitFront : Nat := 5
/-- Distributor. -/
def unitDist : Nat := 6
/-- Compaction engine. -/
def unitCompact : Nat := 7
/-- Copy channel `ch`. -/
def unitCopy (ch : Nat) : Nat := 8 + ch
/-- The Bramble unit of a cluster. -/
def unitBramble (k : Nat) : Nat := 64 + k % 64
/-- The counter bank of a cluster. -/
def unitBank (k : Nat) : Nat := 128 + k % 64
/-- The gather unit of a core. -/
def unitGather (c : Nat) : Nat := 1024 + c % 1024
/-- Quince. -/
def unitQuince (b : Nat) : Nat := 32 + b % 16
/-- The gang of a leader. -/
def unitGang (g : Nat) : Nat := 2048 + g % 1024

/-- The next MID of a unit of die `d`, and the state in which its count has risen (R25). -/
def State.unitMid (s : State) (d u : Nat) : BitVec 16 × State :=
  (Sparse.get 0 (s.die d).unitMid u,
    s.modDie d (fun x => { x with unitMid := Sparse.modify 0 x.unitMid u (· + 1) }))

/-- A message that a unit sends (R25). -/
def State.unitSend (s : State) (die u : Nat) (m : Msg) : State :=
  let r := s.unitMid die u
  { r.2 with flight := r.2.flight ++ [{ src := 8192, op := .msg { m with mid := r.1 } }] }

end Sys2Proof.Machine
end

