-- ==== Sys2Proof/Machine/Mem.lean ====
section
/-! DEFINITION. Memory: range descriptors and the directory (15_isolation R289 to R295), address classes (07 R120,
R121), the pool port with its write stage (11 R227 to R229), poison (12 R239). -/

namespace Sys2Proof.Machine

/-! ## Range descriptors -/

/-- PERM bits (Table 15.2). -/
def permR : BitVec 8 := 0x80
/-- W. -/
def permW : BitVec 8 := 0x40
/-- X. -/
def permX : BitVec 8 := 0x20
/-- A. -/
def permA : BitVec 8 := 0x10
/-- M. -/
def permM : BitVec 8 := 0x08
/-- P. -/
def permP : BitVec 8 := 0x04
/-- I. -/
def permI : BitVec 8 := 0x02
/-- G. -/
def permG : BitVec 8 := 0x01

namespace Desc

/-- The descriptor of four words (Table 15.2). -/
def ofWords (w0 w1 w2 w3 : Word) : Desc :=
  { vbase := bits w0 8 44 * 256, perm := w0.extractLsb' 0 8, size := bits w1 32 32, ctx := bits w1 24 8,
    st := bits w1 21 3, pcl := w1.getLsbD 20, fmt := w1.extractLsb' 15 5, geo := w1.extractLsb' 0 15, off := w2,
    rhi := bits w3 32 32, rlo := bits w3 0 32 }

/-- The four words of a descriptor (Table 15.2). -/
def words (d : Desc) : List Word :=
  [w64 (d.vbase / 256 % 2 ^ 44 * 256 + d.perm.toNat),
   w64 (d.size % 2 ^ 32 * 2 ^ 32 + d.ctx % 256 * 2 ^ 24 + d.st % 8 * 2 ^ 21 + (if d.pcl then 2 ^ 20 else 0) +
     d.fmt.toNat * 2 ^ 15 + d.geo.toNat),
   d.off, w64 (d.rhi % 2 ^ 32 * 2 ^ 32 + d.rlo % 2 ^ 32)]

/-- The first address past the range. -/
def limit (d : Desc) : Nat := d.vbase + 256 * d.size
/-- Whether the range covers an address. -/
def covers (d : Desc) (va : Nat) : Bool := decide (d.vbase ≤ va) && decide (va < d.limit)
/-- The physical address of an address of the range (R289). -/
def pa (d : Desc) (va : Nat) : Nat := (va + d.off.toNat) % 2 ^ 52
/-- The resident extent's lower end. -/
def resLo (d : Desc) : Nat := d.vbase + 256 * d.rlo
/-- The resident extent's upper end. -/
def resHi (d : Desc) : Nat := d.vbase + 256 * d.rhi
/-- Whether an address lies in the resident extent. -/
def resident (d : Desc) (va : Nat) : Bool := decide (d.resLo ≤ va) && decide (va < d.resHi)
/-- Whether the parcel is away: departing, in transit or arriving (Table 15.5). -/
def away (d : Desc) : Bool := decide (d.st = 2) || decide (d.st = 3) || decide (d.st = 4)
/-- Whether PERM has every bit of `need`. -/
def has (d : Desc) (need : BitVec 8) : Bool := decide (d.perm &&& need = need)
/-- Whether two ranges overlap. -/
def overlaps (d e : Desc) : Bool := decide (d.vbase < e.limit) && decide (e.vbase < d.limit)

/-- The element formats of Table 10.6. -/
def fmtOk (f : BitVec 5) : Bool := decide (f.toNat ≤ 9) || (decide (16 ≤ f.toNat) && decide (f.toNat ≤ 23)) || decide (f = 31)

/-- A valid descriptor (R289; word 2 and SIZE as Table 15.2 states them). -/
def valid (d : Desc) : Bool :=
  decide (1 ≤ d.size) && decide (d.ctx < 64) && decide (d.st ≤ 5) && decide (d.rlo ≤ d.rhi) && decide (d.rhi ≤ d.size) &&
  decide (d.off.toNat % 256 = 0) && decide (bits d.off 52 12 = if d.off.getLsbD 51 then 4095 else 0) &&
  decide (d.limit ≤ 2 ^ 52) && decide (d.pa d.vbase + 256 * d.size ≤ 2 ^ 48) &&
  (decide (d.pa d.vbase + 256 * d.size ≤ hbmEnd) || decide (hbmEnd ≤ d.pa d.vbase)) &&
  (!d.pcl || (d.has permP && !d.has permG)) && fmtOk d.fmt

end Desc

/-! ## The context table and the directory -/

/-- Word `w` of the context-table entry of context `k` (Table 15.3). -/
def State.ctxWord (s : State) (k w : Nat) : Word := Sparse.get 0 s.mgmt.ctxTab (8 * k + w)
/-- Whether the entry is valid. -/
def State.ctxValid (s : State) (k : Nat) : Bool := (s.ctxWord k 0).getLsbD 63
/-- SEL. -/
def State.dirSel (s : State) (k : Nat) : Nat := bits (s.ctxWord k 0) 62 1
/-- The base of directory buffer `b`. -/
def State.dirBuf (s : State) (k b : Nat) : Nat := bits (s.ctxWord k b) 0 48
/-- The base of the buffer in use. -/
def State.dirBase (s : State) (k : Nat) : Nat := s.dirBuf k (s.dirSel k)
/-- DIRN. -/
def State.dirN (s : State) (k : Nat) : Nat := bits (s.ctxWord k 2) 0 17
/-- PHLO. -/
def State.phLo (s : State) (k : Nat) : Nat := bits (s.ctxWord k 3) 0 48
/-- PHHI. -/
def State.phHi (s : State) (k : Nat) : Nat := bits (s.ctxWord k 4) 0 48
/-- ARRPA. -/
def State.arrPa (s : State) (k : Nat) : Nat := bits (s.ctxWord k 5) 0 48

/-- The descriptor that stands at a physical address, read through a byte reader. -/
def descAt (rd : Nat → Byte) (pa : Nat) : Desc :=
  let w (i : Nat) : Word := BitVec.ofNat 64 (leNat ((List.range 8).map (fun j => rd (pa + 8 * i + j))))
  Desc.ofWords (w 0) (w 1) (w 2) (w 3)

/-- Entry `i` of the directory in use of context `k` (R292). -/
def State.dirDesc (s : State) (k i : Nat) : Desc := descAt s.byte (s.dirBase k + 32 * i)
/-- The directory in use, in order. -/
def State.dir (s : State) (k : Nat) : List Desc := (List.range (s.dirN k)).map (s.dirDesc k)

/-- The walk of R292 over entries read by `e`: the probe steps 2^n down to 1. -/
def walkFrom (e : Nat → Desc) (dirn ea : Nat) : Nat → Nat → Nat
  | 0, pos => pos
  | n + 1, pos =>
    walkFrom e dirn ea n (if pos + 2 ^ n < dirn ∧ (e (pos + 2 ^ n)).vbase ≤ ea then pos + 2 ^ n else pos)

/-- The descriptor that a walk returns, if its entry covers the address (R292). -/
def walkFind (e : Nat → Desc) (dirn ea : Nat) : Option Desc :=
  let d := e (walkFrom e dirn ea 16 0)
  if dirn ≠ 0 ∧ d.covers ea then some d else none

/-- The descriptor of an address in the directory of context `k`. -/
def State.dirFind (s : State) (k ea : Nat) : Option Desc := walkFind (s.dirDesc k) (s.dirN k) ea
/-- The descriptor of a 64-bit address as the directory holds it. -/
def State.descOf (s : State) (k va : Nat) : Option Desc := if va < 2 ^ 52 then s.dirFind k va else none

/-! ## Translation -/

/-- What translating one address comes to. -/
inductive Tr where
  | ok (pa : Nat)
  | fault (c : Cause)
  | miss
  deriving DecidableEq, Repr

/-- The checks of R121 on a descriptor that covers the address; `posted` lists parcels the span has posted (R249). -/
def Desc.access (d : Desc) (va : Nat) (need : BitVec 8) (posted : List Nat) : Tr :=
  if !d.has need then .fault .rangePerm
  else if !d.resident va then .fault .rangePartial
  else if d.away || posted.contains d.vbase then .fault .parcelAbsent
  else .ok (d.pa va)

/-- Translation by the range table of core `c` (R292). -/
def State.translate (s : State) (c va : Nat) (need : BitVec 8) (posted : List Nat) : Tr :=
  if 2 ^ 52 ≤ va then .fault .rangeMiss
  else match (s.core c).rtab.find? (fun e => e.desc.covers va) with
    | none => .miss
    | some e => e.desc.access va need posted

/-- Translation by the directory of context `k`, as engines, fetches and peers use it. -/
def State.dirTranslate (s : State) (k va : Nat) (need : BitVec 8) : Tr :=
  if 2 ^ 52 ≤ va then .fault .rangeMiss
  else match s.dirFind k va with
    | none => .fault .rangeMiss
    | some d => d.access va need []

/-- The range-table entry that covers an address becomes the most recently used (R292). -/
def State.touch (s : State) (c va : Nat) : State :=
  s.modCore c (fun co => match co.rtab.find? (fun e => e.desc.covers va) with
    | none => co
    | some e => { co with rtab := co.rtab.erase e ++ [e] })

/-- A walked descriptor enters the range table, replacing the least recently used unpinned entry when all 32 are in use
(R292); where the table holds the range's entry already, the pins of that stand (R194). The table lists entries from the
least to the most recently used. -/
def rtabInsert (t : List RtEntry) (d : Desc) : List RtEntry :=
  let e : RtEntry := { desc := d, pins := ((t.find? (fun e => decide (e.desc.vbase = d.vbase))).map RtEntry.pins).getD 0 }
  let t := t.filter (fun e => !e.desc.overlaps d)
  if t.length < 32 then t ++ [e]
  else match t.find? (fun e => decide (e.pins = 0)) with
    | some x => t.erase x ++ [e]
    | none => t

/-! ## Address classes (Table 7.1) -/

/-- Where an address leads: a pool byte of a core, or a translated address. -/
inductive Place where
  | pool (core off : Nat)
  | far (va : Nat)
  deriving DecidableEq, Repr

/-- Table 7.1 for an access of core `c`. -/
def place (c va : Nat) : Place :=
  if va < 0x40000 then .pool c va
  else if 0x100000 ≤ va ∧ va < 0x500000 then .pool (memberOf c ((va - 0x100000) / 0x40000)) (va % 0x40000)
  else .far va

/-- The scratchpad's size in bytes on core `c` (R12). -/
def State.scrBytes (s : State) (c : Nat) : Nat := partScr (s.core c).part * 4096

/-! ## Writing memory, with poison (R239) -/

/-- Whether bytes (virtual address, key, byte) cover the whole word that holds a key. The bytes are those of one instruction:
lanes that cover the word together count as one store (log 97). -/
def coversWord (bs : List (Nat × Nat × Byte)) (key : Nat) : Bool :=
  (List.range 8).all (fun i => bs.any (fun e => decide (e.2.1 = key / 8 * 8 + i)))

/-- A byte that must be dropped: its word is poisoned and not wholly written (R239). -/
def State.dropped (s : State) (bs : List (Nat × Nat × Byte)) (e : Nat × Nat × Byte) : Bool :=
  s.poisoned e.2.1 && !coversWord bs e.2.1

/-- The first address of each word among bytes that are dropped. -/
def firstOfWords : List (Nat × Nat × Byte) → List Nat → List Nat
  | [], _ => []
  | e :: es, seen =>
    if seen.contains (e.2.1 / 8) then firstOfWords es seen else e.1 :: firstOfWords es (e.2.1 / 8 :: seen)

/-- A write to lines is about to be acknowledged: no instruction cache holds them any more (R233). -/
def State.dropCode (s : State) (keys : List Nat) : State :=
  if s.code = [] then s else
  { s with code := s.code.filter (fun e => !keys.any (fun k => decide (k / 128 = e.key / 128))) }

/-- Performs a store of bytes for core `c`: a store of all 8 bytes of a poisoned word clears the poison, a smaller one is
dropped with a context error that carries the address (R239; its PC is log 23). -/
def State.writeMem (s : State) (c : Nat) (bs : List (Nat × Nat × Byte)) : State :=
  let good := bs.filter (fun e => !s.dropped bs e)
  let s1 := good.foldl (fun t e => t.setByte e.2.1 e.2.2) (s.dropCode (good.map (fun e => e.2.1)))
  let s2 := good.foldl (fun t e => if t.poisoned e.2.1 then t.setPoison e.2.1 false else t) s1
  (firstOfWords (bs.filter (s.dropped bs)) []).foldl
    (fun t va => t.record c { cause := .memPoison, kind := 2, info := w64 va }) s2

/-! ## The pool port (R227) -/

/-- One staged write reaches the bank; a write-back of a poisoned word restores the poison (R125, R227). -/
def State.bankStore (s : State) (e : Staged) : State :=
  let s1 := s.writeMem e.core e.bytes
  if e.poison then e.bytes.foldl (fun t b => t.setPoison b.2.1 true) s1 else s1

/-- Every staged write of core `t`'s port reaches the bank, in acceptance order (R227). -/
def State.bankFlush (s : State) (t : Nat) : State :=
  (s.core t).stage.foldl State.bankStore (s.modCore t (fun co => { co with stage := [] }))

/-- The oldest staged write of core `t`'s port reaches the bank. -/
def State.bankPop (s : State) (t : Nat) : State :=
  match (s.core t).stage with
  | [] => s
  | e :: es => (s.modCore t (fun co => { co with stage := es })).bankStore e

/-- The youngest staged byte that activation `act` of core `c` wrote at a key, and whether it is poisoned (R227). -/
def stagedByte (stage : List Staged) (c act key : Nat) : Option (Byte × Bool) :=
  stage.reverse.findSome? (fun e =>
    if e.core = c ∧ e.act = act then
      (e.bytes.reverse.find? (fun b => decide (b.2.1 = key))).map (fun b => (b.2.2, e.poison))
    else none)

/-- What reading one byte of a window gives: its value, whether it is poisoned, whether it is out of range (R14, R227). -/
def State.poolByte (s : State) (c act t off : Nat) : Byte × Bool × Bool :=
  if s.scrBytes t ≤ off then (0, false, true)
  else match stagedByte (s.core t).stage c act (poolKey t off) with
    | some (b, p) => (b, p, false)
    | none => (s.byte (poolKey t off), s.poisoned (poolKey t off) || (s.core t).lost, false)

/-- An out-of-range event leaves for the supervisor core; a core's own events leave in its issue order, and in which order those of
different cores arrive is free (R14; log 107). -/
def State.oob (s : State) (c va : Nat) : State :=
  match (s.core c).ctx with
  | none => s
  | some k => s.modCtx k (fun x => { x with oobs := x.oobs ++ [(c, va % 2 ^ 23)] })

/-- The owners of pool bytes, each once, in order. -/
def owners (bs : List (Nat × Nat × Byte)) : List Nat := (bs.map (fun e => keyCore e.2.1)).eraseDups

/-- The port accepts a store that stands at place `id` among its core's entries: one staged write at each owner (R227). -/
def State.acceptAt (s : State) (c act id : Nat) (bs : List (Nat × Nat × Byte)) : State :=
  (owners bs).foldl (fun t o => t.modCore o (fun co => { co with
    stage := co.stage ++ [{ core := c, act := act, id := id,
                            bytes := bs.filter (fun e => decide (keyCore e.2.1 = o)) }] })) s

/-- The port accepts a store at its issue (R227). -/
def State.accept (s : State) (c act : Nat) (bs : List (Nat × Nat × Byte)) : State := s.acceptAt c act (s.core c).nextEntry bs

/-- The key of slot unit `k` of core `c` (R12). -/
def State.slotUnit (s : State) (c k : Nat) : Nat :=
  poolKey c ((partScr (s.core c).part + partA (s.core c).part + k) * 4096)
/-- The key of journal entry `j` in slot unit `k` (R12). -/
def State.journalKey (s : State) (c k j : Nat) : Nat := s.slotUnit c k + 2576 + 16 * j
/-- Whether a word of the checkpoint in slot unit `k` is poisoned (R12, R311). -/
def State.ckptBad (s : State) (c k : Nat) : Bool :=
  s.poison.any (fun e => decide (s.slotUnit c k + 1280 ≤ e.1) && decide (e.1 < s.slotUnit c k + 2576))
/-- Writing the checkpoint clears what was poisoned there. -/
def State.clearCkpt (s : State) (c k : Nat) : State :=
  { s with poison := s.poison.filter (fun e =>
      !(decide (s.slotUnit c k + 1280 ≤ e.1) && decide (e.1 < s.slotUnit c k + 2576))) }

/-- The words that bytes touch, each once, in order. -/
def wordsOf (bs : List (Nat × Nat × Byte)) : List Nat := (bs.map (fun e => e.2.1 / 8 * 8)).eraseDups

/-- The journal entries that a store needs: words not yet journalled in the span, with their old value and poison as the
port's write order gives them (R125). -/
def State.newJournal (s : State) (j : List Journal) (bs : List (Nat × Nat × Byte)) : List Journal :=
  ((wordsOf bs).filter (fun w => !j.any (fun e => decide (e.key = w)))).map (fun w =>
    let p := s.bankFlush (keyCore w)
    { key := w, old := p.word w, poison := p.poisoned w })

end Sys2Proof.Machine
end

