-- ==== Sys2Proof/Machine/Report.lean ====
section
/-! DEFINITION. What the device reports: error rings and their records (16_recovery R315, Table 16.5), the health word
(Table 16.8), completions and events for the host (17_host_fabric R324, Table 17.5). -/

namespace Sys2Proof.Machine

/-! ## Error rings (R315) -/

/-- An error record (Table 16.5), but for LOST, COUNT and TIME, which its ring and the clock give. -/
structure ErrRec where
  level : Nat
  kind : Nat := 0
  cause : Nat := 0
  saddr : Word := 0
  vaddr : Word := 0
  unit : Nat := 0
  die : Nat := 0
  idx : Nat := 0
  cpc : Word := 0
  cmsg : Word := 0
  deriving DecidableEq, Repr

/-- The unit of a record, as `Ring.corrected` numbers units. -/
def ErrRec.key (e : ErrRec) : Nat := e.unit * 65536 + e.die % 8 * 8192 + e.idx % 8192

/-- The words of a record (Table 16.5); the syndrome and the bit are free values. -/
def ErrRec.words (e : ErrRec) (lost count : Nat) (syn time : Word) : List Word :=
  [w64 (e.level * 2 ^ 56 + e.kind * 2 ^ 52 + e.cause * 2 ^ 32 + min lost 65535 * 2 ^ 16 + min count 65535),
   e.saddr, e.vaddr, w64 (e.unit * 2 ^ 16 + e.die % 8 * 2 ^ 13 + e.idx % 8192), syn &&& 0x7FFFF, time, e.cpc, e.cmsg]

/-- A corrected error counts at its unit. -/
def Ring.count (r : Ring) (key : Nat) : Ring := { r with corrected := Sparse.modify 0 r.corrected key (· + 1) }

/-- A record enters a ring of 256; a full ring only counts it as lost (R315). -/
def Ring.push (r : Ring) (e : ErrRec) (syn time : Word) : Ring :=
  if 256 ≤ r.recs.length then { r with lost := r.lost + 1 }
  else
    { recs := r.recs ++ [e.words r.lost (Sparse.get 0 r.corrected e.key) syn time], lost := 0
      corrected := Sparse.set 0 r.corrected e.key 0 }

/-- Applies `f` to the ring of a level: a context's, or with `none` the device's. -/
def State.modRing (s : State) (k : Option Nat) (level : Nat) (f : Ring → Ring) : State :=
  match k with
  | some k => s.modCtx k (fun x => { x with rings := Sparse.modify {} x.rings level f })
  | none => s.modMgmt (fun m => { m with rings := Sparse.modify {} m.rings level f })

/-- Counts an error of a level on its die (Table 16.9 words 6 to 11). -/
def State.countDie (s : State) (die level : Nat) (bad : Bool) : State :=
  s.modDie die (fun x => if bad then { x with unfixed := Sparse.modify 0 x.unfixed level (· + 1) }
    else { x with fixed := Sparse.modify 0 x.fixed level (· + 1) })

/-- A corrected error: it counts, and a repeat in one sweep interval also writes a record of KIND 0 (R315). -/
def State.errFixed (s : State) (k : Option Nat) (e : ErrRec) (again : Bool) : State :=
  (s.countDie e.die e.level false).modRing k e.level (fun r =>
    let r1 := r.count e.key
    if again then r1.push e (Config.eccInfo s.tick) (w64 s.cycle) else r1)

/-- An uncorrectable error writes a record (R315). -/
def State.errBad (s : State) (k : Option Nat) (e : ErrRec) : State :=
  (s.countDie e.die e.level true).modRing k e.level (fun r => r.push e (Config.eccInfo s.tick) (w64 s.cycle))

/-- CMSG of a record: the consuming activation's first held message and core (Table 16.5). -/
def State.consumer (s : State) (c k : Nat) : Word :=
  (((s.slot c k).bind (fun sl => sl.held.head?)).map (fun m => w64 (m.mid.toNat + m.chan.toNat * 2 ^ 16 + c * 2 ^ 22))).getD 0

/-- A record of what an access or a scrub found uncorrectable: KIND, and of an access its address, its PC and its message
(Table 16.5). -/
def ErrRec.seenBy (e : ErrRec) (s : State) : Option (Nat × Nat × Nat) → ErrRec
  | none => { e with kind := 2 }
  | some (c, k, va) =>
    { e with kind := 1, vaddr := w64 va, cpc := ((s.slot c k).map (fun sl => sl.pc.setWidth 64)).getD 0, cmsg := s.consumer c k }

/-- The context that owns an HBM address (R315). -/
def State.hbmOwner (s : State) (pa : Nat) : Option Nat :=
  (List.range 64).find? (fun k => s.ctxValid k && decide (s.phLo k ≤ pa) && decide (pa < s.phHi k))
/-- The context whose core set holds a core (R315). -/
def State.coreOwner (s : State) (c : Nat) : Option Nat := (s.core c).ctx
/-- The context whose core set holds the cores of a cluster (R285, R315). -/
def State.clusterOwner (s : State) (cl : Nat) : Option Nat :=
  (List.range 64).find? (fun k => (s.ctx k).live && (s.ctx k).clusters.contains cl)

/-! ## The health word (Table 16.8) -/

/-- RR. -/
def hRR : BitVec 8 := 0x01
/-- SPR. -/
def hSPR : BitVec 8 := 0x02
/-- CLS. -/
def hCLS : BitVec 8 := 0x04
/-- WLR. -/
def hWLR : BitVec 8 := 0x08
/-- LKD. -/
def hLKD : BitVec 8 := 0x10
/-- PSN. -/
def hPSN : BitVec 8 := 0x20
/-- PRM. -/
def hPRM : BitVec 8 := 0x40
/-- IDX. -/
def hIDX : BitVec 8 := 0x80

/-- Sets bits of the health word; they stay set until reset (R319). -/
def State.health (s : State) (b : BitVec 8) : State := s.modMgmt (fun m => { m with health := m.health ||| b })

/-! ## Completions and events (R324) -/

/-- The memory key of a host address (Table 17.1). -/
def hostKey (addr : Nat) : Nat := 0x010000000000 + addr
/-- Whether `n` bytes from a host address are host memory (Table 17.1). -/
def hostOk (addr n : Nat) : Bool := decide (addr + n ≤ 0x7F0000000000)

/-- Whether the completion ring has room (R324; log 27: head and tail count up, an entry's place is its number modulo CQN). -/
def Mgmt.room (m : Mgmt) : Bool := decide ((m.rqt - m.rqh).toNat < m.cqn.toNat)

/-- Writes one entry at a host address; an address that is no host memory takes nothing (Table 17.1; log 27). -/
def State.hostPut (s : State) (addr : Nat) (e : Word × Word) : State :=
  if hostOk addr 16 then (s.setWord (hostKey addr) e.1).setWord (hostKey addr + 8) e.2 else s

/-- The interrupt of an entry: MSI-X vector 1 for an event, whose TAG is all ones, vector 0 for a completion (R321, R324). -/
def Mgmt.interrupt (m : Mgmt) (e : Word × Word) : Mgmt :=
  { m with msi := if e.1.setWidth 32 = 0xFFFFFFFF#32 then (m.msi.1, m.msi.2 + 1) else (m.msi.1 + 1, m.msi.2) }

/-- Writes entries that the device holds back, while the completion ring has room (R324). -/
def State.drainBack (s : State) : List (Word × Word) → State
  | [] => s.modMgmt (fun m => { m with back := [] })
  | e :: es =>
    if s.mgmt.room then
      ((s.hostPut (s.mgmt.rqb.toNat + 16 * (s.mgmt.rqt.toNat % s.mgmt.cqn.toNat)) e).modMgmt (fun m =>
        { m with rqt := m.rqt + 1 }.interrupt e)).drainBack es
    else s.modMgmt (fun m => { m with back := e :: es })

/-- Writes what is held back as far as there is room. -/
def State.drain (s : State) : State := s.drainBack s.mgmt.back

/-- An entry for the completion ring, behind those held back (R324). -/
def State.entry (s : State) (w0 w1 : Word) : State := s.drainBack (s.mgmt.back ++ [(w0, w1)])

/-- An event entry (R324, Table 17.5). -/
def State.hostEvent (s : State) (code : Nat) (info : Word) : State := s.entry (w64 (code % 65536 * 2 ^ 48 + 0xFFFFFFFF)) info

/-- A device event that asks for a replacement: RR, and an event whose code Table 17.5 does not list (R319; log 28). -/
def State.replaceEvent (s : State) : State :=
  (s.health hRR).hostEvent (Config.eventCode s.tick).toNat (Config.eventInfo s.tick)

end Sys2Proof.Machine
end

