-- ==== Sys2Proof/Machine/Aes.lean ====
section
/-! DEFINITION. AES-256-GCM, which protects fabric cells (15_isolation R302). The spec names the function and does not write it
out: this is the one of FIPS 197 and NIST SP 800-38D (PRESUMED; log 115). Bytes are numbers below 256 in lists, a block of AES
is 16 of them, column by column. -/

namespace Sys2Proof.Machine

/-! ## The field GF(2^8) -/

/-- A byte times x, modulo x^8 + x^4 + x^3 + x + 1. -/
def aesDouble (a : Nat) : Nat := if a < 128 then 2 * a else (2 * a) ^^^ 0x11B

/-- `a` times the low `n` bits of `b`. -/
def aesMulBits : Nat → Nat → Nat → Nat
  | 0, _, _ => 0
  | n + 1, a, b => (if b % 2 = 1 then a else 0) ^^^ aesMulBits n (aesDouble a) (b / 2)

/-- The product of two bytes. -/
def aesMul (a b : Nat) : Nat := aesMulBits 8 a b

/-- `a` to the power 2 + 4 + … + 2^n, with `s` the square so far. -/
def aesPowers : Nat → Nat → Nat
  | 0, _ => 1
  | n + 1, s => let q := aesMul s s; aesMul q (aesPowers n q)

/-- The substitution of a byte: its inverse, which is its power 254, through the affine map. -/
def aesSub (a : Nat) : Nat :=
  let b := aesPowers 7 a
  let r := b * 257
  (b ^^^ r / 16 % 256 ^^^ r / 32 % 256 ^^^ r / 64 % 256 ^^^ r / 128 % 256) ^^^ 0x63

/-! ## The cipher -/

/-- Two lists of bytes added. -/
def xorAll (a b : List Nat) : List Nat := List.zipWith (· ^^^ ·) a b

/-- The next words of the key schedule: `n` more words behind `ws`, the newest first; the first of them has number `i`, and `rc`
is the next round constant. -/
def keyWords : Nat → Nat → Nat → List (List Nat) → List (List Nat)
  | 0, _, _, ws => ws
  | n + 1, i, rc, ws =>
    let prev := ws.headD []
    let old := ws.getD 7 []
    if i % 8 = 0 then
      let t := (prev.drop 1 ++ prev.take 1).map aesSub
      keyWords n (i + 1) (aesDouble rc) (xorAll old (xorAll t [rc, 0, 0, 0]) :: ws)
    else if i % 8 = 4 then keyWords n (i + 1) rc (xorAll old (prev.map aesSub) :: ws)
    else keyWords n (i + 1) rc (xorAll old prev :: ws)

/-- Round `r` of a key schedule of 60 words. -/
def roundKey (ws : List (List Nat)) (r : Nat) : List Nat := ((ws.drop (4 * r)).take 4).flatten

/-- The 60 words that a key of 32 bytes expands to. -/
def keySchedule (key : List Nat) : List (List Nat) :=
  (keyWords 52 8 1 ((List.range 8).map (fun i => (key.drop (4 * i)).take 4)).reverse).reverse

/-- Row `r` of a block turns left by `r`. -/
def shiftRows (b : List Nat) : List Nat := (List.range 16).map (fun i => b.getD ((i + 4 * (i % 4)) % 16) 0)

/-- Each column times the polynomial 3x^3 + x^2 + x + 2. -/
def mixColumns (b : List Nat) : List Nat :=
  (List.range 16).map (fun i =>
    let at' (k : Nat) : Nat := b.getD (i / 4 * 4 + (i + k) % 4) 0
    aesDouble (at' 0) ^^^ (aesDouble (at' 1) ^^^ at' 1) ^^^ at' 2 ^^^ at' 3)

/-- A block encrypted under a key schedule: 14 rounds. -/
def aesBlock (ws : List (List Nat)) (b : List Nat) : List Nat :=
  let mid := (List.range 13).foldl (fun x r => xorAll (mixColumns (shiftRows (x.map aesSub))) (roundKey ws (r + 1)))
    (xorAll b (roundKey ws 0))
  xorAll (shiftRows (mid.map aesSub)) (roundKey ws 14)

/-! ## Galois counter mode -/

/-- A number as `n` bytes, highest first. -/
def beBytes (n v : Nat) : List Nat := (List.range n).map (fun i => v / 256 ^ (n - 1 - i) % 256)
/-- The number that bytes hold, highest first. -/
def beNat (bs : List Nat) : Nat := bs.foldl (fun v b => v * 256 + b) 0

/-- The product in GF(2^128), whose first bit is the coefficient of 1: the low `n` bits of `x` are still to come, highest first. -/
def ghashMul : Nat → Nat → Nat → Nat
  | 0, _, _ => 0
  | n + 1, x, v => (if x.testBit n then v else 0) ^^^ ghashMul n x (if v % 2 = 1 then (v / 2) ^^^ (0xE1 * 2 ^ 120) else v / 2)

/-- GHASH of `n` blocks. -/
def ghash (h : Nat) : Nat → List Nat → Nat → Nat
  | 0, _, y => y
  | n + 1, bs, y => ghash h n (bs.drop 16) (ghashMul 128 (y ^^^ beNat (bs.take 16)) h)

/-- The counter block of a nonce of 12 bytes. -/
def counterBlock (nonce : List Nat) (n : Nat) : List Nat := nonce ++ beBytes 4 n

/-- `n` blocks of key stream. -/
def gcmStream (key nonce : List Nat) (n : Nat) : List Nat :=
  let ws := keySchedule key
  (List.range n).flatMap (fun i => aesBlock ws (counterBlock nonce (i + 2)))

/-- The 16 bytes of the tag over authenticated and encrypted bytes, whole blocks of each. -/
def gcmTag (key nonce auth enc : List Nat) : List Nat :=
  let ws := keySchedule key
  let h := beNat (aesBlock ws (List.replicate 16 0))
  let all := auth ++ enc ++ beBytes 8 (8 * auth.length) ++ beBytes 8 (8 * enc.length)
  xorAll (beBytes 16 (ghash h (all.length / 16) all 0)) (aesBlock ws (counterBlock nonce 1))

end Sys2Proof.Machine
end

