-- ==== Sys2Proof/Machine/Keccak.lean ====
section
/-! DEFINITION. SHAKE256, which measures firmware (15_isolation R305) and derives link keys (R302). The spec names the function
and does not write it out: this is the one of FIPS 202 (PRESUMED; log 114). -/

namespace Sys2Proof.Machine

/-- A state of Keccak: 25 lanes, lane (x, y) at place x + 5y. -/
abbrev Lanes25 := List (BitVec 64)

/-- A lane. -/
def kLane (a : Lanes25) (x y : Nat) : BitVec 64 := a.getD (x % 5 + 5 * (y % 5)) 0

/-- The 25 lanes that a function gives. -/
def lanesBy (f : Nat → Nat → BitVec 64) : Lanes25 := (List.range 25).map (fun i => f (i % 5) (i / 5))

/-- A polynomial over GF(2) of degree below 8 times x, modulo x^8 + x^6 + x^5 + x^4 + 1. -/
def timesX (r : Nat) : Nat := if r < 128 then 2 * r else (2 * r) ^^^ 0x171

/-- The constant terms of `n` successive powers of x, from `r` on: the bits that ι takes. -/
def powerBits : Nat → Nat → List Bool
  | 0, _ => []
  | n + 1, r => r.testBit 0 :: powerBits n (timesX r)

/-- The constants of ι: of round `i`, bit 2^j - 1 is the constant term of x^(7i + j). -/
def iotas : List (BitVec 64) :=
  let bs := powerBits 168 1
  (List.range 24).map (fun i => w64 ((List.range 7).map (fun j => if bs.getD (7 * i + j) false then 2 ^ (2 ^ j - 1) else 0)).sum)

/-- θ. -/
def theta (a : Lanes25) : Lanes25 :=
  let c := (List.range 5).map (fun x => kLane a x 0 ^^^ kLane a x 1 ^^^ kLane a x 2 ^^^ kLane a x 3 ^^^ kLane a x 4)
  lanesBy (fun x y => kLane a x y ^^^ c.getD ((x + 4) % 5) 0 ^^^ (c.getD ((x + 1) % 5) 0).rotateLeft 1)

/-- ρ and π on the lanes that the walk (x, y) → (y, 2x + 3y) meets from step `t` on: the lane met at step t is turned by
(t + 1)(t + 2) / 2 and moves to the place of the next. -/
def turned (a : Lanes25) : Nat → Nat → Nat → Nat → Lanes25 → Lanes25
  | 0, _, _, _, b => b
  | n + 1, t, x, y, b =>
    let z := (2 * x + 3 * y) % 5
    turned a n (t + 1) y z (b.set (y + 5 * z) ((kLane a x y).rotateLeft ((t + 1) * (t + 2) / 2 % 64)))

/-- ρ and π. -/
def rhoPi (a : Lanes25) : Lanes25 := turned a 24 0 1 0 a

/-- χ. -/
def chi (a : Lanes25) : Lanes25 := lanesBy (fun x y => kLane a x y ^^^ (~~~kLane a (x + 1) y &&& kLane a (x + 2) y))

/-- One round. -/
def keccakRound (a : Lanes25) (rc : BitVec 64) : Lanes25 :=
  let b := chi (rhoPi (theta a))
  b.set 0 (b.getD 0 0 ^^^ rc)

/-- Keccak-f[1600]. -/
def keccakF (a : Lanes25) : Lanes25 := iotas.foldl keccakRound a

/-- A block of 136 bytes as 17 lanes. -/
def blockLanes (bs : List Byte) : Lanes25 := (List.range 17).map (fun i => w64 (leNat ((bs.drop (8 * i)).take 8)))

/-- The message with its padding for a rate of 136 bytes. -/
def shakePad (bs : List Byte) : List Byte :=
  let n := 136 - bs.length % 136
  bs ++ (if n = 1 then [0x9F] else 0x1F :: List.replicate (n - 2) 0 ++ [0x80])

/-- Absorbs `n` blocks. -/
def absorb : Nat → List Byte → Lanes25 → Lanes25
  | 0, _, a => a
  | n + 1, bs, a =>
    let b := blockLanes bs
    absorb n (bs.drop 136) (keccakF (a.zipIdx.map (fun l => l.1 ^^^ b.getD l.2 0)))

/-- SHAKE256 of a message, 64 bytes. -/
def shakeBytes (bs : List Byte) : List Byte :=
  let p := shakePad bs
  (((absorb (p.length / 136) p (List.replicate 25 0)).take 8).flatMap (fun l => leBytes 8 l.toNat))

/-- SHAKE256 with 512 bits of output. -/
def shake256 (bs : List Byte) : BitVec 512 := BitVec.ofNat 512 (leNat (shakeBytes bs))

end Sys2Proof.Machine
end

