-- ==== Sys2Proof/Machine/Wire.lean ====
section
/-! DEFINITION. What goes over a fabric link (17_host_fabric R327; 15_isolation R302): keys, nonces, the 128 bytes of a cell and
the check values of control flits. The CRCs and the GMAC of a flit are uninterpreted (log 115). -/

namespace Sys2Proof.Machine

/-! ## Keys (Table 15.6) -/

/-- The key of a link direction for a generation; `tx` says that this device transmits on it. -/
def linkKey (link : Nat) (tx : Bool) (gen : Nat) : BitVec 256 :=
  BitVec.ofNat 256 (leNat ((shakeBytes (Config.sharedSecret link tx gen ++ leBytes 4 (Config.dirId link tx).toNat ++
    Config.genBytes gen)).take 32))

/-- The nonce of a cell: the link-direction id and the transmit count. -/
def linkNonce (link : Nat) (tx : Bool) (txc : Nat) : BitVec 96 := Config.dirId link tx ++ BitVec.ofNat 64 txc

/-- The transmit count whose low 16 bits a cell brings: the first from the expected one on (Table 15.6). -/
def fullTxc (exp low : Nat) : Nat := exp + (low + 65536 - exp % 65536) % 65536

/-! ## Cells (R327) -/

/-- Exactly `n` bytes of a list, zeros after its own. -/
def padTo (n : Nat) (bs : List Byte) : List Byte := (bs ++ List.replicate n 0).take n

/-- Word 0 of a cell's header (Table 17.6). -/
def cellWord0 (c : Cell) : Word :=
  w64 (c.ddev.toNat * 2 ^ 49 + c.sdev.toNat * 2 ^ 34 + c.ctx.toNat * 2 ^ 28 + c.vc.toNat * 2 ^ 26 + c.kg.toNat * 2 ^ 25 +
    c.kind.toNat * 2 ^ 21 + min 96 c.body.length * 2 ^ 14 + c.hops.toNat * 2 ^ 12)
/-- Word 1 of a cell's header (Table 17.6). -/
def cellWord1 (c : Cell) : Word := w64 (c.eseq.toNat * 2 ^ 32 + c.txc.toNat * 2 ^ 16 + c.lseq.toNat * 2 ^ 4)
/-- Beat 0 of a cell. -/
def cellHead (c : Cell) : List Byte := leBytes 8 (cellWord0 c).toNat ++ leBytes 8 (cellWord1 c).toNat

/-- A key as the bytes that its derivation gives, in their order. -/
def keyBytes (key : BitVec 256) : List Nat := (leBytes 32 key.toNat).map BitVec.toNat
/-- A nonce as bytes, bit 95 first (log 115). -/
def nonceBytes (nonce : BitVec 96) : List Nat := beBytes 12 nonce.toNat

/-- Encrypts or decrypts the six payload beats: what the key stream is added to, bit by bit. -/
def cipher (key : BitVec 256) (nonce : BitVec 96) (bs : List Byte) : List Byte :=
  let ks := gcmStream (keyBytes key) (nonceBytes nonce) 6
  bs.zipIdx.map (fun b => b.1 ^^^ BitVec.ofNat 8 (ks.getD b.2 0))

/-- The 96-bit tag over header and encrypted payload. -/
def cellTag (key : BitVec 256) (nonce : BitVec 96) (head payload : List Byte) : List Byte :=
  padTo 12 ((gcmTag (keyBytes key) (nonceBytes nonce) (head.map BitVec.toNat) (payload.map BitVec.toNat)).map (BitVec.ofNat 8))

/-- Beat 7 of a cell: the tag over header and encrypted payload, and the CRC-32 over bytes 0 to 123. -/
def cellTail (key : BitVec 256) (nonce : BitVec 96) (head payload : List Byte) : List Byte :=
  let tag := cellTag key nonce head payload
  tag ++ leBytes 4 (Config.crc32 (head ++ payload ++ tag)).toNat

/-- The 128 bytes of a cell. -/
def cellBytes (key : BitVec 256) (nonce : BitVec 96) (c : Cell) : List Byte :=
  let payload := cipher key nonce (padTo 96 c.body)
  cellHead c ++ payload ++ cellTail key nonce (cellHead c) payload

/-- The header that beat 0 holds. -/
def headCell (head : List Byte) : Cell :=
  let w0 := w64 (leNat (head.take 8))
  let w1 := w64 (leNat ((head.drop 8).take 8))
  { ddev := w0.extractLsb' 49 15, sdev := w0.extractLsb' 34 15, ctx := w0.extractLsb' 28 6, vc := w0.extractLsb' 26 2,
    kg := w0.getLsbD 25, kind := w0.extractLsb' 21 4, hops := w0.extractLsb' 12 2, eseq := w1.extractLsb' 32 32,
    txc := w1.extractLsb' 16 16, lseq := w1.extractLsb' 4 12 }
/-- PLEN of a header, 0 to 96. -/
def headLen (head : List Byte) : Nat := min 96 (bits (w64 (leNat (head.take 8))) 14 7)

/-- Whether the CRC-32 of a cell is right. -/
def crcGood (head payload tail : List Byte) : Bool :=
  decide (head.length = 16) && decide (payload.length = 96) && decide (tail.length = 16) &&
  decide (w64 (leNat (tail.drop 12)) = (Config.crc32 (head ++ payload ++ tail.take 12)).setWidth 64)
/-- Whether the tag of a cell is right under a key (R304). -/
def tagGood (key : BitVec 256) (nonce : BitVec 96) (head payload tail : List Byte) : Bool :=
  decide (tail.take 12 = cellTag key nonce head payload)

/-! ## Control flits (R327) -/

/-- The kind of a control flit, its fields, and the value it carries behind them; the kinds are 1 acknowledgement, 2 NAK, 3 credit,
4 limit, 5 restripe, 6 snapshot. -/
def Flit.parts : Flit → Nat × List Nat × Nat
  | .ack n => (1, [], n)
  | .nak n => (2, [], n)
  | .credit v => (3, [], v)
  | .limit v n => (4, [v], n)
  | .restripe m => (5, [], m.toNat)
  | .snapshot held => (6, held, 0)

/-- A control flit as it goes out: with its CRC-16 and its GMAC under the current key. -/
def Flit.made (key : BitVec 256) (f : Flit) : FlitIn :=
  let p := f.parts
  { val := p.2.2, crc := Config.flitCrc (p.1 :: p.2.1 ++ [p.2.2]), mac := Config.flitMac key (p.1 :: p.2.1 ++ [p.2.2]) }

/-- Whether a flit returns a credit (R279). -/
def Flit.isCredit : Flit → Bool
  | .credit _ => true
  | _ => false

/-- Whether a flit announces a limit (R281). -/
def Flit.isLimit : Flit → Bool
  | .limit .. => true
  | _ => false

/-- Whether a control flit of a kind, with its fields, comes with its CRC-16 and its GMAC under the current key. -/
def flitGood (key : BitVec 256) (kind : Nat) (fields : List Nat) (f : FlitIn) : Bool :=
  decide (f.crc = Config.flitCrc (kind :: fields ++ [f.val])) && decide (f.mac = Config.flitMac key (kind :: fields ++ [f.val]))

end Sys2Proof.Machine
end

