-- ==== Sys2Proof/Machine/Cells.lean ====
section
/-! DEFINITION. The sending end of the fabric: apertures (17_host_fabric R322), routes (R328), and the cells that accesses to
peer devices become (R330). -/

namespace Sys2Proof.Machine

/-- The device and virtual address of an aperture address, if its entry is valid (R322). -/
def State.aperture (s : State) (pa : Nat) : Option (Nat × Nat) :=
  let n := pa / 2 ^ 40 % 128
  let w0 := Sparse.get 0 s.mgmt.apert (2 * n)
  let w1 := Sparse.get 0 s.mgmt.apert (2 * n + 1)
  if w0.getLsbD 63 then some (bits w0 0 15, bits w1 40 12 * 2 ^ 40 + pa % 2 ^ 40) else none

/-- The other device that a memory key reaches, if it reaches one. -/
def State.awayDev (s : State) (key : Nat) : Option Nat :=
  if keyIsPool key ∨ paClass key ≠ .peer then none
  else match s.aperture key with
    | some (dev, _) => if dev = s.mgmt.devnum.toNat then none else some dev
    | none => none

/-! ## Where a physical address leads (R322, R289) -/

/-- What a physical address reaches: memory of this module or its host, another device, or a fault reply. -/
inductive Reach where
  | mem (key : Nat)
  | away (dev : Nat)
  | fault (c : Cause)
  deriving DecidableEq, Repr

/-- An access that arrives as a peer's: context `k` at virtual address `va`, needing G too (R289). -/
def State.peerReach (s : State) (k va : Nat) (need : BitVec 8) : Reach :=
  match s.descOf k va with
  | none => .fault .rangeMiss
  | some d => match d.access va (need ||| permG) [] with
    | .ok p => if paClass p = .peer then .fault .rangeMiss else .mem p
    | .fault c => .fault c
    | .miss => .fault .rangeMiss

/-- The keys of the `n` bytes from `va` on as a peer's access reaches them, each granule translated by itself, or the first byte
that it may not reach, with the cause (R289, R295). -/
def State.peerKeys (s : State) (k va : Nat) (need : BitVec 8) : Nat → Except (Nat × Cause) (List Nat)
  | 0 => .ok []
  | n + 1 => match s.peerKeys k va need n with
    | .error e => .error e
    | .ok ks => match s.peerReach k (va + n) need with
      | .mem key => .ok (ks ++ [key])
      | .fault c => .error (va + n, c)
      | .away _ => .error (va + n, .rangeMiss)

/-- Where a physical address leads for context `k`. -/
def State.reach (s : State) (k pa : Nat) (need : BitVec 8) : Reach :=
  if keyIsPool pa ∨ paClass pa ≠ .peer then .mem pa
  else match s.aperture pa with
    | none => .fault .rangeMiss
    | some (dev, va) => if dev ≠ s.mgmt.devnum.toNat then .away dev else s.peerReach k va need

/-! ## What a link receives -/

/-- The key that protects what a link receives now. -/
def State.rxKey (s : State) (link : Nat) : BitVec 256 := linkKey link false (s.link link).rxGen

/-- The receiver asks for a replay from the LSEQ that it expects (R329). -/
def Link.nak (l : Link) : Link := { l with flits := l.flits ++ [.nak l.rxNext] }

/-! ## Routes and cells (R328, R330) -/

/-- The local port of a member of the own group (R328). -/
def State.localPort (s : State) (m : Nat) : Option Nat :=
  let w := Sparse.get 0 s.mgmt.route (1024 + m)
  if w.getLsbD 63 && decide (bits w 0 5 ≤ 30) then some (bits w 0 5) else none

/-- The link that a cell for a device takes: local ports are links 0 to 30, global links 31 to 62 (R328, Table 16.9). -/
def State.routeOf (s : State) (dev : Nat) : Option Nat :=
  if dev / 32 = s.mgmt.devnum.toNat / 32 then s.localPort (dev % 32)
  else
    let w := Sparse.get 0 s.mgmt.route (dev / 32)
    if !w.getLsbD 63 then none
    else if w.getLsbD 62 then s.localPort (bits w 0 5) else some (31 + bits w 0 5)

/-- Whether a cell may take the next ESEQ of its path (R330, R332). -/
def Peer.open_ (p : Peer) : Bool := !p.dead && decide (p.kept.length < 4096) && decide (p.next < 2 ^ 32)

/-- A cell takes its ESEQ and waits to leave; with no valid route it is not sent and counts as abandoned at once (R328,
R330). -/
def State.sendKept (s : State) (dev : Nat) (x : Kept) : State :=
  let c := { x.cell with eseq := BitVec.ofNat 32 (s.peer dev).next }
  let go := (s.routeOf dev).isSome
  let y := { x with cell := c, sends := 0, last := s.cycle, noRoute := !go }
  let s1 := s.modPeer dev (fun p => { p with next := p.next + 1, kept := p.kept ++ [y] })
  if go then s1.modFab (fun f => { f with out := f.out ++ [(63, c)] }) else s1

/-- Cells that wait for their ESEQ take it while they may, oldest first (R330). -/
def State.takeSeqs (s : State) (dev : Nat) : List Kept → State
  | [] => s.modPeer dev (fun p => { p with waiting := [] })
  | x :: xs =>
    if (s.peer dev).open_ then (s.sendKept dev x).takeSeqs dev xs
    else s.modPeer dev (fun p => { p with waiting := x :: xs })

/-- A cell for another device joins those that wait for their ESEQ (R330). -/
def State.sendCell (s : State) (dev : Nat) (x : Kept) : State := s.takeSeqs dev ((s.peer dev).waiting ++ [x])

/-- The request cell of an access of core `c` (KIND 1, VC 0: Tables 14.3, 17.6). Its payload has no stated layout. -/
def State.reqCell (s : State) (c act dev va : Nat) (posted : Bool) : Kept :=
  { cell := { ddev := BitVec.ofNat 15 dev, sdev := s.mgmt.devnum, ctx := BitVec.ofNat 6 (s.coreCtx c), kind := 1,
              body := Config.cellBody s.tick },
    core := c, act := act, va := va, posted := posted }

/-- Whether accesses numbered `id` that core `c` has sent for a job or a load of a core are not yet acknowledged. -/
def State.engOut (s : State) (c id : Nat) : Bool :=
  s.hostOut.any (fun w => decide (w.core = c) && decide (w.act = 0) && decide (w.ent = id)) ||
  s.fab.peers.any (fun p => (p.2.kept ++ p.2.waiting).any (fun x =>
    decide (x.core = c) && decide (x.act = 0) && decide (x.ent = id)))

/-- The reply of this device to a peer's access, with its data or its fault (KIND 2, VC 1: Tables 14.3, 17.6; R289). -/
def State.sendReply (s : State) (p : PeerAccess) (a : PeerAnswer) : State :=
  s.sendCell p.dev.toNat { core := 8192, va := p.va, cell :=
    { ddev := p.dev, sdev := s.mgmt.devnum, ctx := BitVec.ofNat 6 p.ctx, kind := 2, vc := 1, body := Config.replyBody a } }

/-- A cell between the management controllers of two devices (KIND 7, VC 3: Tables 14.3, 17.6). -/
def State.sendMgmt (s : State) (dev : Nat) : State :=
  s.modFab (fun f => { f with out := f.out ++ [(63, { ddev := BitVec.ofNat 15 dev, sdev := s.mgmt.devnum, vc := 3, kind := 7,
                                                       body := Config.mgmtBody s.tick })] })

/-- An acknowledgement of a cell goes to its source (R330, R331). -/
def State.ackTo (s : State) (dev eseq : Nat) : State :=
  let c : Cell := { ddev := BitVec.ofNat 15 dev, sdev := s.mgmt.devnum, vc := Config.ackVc, kind := 4, body := Config.ackBody dev eseq }
  s.modFab (fun f => { f with out := f.out ++ [(63, c)] })

/-- Whether a device's cell of a KIND stands at its performing point (R331). -/
def Peer.holds (p : Peer) (eseq kind : Nat) : Bool := p.handed.contains (eseq, kind)

/-- The cell has been performed: only now is it acknowledged (R331). -/
def State.performed (s : State) (dev eseq kind : Nat) : State :=
  (s.modPeer dev (fun p => { p with handed := p.handed.erase (eseq, kind) })).ackTo dev eseq

/-- The requests of an access that waits for a reply: one to each other device that its keys reach. -/
def State.requests (s : State) (c act va : Nat) (keys : List Nat) : State :=
  (keys.filterMap s.awayDev).eraseDups.foldl (fun t dev => t.sendCell dev (t.reqCell c act dev va false)) s

/-- Whether a posted access of the activation is still to leave the package, at scope `.pkg`, or to be acknowledged end to
end, at scope `.sys` (R331, Table 12.3). -/
def State.cellsOut (s : State) (c act : Nat) (sc : BitVec 3) : Bool :=
  decide (3 ≤ sc.toNat) && s.fab.peers.any (fun p =>
    p.2.waiting.any (fun x => x.posted && decide (x.core = c) && decide (x.act = act)) ||
    p.2.kept.any (fun x => x.posted && decide (x.core = c) && decide (x.act = act) && (decide (4 ≤ sc.toNat) || decide (x.sends = 0))))

end Sys2Proof.Machine
end

