-- ==== Sys2Proof/Machine/Select.lean ====
section
/-! DEFINITION. The inbox, the injection queue's entries, and the selector (02_activations R26 to R30, R37; 14 R269,
R270). `Core.inbox` lists the unbound messages in arrival order, each with the entry it takes. -/

namespace Sys2Proof.Machine

namespace Core

/-- The reply-class messages that activations hold: their inbox entries return when the activation ends (R275), while a
request-class message's entry frees when its channel is bound (R276; log 21). -/
def heldReplies (co : Core) : List Msg :=
  (co.slots.flatMap (fun e => (e.2.map Slot.held).getD [])).filter (fun m => m.cls)
/-- Inbox entries of an area in use. -/
def areaUsed (co : Core) (a : Nat) : Nat := (co.inbox ++ co.heldReplies).countP (fun m => decide (m.area = a))
/-- Prefetch entries in use; one frees when channel 0 binds (R278). -/
def prefetched (co : Core) : Nat := co.inbox.countP (fun m => decide (m.area = 3))
/-- The area an arriving message takes, if there is room (R26). -/
def roomFor (co : Core) (cls : Bool) : Option Nat :=
  if cls then (if co.areaUsed 1 < 8 then some 1 else if co.areaUsed 0 < 56 then some 0 else none)
  else if co.areaUsed 0 < 56 then some 0 else if co.areaUsed 2 < 40 then some 2 else none
/-- Whether the core withholds the credits of a network: no entry is free to its messages (R26, R276). -/
def withholds (co : Core) (cls : Bool) : Bool := (co.roomFor cls).isNone

/-- The first `n` overflow messages of a list take entries of 0 to 55. -/
def fillFrom : Nat → List Msg → List Msg
  | 0, ms => ms
  | _, [] => []
  | n + 1, m :: ms => if m.area = 2 then { m with area := 0 } :: fillFrom n ms else m :: fillFrom (n + 1) ms

/-- The oldest overflow messages take freed entries of 0 to 55 (R26). -/
def refill (co : Core) : Core := { co with inbox := fillFrom (56 - co.areaUsed 0) co.inbox }

/-- The unbound messages of channel `ch` (R27). -/
def chanMsgs (co : Core) (ch : Nat) : List Msg := co.inbox.filter (fun m => decide (m.chan.toNat = ch))
/-- The handler entry of channel `ch`. -/
def entryOf (co : Core) (ch : Nat) : Hte := Sparse.get 0 co.hte ch

/-- Injection entries in use (R27). -/
def injUsed (co : Core) : Nat := (co.inj.map Inj.width).sum
/-- Injection entries that an activation has in use. -/
def injOf (co : Core) (act : Nat) : Nat :=
  ((co.inj.filter (fun e => decide (e.act = act))).map Inj.width).sum
/-- Entries that activations hold in reserve and do not use yet (R28). -/
def injReserved (co : Core) : Nat :=
  (co.slots.map (fun e => match e.2 with | some sl => sl.resv - co.injOf sl.act | none => 0)).sum
/-- Entries held for channels that wait for room (R270). -/
def injRoom (co : Core) : Nat := (co.room.map Prod.snd).sum
/-- Free and unreserved injection entries (R27). -/
def injFree (co : Core) : Nat := 32 - co.injUsed - co.injReserved - co.injRoom
/-- Entries held for channel `ch`. -/
def roomOf (co : Core) (ch : Nat) : Nat := ((co.room.find? (fun e => decide (e.1 = ch))).map Prod.snd).getD 0

/-- The conditions of R27 but for the production bound. -/
def wantsRun (co : Core) (ch : Nat) : Bool :=
  (co.entryOf ch).v && !(co.entryOf ch).msk && decide ((co.entryOf ch).rate ≤ (co.chanMsgs ch).length) &&
  decide (0 < (co.chanMsgs ch).length)
/-- Whether the production bound of a channel is met with `free` free entries, or by those reserved to it (R27, R270). -/
def bndMet (co : Core) (free ch : Nat) : Bool :=
  decide ((co.entryOf ch).bnd ≤ free) || decide ((co.entryOf ch).bnd ≤ co.roomOf ch)

/-- Whether a channel is runnable: b entries are free and unreserved (R27), or all b are reserved to it, which ends its
waiting for room (R270). -/
def runnable (co : Core) (ch : Nat) : Bool :=
  co.wantsRun ch && co.bndMet co.injFree ch

/-- The channels with messages, ascending. -/
def busyChans (co : Core) : List Nat :=
  (List.range 64).filter (fun ch => co.inbox.any (fun m => decide (m.chan.toNat = ch)))
/-- The runnable channels, ascending. -/
def runnables (co : Core) : List Nat := if co.inbox = [] then [] else co.busyChans.filter co.runnable

/-- Gives `n` injection entries that have become free to the channels that wait for room, the longest first; `free` were
free before (R270). -/
def giveRoom (co : Core) (free : Nat) : Nat → List (Nat × Nat) → List (Nat × Nat)
  | _, [] => []
  | n, e :: es =>
    let k := if co.bndMet free e.1 then 0 else min n ((co.entryOf e.1).bnd - e.2)
    (e.1, e.2 + k) :: giveRoom co free (n - k) es

/-- `n` injection entries have become free. The records of the selector follow: a channel that no longer waits for room
gives up what was reserved to it, a channel that has begun to wait joins those that do, and what is free goes to the one
that has waited longest; then since when channels are runnable, and the age counts, which restart when a channel ceases to
be runnable (R29, R270). Of channels that become runnable at one moment the lower number counts as runnable longer, which
the spec leaves open (log 117). -/
def freeEntries (co : Core) (n : Nat) : Core :=
  if co.inbox = [] then { co with order := [], ages := [], room := [] } else
    let want := co.busyChans.filter co.wantsRun
    let kept := co.room.filter (fun e => want.contains e.1)
    let c1 := { co with room := kept }
    let freed := n + (co.injRoom - c1.injRoom)
    let free := c1.injFree - freed
    let new := want.filter (fun ch => !c1.bndMet free ch && !kept.any (fun e => decide (e.1 = ch)))
    let c2 := { c1 with room := c1.giveRoom free freed (kept ++ new.map (fun ch => (ch, 0))) }
    let run := want.filter c2.runnable
    { c2 with
      order := co.order.filter run.contains ++ run.filter (fun ch => !co.order.contains ch)
      ages := co.ages.filter (fun e => run.contains e.1) }

/-- Brings the records of the selector up to date when no entry has become free. -/
def settle (co : Core) : Core := co.freeEntries 0

/-- The activations of channel `ch` now bound. -/
def boundOn (co : Core) (ch : Nat) : Nat :=
  co.slots.countP (fun e => match e.2 with | some sl => decide (sl.chan.toNat = ch) | none => false)
/-- Occupied slots. -/
def occupied (co : Core) : Nat := co.slots.countP (fun e => e.2.isSome)
/-- The lowest free slot (R29). -/
def freeSlot (co : Core) : Option Nat :=
  (List.range (partS co.part)).find? (fun k => (Sparse.get none co.slots k).isNone)
/-- Whether a slot is free that no spawn reservation holds (R29, R41). -/
def hasFree (co : Core) : Bool := decide (co.occupied + co.spawns.length < partS co.part)

/-- Whether a channel is aged (R29). -/
def aged (co : Core) (ch : Nat) : Bool := decide (co.selAge.toNat ≤ Sparse.get 0 co.ages ch) && co.runnable ch

/-- LAST[p] (R29). -/
def lastOf (co : Core) (p : Nat) : Nat := Sparse.get 63 co.last p
/-- The channel of a list that first follows LAST[p], wrapping from 63 to 0 (R29). -/
def nextAfter (last : Nat) (chs : List Nat) : Option Nat :=
  match chs.find? (fun ch => decide (last < ch)) with
  | some ch => some ch
  | none => chs.head?

/-- The selector's choice: the channel, and whether it is aged (R29). -/
def select (co : Core) : Option (Nat × Bool) :=
  match co.order.find? co.aged with
  | some ch => some (ch, true)
  | none =>
    let run := co.runnables
    let p := (run.map (fun ch => (co.entryOf ch).pri)).foldl max 0
    (nextAfter (co.lastOf p) (run.filter (fun ch => decide ((co.entryOf ch).pri = p)))).map (fun ch => (ch, false))

/-- Whether a core has failed: 8 `pipe.error` or `reg.ue` aborts within 2^32 cycles (R318). A failed core issues nothing and
binds nothing until it is mapped. -/
def failed (co : Core) : Bool :=
  match co.failTimes.head?, co.failTimes.getLast? with
  | some a, some b => decide (8 ≤ co.failTimes.length) && decide (b < a + 2 ^ 32)
  | _, _ => false

/-- Whether the selector binds and spawn reservations are granted: no pre-emption request is pending, and the record
buffer, which counts as one while it is full, has room (R37, R313). -/
def open_ (co : Core) : Bool := !co.preempt && decide (co.recs.length < 8)

/-- Whether the selector may bind: it is open, a slot is free, and it has bound nothing in this cycle (R29, R37, R313,
R318). -/
def mayBind (co : Core) : Bool := co.ctx.isSome && co.open_ && !co.lost && !co.failed && !co.chose && co.hasFree

/-- One activation of the core has ended: every runnable channel ages (R29). -/
def countEnd (co : Core) : Core :=
  { co with ages := co.order.foldl (fun a ch => Sparse.modify 0 a ch (· + 1)) co.ages }

end Core

/-- Takes the first `n` messages of channel `ch` out of a list: those taken, and the rest. -/
def takeMsgs (ch : Nat) : Nat → List Msg → List Msg × List Msg
  | _, [] => ([], [])
  | n, m :: ms =>
    if n ≠ 0 ∧ m.chan.toNat = ch then
      let r := takeMsgs ch (n - 1) ms
      (m :: r.1, r.2)
    else
      let r := takeMsgs ch n ms
      (r.1, m :: r.2)

/-- The ready cycles after which a slot's issue no longer stays out: with at most 8 slots on a port, each then issues within
the 64 cycles of R31 (log 99). -/
def lateIssue : Nat := 56

/-- The start of an activation: its slot as binding leaves it (R30, R36, R38). It issues 6 cycles after binding; a port
that is free then takes it (R30, Table 14.1). -/
def freshSlot (act : Nat) (ch : BitVec 6) (pc : Pc) (args : List Word) (cnt : Word) (h : Hte) : Slot :=
  { act := act, chan := ch, pc := pc, entry := some pc, sig := pc.setWidth 24, cnt := cnt,
    x := (List.range 4).foldl (fun x i => Sparse.set 0 x (i + 1) (args.getD i 0)) [],
    budget := if h.bud = 0 then none else some (h.bud * 256), lead := 6, waited := lateIssue }

/-- Binds channel `ch` of core `c` to its lowest free slot (R28 to R30). A message that a soft error has made
uncorrectable is discarded instead, with a `msg.ue` record (R308). -/
def State.bindChan (s : State) (c ch : Nat) (isAged : Bool) : State :=
  let co := s.core c
  let h := co.entryOf ch
  let tk := takeMsgs ch (max 1 h.rate) co.inbox
  match tk.1.find? Msg.bad with
  | some m =>
    (s.record c { cause := .msgUe, kind := 4, info := msgHeader m, who := msgWho m }).modCore c (fun co =>
      ({ co with inbox := co.inbox.erase m }).refill.settle)
  | none =>
    match co.freeSlot, tk.1 with
    | some k, m :: _ =>
      let w (i : Nat) : Word := m.body.getD i 0
      let isTask := decide (ch = 0) && m.task
      let pc0 : Pc := if isTask then (w 0).setWidth 32 else h.epc
      let res := co.resume.find? (fun e => decide (e.1 = ch))
      let pc := (res.map (fun e => e.2.setWidth 32)).getD pc0
      let fresh := freshSlot co.nextAct (BitVec.ofNat 6 ch) pc (if isTask then [w 1, w 2, w 3, w 4] else [])
        (if isTask then w 5 else 0) h
      let sl := { fresh with held := tk.1, resv := h.bnd, fresh := s.tick, task := if isTask && res.isNone then some (w 0) else none }
      let last := if isAged then co.last else Sparse.set 63 co.last h.pri ch
      let c1 := Core.refill { co with
        chose := true, inbox := tk.2, nextAct := co.nextAct + 1, last := last, slots := Sparse.set none co.slots k (some sl),
        room := co.room.filter (fun e => decide (e.1 ≠ ch)), order := co.order.filter (fun x => decide (x ≠ ch)),
        ages := Sparse.set 0 co.ages ch 0, resume := co.resume.filter (fun e => decide (e.1 ≠ ch)) }
      s.modCore c (fun _ => c1.freeEntries (co.roomOf ch - h.bnd))
    | _, _ => s

/-- An activation ends: its slot is free, its reserved entries are free, the runnable channels age, a freed inbox entry
takes the oldest overflow message (R26, R28, R29). -/
def State.endActivation (s : State) (c k : Nat) : State :=
  match s.slot c k with
  | none => s
  | some sl =>
    s.modCore c (fun co =>
      let freed := sl.resv - co.injOf sl.act
      (({ co with slots := Sparse.set none co.slots k none, used := if k ∈ co.used then co.used else co.used ++ [k] }).countEnd.refill).freeEntries freed)

/-- An activation ends and its held messages go back to the head of their channel in their original order (R33). They keep
their areas, though other messages may have taken the entries that their binding freed (log 118). -/
def State.returnMsgs (s : State) (c k : Nat) (held : List Msg) : State :=
  let s1 := (s.modSlot c k (fun sl => { sl with held := [] })).modCore c (fun co => { co with inbox := held ++ co.inbox })
  s1.endActivation c k

/-- Sets or clears MSK of a channel (R150, R203). -/
def State.setMask (s : State) (c ch : Nat) (b : Bool) : State :=
  s.modCore c (fun co => ({ co with hte := Sparse.modify 0 co.hte ch (fun h => Hte.setMsk h b) }).settle)

end Sys2Proof.Machine
end

