-- ==== Sys2Proof/Machine/Order.lean ====
section
/-! DEFINITION. The order in which released entries are performed (07_isa_memory_sync R126, R130, R136; 12 R237 and
Table 12.3; 02 R34): which earlier accesses an entry, a marker, a message or an atomic waits for. -/

namespace Sys2Proof.Machine

/-- Whether an outstanding result is a memory access (R123, R136). -/
def LoadOp.isAccess : LoadOp → Bool
  | .cwait .. | .spawn .. | .csr _ | .pstat _ | .probe _ | .maxbar .. => false
  | _ => true

/-- The first memory key that a store-buffer entry writes. -/
def SOp.key? : SOp → Option Nat
  | .store ((_, key, _) :: _) => some key
  | .posted _ key .. => some key
  | .region r => some r.key
  | _ => none

/-- The counter an entry writes. -/
def SOp.counter? : SOp → Option Nat
  | .cadd h _ => some h
  | .cerr h _ => some h
  | .cinit h .. => some h
  | _ => none

/-- Whether an entry is a directory update: these go to one place, range walker 0 (R191). -/
def SOp.isDir : SOp → Bool
  | .dir .. => true
  | _ => false

/-- Whether two entries write one line or one counter, or both go to range walker 0; such entries take one path and are
performed in entry order (R126, R191, R236). -/
def SOp.sameTarget (a b : SOp) : Bool :=
  (a.isDir && b.isDir) ||
  (match a.key?, b.key? with | some x, some y => decide (x / 128 = y / 128) | _, _ => false) ||
  (match a.counter?, b.counter? with | some x, some y => decide (x = y) | _, _ => false)

/-- The host link that carries the traffic of a physical address (R323). -/
def hostLink (pa : Nat) : Nat := pa / 4096 % 2

/-- The outbound queues that a store of core `c` to a key passes, in order (R18, R240): those of the Saddles on its die path as
(die, next die); for peer and host memory that of its own die, as (die, 8), since the spec places no port or link on a die
(log 120), and for host memory then that of the link, as (8, link). The queue of a fabric port holds cells (R330). -/
def pathQueues (c key : Nat) : List (Nat × Nat) :=
  if keyIsPool key then []
  else if key < hbmEnd then (diePath (coreDie c) (homeDie key)).zip (diePath (coreDie c) (homeDie key)).tail
  else if paClass key = .peer then [(coreDie c, 8)]
  else [(coreDie c, 8), (8, hostLink key)]

/-- The outbound queues that an entry of core `c` passes. -/
def SOp.queues (op : SOp) (c : Nat) : List (Nat × Nat) :=
  match op.key? with
  | none => []
  | some key => pathQueues c key

/-- Whether an entry that is not yet performed counts as acknowledged at scope `sc`: it has left the issuing die,
or, for host memory at `.pkg`, the package (Table 12.3). -/
def Rel.ackedOnTheWay (r : Rel) (sc : BitVec 3) : Bool :=
  match r.e.op.key? with
  | none => false
  | some key =>
    (decide (sc.toNat ≤ 2) && decide (1 ≤ r.via.length)) ||
    (decide (sc.toNat = 3) && decide (hbmEnd ≤ key) && decide (2 ≤ r.via.length))

/-- Whether a released entry counts as acknowledged at scope `sc` before it is performed (Table 12.3). A marker is no
access. -/
def Rel.acked (r : Rel) (sc : BitVec 3) : Bool := decide (r.e.op = .marker) || r.ackedOnTheWay sc

/-- Whether a pool store of the activation that stands before entry number `id` waits in a write stage of the core's
cluster (R227, R229). -/
def State.staging (s : State) (c act id : Nat) : Bool :=
  (List.range 16).any (fun m => (s.core (memberOf c m)).stage.any (fun e =>
    decide (e.core = c) && decide (e.act = act) && decide (e.id ≤ id)))

/-- Whether an access of the activation among its outstanding results stands before load number `upto`. -/
def State.loadsOut (s : State) (c act upto : Nat) : Bool :=
  (s.core c).slots.any (fun e => match e.2 with
    | some sl => decide (sl.act = act) && sl.loads.any (fun l => l.op.isAccess && decide (l.id < upto))
    | none => false)

/-- Whether the store-buffer entry `id` of core `o` is still on its way: not performed, or gone to another device that has not
acknowledged it end to end (R240, R331). -/
def State.inFlight (s : State) (o id : Nat) : Bool :=
  (s.core o).released.any (fun r => decide (r.e.id = id)) ||
  s.fab.peers.any (fun p => (p.2.kept ++ p.2.waiting).any (fun x => x.posted && decide (x.core = o) && decide (x.ent = id)))

/-- Whether a store in flight that answered a load of the activation is still to be performed (Table 12.3: it counts from
scope `.pkg` on). -/
def State.answeredOut (s : State) (c act : Nat) (sc : BitVec 3) : Bool :=
  decide (3 ≤ sc.toNat) && (s.core c).answered.any (fun a => decide (a.1 = act) && s.inFlight a.2.1 a.2.2)

/-- Whether a write of the activation to host memory is not yet acknowledged at scope `.sys`: no zero-length read has
followed it on its link (R323). -/
def State.hostWrites (s : State) (c act : Nat) (sc : BitVec 3) : Bool :=
  decide (4 ≤ sc.toNat) && s.hostOut.any (fun w => decide (w.core = c) && decide (w.act = act))

/-- Whether an index request is that. -/
def InjOp.isIndex : InjOp → Bool
  | .index .. => true
  | _ => false

/-- Whether an index request that the activation has issued before entry number `id` and load number `upto`, and released, has
not arrived at its engine: a release orders the requests before it ahead of those that an acquire of it lets go (R265). -/
def State.requestsOut (s : State) (c act id upto : Nat) : Bool :=
  (s.core c).inj.any (fun e => decide (e.act = act) && e.released && e.op.isIndex && decide (e.ent ≤ id) && decide (e.upto ≤ upto)) ||
  s.flight.any (fun f => decide (f.src = c) && decide (f.act = act) && f.op.isIndex && decide (f.ent ≤ id) && decide (f.upto ≤ upto))

/-- Whether every access of activation `act` of core `c` that stands before a point counts as acknowledged at scope `sc`,
and its index requests have arrived. The point is given by the released entries before it, its entry number and its load
number. -/
def State.acked (s : State) (c act : Nat) (before : List Rel) (id upto : Nat) (sc : BitVec 3) : Bool :=
  !s.requestsOut c act id upto && before.all (fun r => decide (r.act ≠ act) || r.acked sc) &&
  !s.staging c act id && !s.cellsOut c act sc && !s.hostWrites c act sc && !s.answeredOut c act sc && !s.loadsOut c act upto

/-- Discards what still waits at the core of an activation's release behind entry `id`; what has left stands (R239). -/
def State.dropWaiting (s : State) (c act id : Nat) : State :=
  s.modCore c (fun co =>
    let c1 := { co with
      released := co.released.filter (fun x => !(decide (x.act = act) && decide (id < x.e.id) && x.left.isNone)),
      inj := co.inj.filter (fun e => decide (e.act ≠ act)) }
    c1.freeEntries (c1.injFree - co.injFree))

/-- Whether a fold of the activation is still on its way; a release waits for it (R222). -/
def State.folding (s : State) (c act : Nat) : Bool :=
  match (s.core c).ctx with
  | none => false
  | some k => (s.ctx k).folds.any (fun f => decide (f.core = c) && decide (f.act = act))

/-- Whether the marker at place `n` among the released entries of core `c` is passed (R136, R222). -/
def State.passed (s : State) (c n : Nat) (r : Rel) : Bool :=
  s.acked c r.act ((s.core c).released.take n) r.e.id r.e.upto r.e.sc && !s.folding c r.act

/-- Whether every release marker of the activation among the first `n` released entries of core `c` is passed. -/
def State.markersPassed (s : State) (c act n : Nat) : Bool :=
  (List.range n).all (fun i => match (s.core c).released[i]? with
    | some r => decide (r.act ≠ act) || decide (r.e.op ≠ .marker) || s.passed c i r
    | none => true)

/-- Whether the release marker with number `id` is passed, or is no longer there (R136, R277). -/
def State.markerPassed (s : State) (c id : Nat) : Bool :=
  match (s.core c).released.findIdx? (fun r => decide (r.e.id = id)) with
  | none => true
  | some i => match (s.core c).released[i]? with
    | some r => s.passed c i r && s.markersPassed c r.act i
    | none => true

/-- Whether a message, card or request of the activation that is released still stands in the injection queue: a completion
add follows every send (R39). -/
def State.sendsOut (s : State) (c act : Nat) : Bool := (s.core c).inj.any (fun e => decide (e.act = act) && e.released)

/-! ## Outbound queues (R240) -/

/-- The step at which an entry of core `c` entered an outbound queue, if it has. -/
def Rel.entered (r : Rel) (c : Nat) (q : Nat × Nat) : Option Nat :=
  match (r.e.op.queues c).idxOf? q with
  | none => none
  | some i => (r.left.toList ++ r.via)[i]?

/-- The outbound queue in which an entry of core `c` stands. -/
def Rel.inQueue (r : Rel) (c : Nat) : Option (Nat × Nat) := if r.left.isSome then (r.e.op.queues c)[r.via.length]? else none

/-- Whether entry `x` of core `a` arrived at a queue before entry `r` of core `b`; entries of one core that entered in one step
stand in the order of their numbers. -/
def Rel.aheadIn (x : Rel) (a : Nat) (r : Rel) (b : Nat) (q : Nat × Nat) : Bool :=
  match x.entered a q, r.entered b q with
  | some m, some n => decide (m < n) || (decide (m = n) && decide (x.e.id < r.e.id))
  | some _, none => true
  | none, _ => false

/-- Every released entry with its core. -/
def State.allReleased (s : State) : List (Nat × Rel) := s.cores.flatMap (fun e => e.2.released.map (fun r => (e.1, r)))

/-- Whether a store to the line of entry `r` of core `c` stands before it in an outbound queue that both pass: it is performed
first (R240). -/
def State.queuedBefore (s : State) (c : Nat) (r : Rel) : Bool :=
  (r.e.op.queues c).any (fun q => s.allReleased.any (fun x => x.2.e.op.sameTarget r.e.op && x.2.aheadIn x.1 r c q))

/-- Whether the released entry at place `n` of core `c` may leave the core: the loads before it have their values (R34),
markers before it are passed (R136), and a release waits until all before it counts as acknowledged (R130, R237), the fold
of its span among it (R222), and for a completion add the sends (R39). -/
def State.mayLeave (s : State) (c n : Nat) (r : Rel) : Bool :=
  !s.loadsOut c r.act r.e.upto && s.markersPassed c r.act n &&
  (!r.e.rel || (s.acked c r.act ((s.core c).released.take n) r.e.id r.e.upto r.e.sc && !s.folding c r.act)) &&
  (!r.e.completion || !s.sendsOut c r.act)

/-- Whether the released entry at place `n` of core `c` may be performed: it may leave or has left, and the entries of its
line or counter before it are performed (R126, R236, R240). -/
def State.mayPerform (s : State) (c n : Nat) (r : Rel) : Bool :=
  !((s.core c).released.take n).any (fun b => decide (b.act = r.act) && b.e.op.sameTarget r.e.op) &&
  !s.queuedBefore c r && (r.left.isSome || s.mayLeave c n r)

/-- The entries of an activation before place `n` have left the core when the one there is performed, but for releases, which
order nothing behind them (R126, Table 7.4). -/
def State.leftBefore (s : State) (c n act : Nat) : State :=
  if ((s.core c).released.take n).any (fun b => decide (b.act = act) && b.left.isNone && !b.e.rel) then
    s.modCore c (fun co => { co with released := co.released.zipIdx.map (fun b =>
      if b.2 < n ∧ b.1.act = act ∧ b.1.left = none ∧ b.1.e.rel = false then { b.1 with left := some s.tick } else b.1) })
  else s

/-- The released entry at place `n` of core `c` leaves it, after those of its activation before it, but for releases (R126,
Table 7.4): it is on the mesh, or in the first outbound queue on its way. An entry that stands in such a queue, with none to
its line before it there, goes on to the next, or out of the last (R240). -/
def entryLeaves (c n : Nat) (s : State) : State :=
  match (s.core c).released[n]? with
  | none => s
  | some r =>
    if r.left.isNone && decide (r.e.op ≠ .marker) && s.mayLeave c n r &&
        ((s.core c).released.take n).all (fun b => decide (b.act ≠ r.act) || b.e.rel || decide (b.e.op = .marker) || b.left.isSome) then
      s.modCore c (fun co => { co with released := co.released.set n { r with left := some s.tick } })
    else match r.inQueue c with
      | none => s
      | some q =>
        if s.allReleased.any (fun x => x.2.e.op.sameTarget r.e.op && decide (x.2.inQueue x.1 = some q) && x.2.aheadIn x.1 r c q) then s
        else s.modCore c (fun co => { co with released := co.released.set n { r with via := r.via ++ [s.tick] } })

/-- The released entry at place `n` of core `c`, if it may be performed. -/
def State.performable (s : State) (c n : Nat) : Option Rel :=
  match (s.core c).released[n]? with
  | some r => if s.mayPerform c n r then some r else none
  | none => none

/-- Markers that are passed with nothing of their activation before them leave core `c`. -/
def State.dropMarkers (s : State) (c : Nat) : State :=
  if (s.core c).released.any (fun r => decide (r.e.op = .marker)) then
    let rs := (s.core c).released
    let gone := (List.range rs.length).filter (fun i => match rs[i]? with
      | some r => decide (r.e.op = .marker) && s.passed c i r && !(rs.take i).any (fun b => decide (b.act = r.act))
      | none => false)
    s.modCore c (fun co => { co with released := (co.released.zipIdx.filter (fun e => !gone.contains e.2)).map Prod.fst })
  else s

/-- The entry that arrives next of a queue that several cores feed, and the others: each core's entries arrive in order, and
among cores the order of arrival is free (R14, R202; log 107). -/
def arriving {α : Type} (tick : Nat) (from_ : α → Nat) (l : List α) : Option (α × List α) :=
  let c := match (l.map from_).eraseDups with
    | [] => 0
    | [c] => c
    | c :: cs => (c :: cs).getD (Config.choose tick % (cs.length + 1)) c
  match l.findIdx? (fun e => decide (from_ e = c)) with
  | none => none
  | some i => (l[i]?).map (fun e => (e, l.eraseIdx i))

/-- A write of core `c` that reaches host memory stands on its link until a zero-length read has followed it (R323). -/
def State.carried (s : State) (c act ent key : Nat) : State :=
  if keyIsPool key = false ∧ paClass key = .host then
    { s with hostOut := s.hostOut ++ [{ link := hostLink key, core := c, act := act, ent := ent }] }
  else s

/-- A zero-length read on a host link completes: the host acknowledges the writes that the link carried before it (R323). -/
def hostRead (link : Nat) (s : State) : State := { s with hostOut := s.hostOut.filter (fun w => decide (w.link ≠ link)) }

/-- Takes the released entry at place `n` out of core `c`. -/
def State.takeReleased (s : State) (c n : Nat) : State :=
  s.modCore c (fun co => { co with released := co.released.eraseIdx n })

end Sys2Proof.Machine
end

