-- ==== Sys2Proof/Machine/Rounds.lean ====
section
/-! DEFINITION. The members of groups (02 R43) and the rounds of `maxbar`, into which a contribution goes even when its span is
aborted (08_isa_matrix_engines R168, R183). -/

namespace Sys2Proof.Machine

/-! ## Groups (R43) -/

/-- Whether group `g` of context `k` is valid and holds core `c`: its rectangle, or its bitmap in the program range. -/
def State.groupHas (s : State) (k g c : Nat) : Bool :=
  let e := s.group k g
  Group.v e && (if Group.rc e then Group.inRect e c
    else match s.dirFind k (s.ctx k).prog with
      | none => false
      | some d => (s.byte (d.pa ((s.ctx k).prog + Group.map e) + c / 8)).getLsbD (c % 8))

/-- The members of a group on die `d`, in core-id order. -/
def State.groupOnDie (s : State) (k g d : Nat) : List Nat :=
  let e := s.group k g
  if Group.v e && Group.rc e then (if Group.die e = d then Group.rect e else [])
  else ((List.range 1024).map (fun i => d * 1024 + i)).filter (s.groupHas k g)

/-- The members of a group, in core-id order. -/
def State.groupMembers (s : State) (k g : Nat) : List Nat :=
  (List.range 8).flatMap (fun d => s.groupOnDie k g d)

/-! ## Rounds of `maxbar` (R168) -/

/-- A round of `maxbar` on a group. -/
def State.maxRound (s : State) (k g : Nat) : MaxRound := Sparse.get {} (s.ctx k).maxRounds g
/-- Writes a round. -/
def State.setMaxRound (s : State) (k g : Nat) (r : MaxRound) : State :=
  s.modCtx k (fun x => { x with maxRounds := Sparse.set {} x.maxRounds g r })

/-- Sets the results of the outstanding loads of core `c` for which `p` holds. -/
def State.resolveLoads (s : State) (c : Nat) (p : Load → Bool) (r : Load → LandSt) : State :=
  s.modCore c (fun co => { co with slots := co.slots.map (fun e => (e.1, e.2.map (fun sl =>
    { sl with loads := sl.loads.map (fun l => if p l then { l with res := some (r l) } else l) }))) })

/-- A `maxbar` result that has been contributed to the round of group `g` and awaits it. -/
def Load.inRound (g : Nat) (l : Load) : Bool :=
  match l.op with
  | .maxbar x _ => decide (x = g) && decide (l.res = some (.wait 0))
  | _ => false

/-- The fault of a round that ran out of time, raised at consumption (R168, R77). -/
def roundFault (g : Nat) : LandSt := .fault { cause := .groupTimeout, info := w64 g }

/-- Whether a `maxbar` round has run out of time. -/
def State.maxExpired (s : State) (k g : Nat) : Bool :=
  decide ((s.maxRound k g).votes ≠ []) && decide ((s.maxRound k g).first + (s.ctx k).grpTo.toNat ≤ s.cycle)

/-- A round of `maxbar` fails: every contributor's result is the fault, and a member that had not contributed meets it at
its next contribution (R168). -/
def State.maxFails (s : State) (k g : Nat) : State :=
  let r := s.maxRound k g
  let s1 := r.votes.foldl (fun t v => t.resolveLoads v.1 (Load.inRound g) (fun _ => roundFault g)) s
  s1.setMaxRound k g { late := r.late ++ (s.groupMembers k g).filter (fun c => !r.votes.any (fun v => decide (v.1 = c))) }

/-- Whether every member has contributed to a round of `maxbar`. -/
def State.maxFull (s : State) (k g : Nat) : Bool :=
  decide ((s.maxRound k g).votes ≠ []) &&
  (s.groupMembers k g).all (fun c => (s.maxRound k g).votes.any (fun v => decide (v.1 = c)))

/-- A full round completes: the agreed value goes to every member, and the next round begins (R168). -/
def State.maxDone (s : State) (k g : Nat) : State :=
  let r := s.maxRound k g
  let agreed := (r.votes.map (fun v => v.2.toNat)).foldl max 0
  ((s.groupMembers k g).foldl (fun t c => t.resolveLoads c (Load.inRound g)
    (fun l => .ready { d := l.d, x := w64 agreed })) s).setMaxRound k g { r with votes := [], first := 0 }

/-- A round that is full completes before anything else, and one whose time has run out fails (R168). -/
def State.maxSettle (s : State) (k g : Nat) : State :=
  if s.maxFull k g then s.maxDone k g else if s.maxExpired k g then s.maxFails k g else s

/-- A contribution of core `c` enters a round: the larger of two by one core counts (R168). -/
def MaxRound.vote (r : MaxRound) (c : Nat) (v : BitVec 32) (now : Nat) : MaxRound :=
  let w := v &&& 0x7FFFFFFF
  if r.votes.any (fun x => decide (x.1 = c)) then
    { r with votes := r.votes.map (fun x => if x.1 = c ∧ x.2.ult w then (c, w) else x) }
  else { r with votes := r.votes ++ [(c, w)], first := if r.votes = [] then now else r.first }

/-- Core `c` contributes to a round of group `g`: the round, and what the contributor's result then is. One that comes after the
last member's belongs to the next round (R168). -/
def State.contribute (s : State) (c g : Nat) (v : BitVec 32) : State × LandSt :=
  let k := s.coreCtx c
  let s1 := s.maxSettle k g
  let r := s1.maxRound k g
  if r.late.contains c then (s1.setMaxRound k g { r with late := r.late.erase c }, roundFault g)
  else (s1.setMaxRound k g (r.vote c v s.cycle), .wait 0)

/-- The contributions that a slot's outstanding `maxbar`s have still to make: they stand when the span is aborted (R183). -/
def State.contributeAll (s : State) (c : Nat) (sl : Slot) : State :=
  sl.loads.foldl (fun t l => match l.op, l.res with
    | .maxbar g v, none => (t.contribute c g v).1
    | _, _ => t) s

end Sys2Proof.Machine
end

