-- ==== Sys2Proof/Machine/Ops.lean ====
section
/-! DEFINITION. The shared operations over a span: issuing and retiring an instruction (04_encoding R72 to R79), releasing
a span (02_activations R32, R34; 05 R101, R102), aborting it and taking a trap (02 R33, R34, R362; 16 R310, R311), and
coming back to an activation. -/

namespace Sys2Proof.Machine

/-! ## Release -/

/-- The store-buffer entries of an activation leave its buffer in entry order (Table 2.4, R126). -/
def State.releaseStores (s : State) (c k : Nat) (byDone : Bool) : State :=
  match s.slot c k with
  | none => s
  | some sl =>
    let out : List Rel := sl.stores.map (fun e => { act := sl.act, slot := k, byDone := byDone, e := e })
    (s.modCore c (fun co => { co with released := co.released ++ out })).modSlot c k (fun sl => { sl with stores := [] })

/-- The bytes of a vector of `dim` × 16 elements in format `f` of Table 9.4 (R186). -/
def ixBytes (f dim : Nat) : Nat :=
  match f with
  | 0 => 64 * dim
  | 1 => 32 * dim
  | 2 => 16 * dim
  | _ => 33 * ((16 * dim + 31) / 32)

/-- The length of the vector that an index request carries, by its index as it stands (R186). -/
def State.vecLen (s : State) (r : IxReq) : Nat :=
  match s.indexes.find? (fun x => decide (x.ctx = r.ctx) && decide (x.vbase = (r.words.getD 0 0).toNat)) with
  | none => 0
  | some x => if r.fn = 1 then ixBytes x.fmt x.dim else ixBytes 0 x.dim

/-- The bytes at VEC that an index request captures, as its activation reads them at release: as many as the longest vector
has, of which the arrival step uses the vector's (R186; log 48). -/
def State.capture (s : State) (c act : Nat) (op : InjOp) : List (Byte × Bool × Bool) :=
  match op with
  | .index r _ =>
    if [0, 1, 7].contains r.fn then
      (List.range 4096).map (fun i => s.poolByte c act c ((r.words.getD 6 0).toNat + i))
    else []
  | _ => []

/-- What an injection entry holds once it is released: an index request takes the bytes at VEC (R186). -/
def State.captured (s : State) (c act : Nat) (op : InjOp) : InjOp :=
  match op with
  | .index r die =>
    let rs := s.capture c act op
    if rs = [] then op else
    .index { r with vec := rs.map Prod.fst,
                    bad := (List.range 512).filter (fun w => ((rs.drop (8 * w)).take 8).any (fun x => x.2.1)) } die
  | _ => op

/-- The out-of-range event of that read, if a byte of the vector lies past the scratchpad (R14). -/
def State.captureOob (s : State) (c act : Nat) (op : InjOp) : State :=
  match op with
  | .index r _ => match ((s.capture c act op).take (s.vecLen r)).findIdx? (fun b => b.2.2) with
    | some i => s.oob c ((r.words.getD 6 0).toNat + i)
    | none => s
  | _ => s

/-- The activation's injection entries are released (Table 2.4). -/
def State.releaseSends (s : State) (c act : Nat) : State :=
  let mine (e : Inj) : Bool := decide (e.act = act) && !e.released
  ((s.core c).inj.filter mine).foldl (fun t e => t.captureOob c act e.op)
    (s.modCore c (fun co => { co with inj := co.inj.map (fun e =>
      if mine e then { e with released := true, op := s.captured c act e.op } else e) }))

/-- Starts a spawned child (R30, R41). Its reservation holds no particular slot: the child takes the lowest one that is free
when it binds; it reserves no injection entries, since it takes no messages of a channel (R28; log 98). -/
def State.startChild (s : State) (c : Nat) (ch : Child) : State :=
  s.modCore c (fun co => match co.freeSlot with
    | none => co
    | some k =>
      let sl := { freshSlot co.nextAct 0 ch.pc ch.args ch.cnt (co.entryOf 0) with
        child := some ch, task := some (ch.pc.setWidth 64), fresh := s.tick }
      { co with slots := Sparse.set none co.slots k (some sl), nextAct := co.nextAct + 1 })

/-- The spawn reservations of activation `act` of core `c` turn into bound children (Table 2.4, R41). A failed core binds
none, so there they stay released until it is mapped (R318). -/
def State.releaseSpawns (s : State) (c act : Nat) : State :=
  s.cores.foldl (fun t e =>
    let mine := e.2.spawns.filter (fun r => decide (r.core = c) && decide (r.act = act))
    if mine = [] then t
    else if e.2.failed then t.modCore e.1 (fun co => { co with
      spawns := co.spawns.map (fun r => if r.core = c ∧ r.act = act then { r with released := true } else r) })
    else mine.foldl (fun t r => t.startChild e.1 r.child) (t.modCore e.1 (fun co => { co with
      spawns := co.spawns.filter (fun r => !(decide (r.core = c) && decide (r.act = act))) }))) s

/-- The counter waits of the activation are armed (R143). -/
def State.armWaits (s : State) (c act : Nat) : State :=
  s.clusters.foldl (fun t e =>
    if e.2.waits.any (fun w => decide (w.core = c) && decide (w.act = act) && !w.armed) then
      t.modCluster e.1 (fun x => { x with waits := x.waits.map (fun w =>
        if w.core = c ∧ w.act = act then { w with armed := true } else w) })
    else t) s

/-- The matrix operations and barrier arrivals of the span are released (R158, R180, R183). They wait for no `.rel` pool store of
the span that is released with them (R229): an `mma` then reads the pool as it stands (log 122). -/
def State.releaseMat (s : State) (c k : Nat) : State :=
  match s.slot c k with
  | none => s
  | some sl =>
    if sl.matq = [] ∧ sl.gbars = [] then s else
    (s.modCore c (fun co => { co with
      matq := co.matq ++ sl.matq.map (fun o => { act := sl.act, commits := sl.commits, op := o })
      gbars := co.gbars ++ sl.gbars })).modSlot c k (fun sl => { sl with matq := [], gbars := [] })

/-- The shadow leaves for the supervisor core before any other entry of the release (R222). -/
def State.sendFold (s : State) (c k : Nat) : State :=
  match s.slot c k, (s.core c).ctx with
  | some sl, some x =>
    if sl.shadow.isClear then s else
    (s.modCtx x (fun y => { y with folds := y.folds ++
      [{ core := c, act := sl.act, commits := sl.commits, shadow := sl.shadow }] })).modSlot c k
      (fun sl => { sl with shadow := {} })
  | _, _ => s

/-- Everything a release of the span lets go, but for the shadow: the column of Table 2.4 for `commit` and `done`. -/
def State.releaseSpan (s : State) (c k : Nat) (byDone : Bool) : State :=
  match s.slot c k with
  | none => s
  | some sl =>
    ((((s.releaseStores c k byDone).releaseSends c sl.act).releaseMat c k).armWaits c sl.act).releaseSpawns c sl.act

/-- A span becomes irrevocable: buffered state is released as by `commit`, the journal is dropped, no checkpoint is
taken (R34). -/
def State.makeIrrev (s : State) (c k : Nat) : State :=
  match s.slot c k with
  | none => s
  | some sl => if sl.irrev then s else
    (s.releaseSpan c k false).modSlot c k (fun sl => { sl with irrev := true, journal := [] })

/-! ## Abort -/

/-- The journal is written back through the port, newest entry first (R125, R231). -/
def State.writeBack (s : State) (c act : Nat) (j : List Journal) : State :=
  j.reverse.foldl (fun t e => t.modCore (keyCore e.key) (fun co => { co with stage := co.stage ++
    [{ core := c, act := act, id := (s.core c).nextEntry, poison := e.poison,
       bytes := (State.wordBytes e.key e.old).map (fun b => (b.1 - poolKey (keyCore e.key) 0, b.1, b.2)) }] })) s

/-- The activation's unreleased injection entries are discarded (Table 2.4). -/
def State.dropSends (s : State) (c act : Nat) : State :=
  s.modCore c (fun co =>
    let c1 := { co with inj := co.inj.filter (fun e => !(decide (e.act = act) && !e.released)) }
    c1.freeEntries (c1.injFree - co.injFree))

/-- The activation's spawn reservations are released (R41). -/
def State.dropSpawns (s : State) (c act : Nat) : State :=
  s.cores.foldl (fun t e =>
    if e.2.spawns.any (fun r => decide (r.core = c) && decide (r.act = act) && !r.released) then
      t.modCore e.1 (fun co => { co with
        spawns := co.spawns.filter (fun r => !(decide (r.core = c) && decide (r.act = act) && !r.released)) })
    else t) s

/-- The activation's unarmed wait reservations are released (R143). -/
def State.dropWaits (s : State) (c act : Nat) : State :=
  s.clusters.foldl (fun t e =>
    if e.2.waits.any (fun w => decide (w.core = c) && decide (w.act = act) && !w.armed) then
      t.modCluster e.1 (fun x => { x with waits := x.waits.filter (fun w =>
        !(decide (w.core = c) && decide (w.act = act) && !w.armed)) })
    else t) s

/-- Whether a fold comes from the span of activation `act` of core `c` with that many commits before it. -/
def Fold.of (f : Fold) (c act commits : Nat) : Bool := decide (f.core = c) && decide (f.act = act) && decide (f.commits = commits)

/-- The fold that the span has sent is discarded, also one that is performed while its `commit` drains: its flags never reach
context state (R221). -/
def State.dropFold (s : State) (c act commits : Nat) : State :=
  match (s.core c).ctx with
  | none => s
  | some k =>
    if ((s.ctx k).folds ++ (s.ctx k).folded).any (fun f => f.of c act commits) then
      s.modCtx k (fun x => { x with folds := x.folds.filter (fun f => !f.of c act commits), folded := x.folded.filter (fun f => !f.of c act commits) })
    else s

/-- The `commit` of a span has drained: its performed folds count for good (R221). -/
def State.keepFold (s : State) (c act commits : Nat) : State :=
  match (s.core c).ctx with
  | none => s
  | some k =>
    if (s.ctx k).folded.any (fun f => f.of c act commits) then
      s.modCtx k (fun x => { (x.folded.filter (fun f => f.of c act commits)).foldl (fun y f => y.fold f.shadow) x with
        folded := x.folded.filter (fun f => !f.of c act commits) })
    else s

/-- Whether a journal entry of the span is uncorrectable (R311). -/
def State.journalBad (s : State) (c k n : Nat) : Bool :=
  (List.range n).any (fun j => s.poisoned (s.journalKey c k j) || s.poisoned (s.journalKey c k j + 8))

/-- The abort column of Table 2.4: the journal is restored, everything buffered or pending is discarded, and, in the drain of
a `commit`, what its release still holds at the core (log 106); a `maxbar`'s contribution stands (R183). An uncorrectable journal entry leaves its word poisoned
(R311). -/
def State.abortSpan (s : State) (c k : Nat) : State :=
  match s.slot c k with
  | none => s
  | some sl =>
    let j := (List.range sl.journal.length).map (fun i =>
      let e := sl.journal.getD i {}
      if s.poisoned (s.journalKey c k i) || s.poisoned (s.journalKey c k i + 8) then { e with poison := true } else e)
    let s0 := (if sl.hold = .drain ∧ sl.irrev = false then s.dropWaiting c sl.act 0 else s).contributeAll c sl
    let s1 := if sl.irrev then s0 else s0.writeBack c sl.act j
    ((((s1.dropFold c sl.act sl.commits).dropSends c sl.act).dropSpawns c sl.act).dropWaits c sl.act).modSlot c k (fun sl =>
      { sl with
        late := [], landing := [], loads := [], hold := .ready, stores := [], newer := [], journal := [],
        shadow := {}, matq := [], gbars := [], unpaired := 0, region := none, paused := 0, fails := 0,
        marker := none, scDrain := false, posted := sl.kept })

/-- Restores the checkpoint: the activation re-enters at the instruction after its last `commit` (R33, R79). -/
def Slot.restore (sl : Slot) (k : Ckpt) : Slot :=
  { sl with x := k.x, v := k.v, p := k.p, cursor := k.cursor, pc := k.pc, entry := none, task := none,
            sig := k.pc.setWidth 24, hold := .ready, irrev := false, line := none }

/-- Restarts a spawned child in its slot (R362). Its loads are numbered on, so that no unit answers one of the new run with a
result of the aborted one (R207). -/
def Slot.restart (sl : Slot) (ch : Child) (h : Hte) : Slot :=
  { freshSlot sl.act sl.chan ch.pc ch.args ch.cnt h with
    nextId := sl.nextId, child := some ch, task := some (ch.pc.setWidth 64), resv := sl.resv, halfHte := sl.halfHte, fresh := sl.fresh }

/-- A committed activation re-enters; an uncorrectable checkpoint ends it with `ckpt.ue` (R33, R311). -/
def State.reenter (s : State) (c k : Nat) : State :=
  match s.slot c k with
  | none => s
  | some sl =>
    match sl.ckpt with
    | none => s
    | some ck =>
      if s.ckptBad c k then
        (s.record c { cause := .ckptUe, kind := 2, att := (sl.child.map Child.att).getD ((sl.held.head?.map Msg.att).getD 0), commits := sl.commits,
                      slot := k, pc := ck.pc.setWidth 64, who := (sl.held.head?.map msgWho).getD 0 }).endActivation c k
      else s.modSlot c k (fun sl => sl.restore ck)

/-- Sets ATT of the first held message (R310). -/
def setAtt (att : Nat) : List Msg → List Msg
  | [] => []
  | m :: ms => { m with att := att } :: ms

/-- What follows an abort that lets the activation run again with attempt count `att` (R33, R310, R362). -/
def State.again (s : State) (c k att : Nat) : State :=
  match s.slot c k with
  | none => s
  | some sl =>
    if sl.ckpt.isSome then
      (s.modSlot c k (fun sl => { sl with held := setAtt att sl.held, child := sl.child.map ({ · with att := att }) })).reenter c k
    else match sl.child with
      | some ch => s.modSlot c k (fun sl => sl.restart { ch with att := att } (s.hte c 0))
      | none => s.returnMsgs c k (setAtt att sl.held)

/-- What follows an abort that masks the channel: a committed activation or a child is parked, another returns its
messages (R294, R310, R362; log 8). -/
def State.maskAndWait (s : State) (c k : Nat) : State :=
  match s.slot c k with
  | none => s
  | some sl =>
    let s1 := s.setMask c sl.chan.toNat true
    if sl.ckpt.isSome || sl.child.isSome then s1.modSlot c k (fun sl => { sl with hold := .parked })
    else s1.returnMsgs c k sl.held

/-- The attempt count that a trap meets (R310, R362). -/
def Slot.att (sl : Slot) : Nat :=
  match sl.child with
  | some ch => ch.att
  | none => (sl.held.head?.map Msg.att).getD 0

/-- TAKING A TRAP. The span of slot `k` of core `c` aborts, the supervisor gets its record, and the activation continues
by the span's revocability and the cause's class (R33, R34, R310, R311, R312, R362). `pc` is the record's PC. -/
def State.takeTrap (s : State) (c k : Nat) (pc : Pc) (t : Trap) : State :=
  match s.slot c k with
  | none => s
  | some sl =>
    let bad := !sl.irrev && s.journalBad c k sl.journal.length
    let s1 := s.abortSpan c k
    let rec0 : Rec := { cause := if bad then .journalUe else t.cause, commits := sl.commits, slot := k, lane := t.lane,
                        pc := pc.setWidth 64, info := t.info, info2 := t.info2,
                        who := (sl.held.head?.map msgWho).getD 0 }
    if sl.irrev || bad then (s1.record c { rec0 with kind := 2, att := sl.att }).endActivation c k
    else match t.cause.klass with
      | .t =>
        if sl.att < 3 then (s1.record c { rec0 with kind := 0, att := sl.att + 1 }).again c k (sl.att + 1)
        else
          let s2 := s1.record c { rec0 with kind := 2, att := 3 }
          if sl.ckpt.isSome then s2.endActivation c k else s2.maskAndWait c k
      | .m => (s1.record c { rec0 with kind := 1, att := sl.att }).maskAndWait c k
      | _ => (s1.record c { rec0 with kind := 2, att := sl.att }).endActivation c k

/-- The trap of the current instruction: cause and information. -/
def State.trap (s : State) (sl : Slot) (cause : Cause) (info : Word) : State :=
  s.takeTrap s.cur.1 s.cur.2 sl.pc { cause := cause, info := info }

/-- The trap of the current instruction where the spec states no information (Table 16.3): INFO is a free value. -/
def State.trap0 (s : State) (sl : Slot) (cause : Cause) : State := s.trap sl cause (Config.openInfo s.tick)

/-- Clearing MSK lets the parked activations of the channel come back (R294, R362). -/
def State.unpark (s : State) (c ch : Nat) : State :=
  (List.range 8).foldl (fun t k => match t.slot c k with
    | some sl =>
      if sl.hold = .parked ∧ sl.chan.toNat = ch then
        if sl.ckpt.isSome then t.reenter c k
        else match sl.child with
          | some x => t.modSlot c k (fun sl => sl.restart x (t.hte c 0))
          | none => t
      else t
    | none => t) s

/-- Sets or clears the mask of a channel, with what clearing lets go (R27, R294). -/
def State.maskChan (s : State) (c ch : Nat) (b : Bool) : State :=
  let s1 := s.setMask c ch b
  if b then s1 else s1.unpark c ch

/-! ## Issue -/

/-- How an instruction's predicate governs it: by bit 0, by lanes, or not at all (R49, R86, R100). -/
inductive Under where
  | scalar | lanes | always
  deriving DecidableEq, Repr

/-- Whether the instruction acts. -/
def Slot.acts (sl : Slot) (u : Ctl) : Under → Bool
  | .scalar => sl.pred u
  | .lanes => decide (sl.predMask u ≠ 0)
  | .always => true

/-- Scalar or vector by the class of a register operand (R92, R105). -/
def under (r : Reg) : Under := if Reg.isV r then .lanes else .scalar

/-- Retires the current instruction: its register write, if any, the fold into S, the advance of the PC (R72, R79, R86). -/
def State.retire (s : State) (i : Instr) (u : Ctl) (w : Option RegWrite) (sl : Slot) : State :=
  s.putCur ((sl.wr u w).advance i)

/-- Retires a taken control transfer: the target is an entry and S starts from it (R66, R79, R95). -/
def State.retireTo (s : State) (i : Instr) (u : Ctl) (w : Option RegWrite) (target : Pc) (sl : Slot) : State :=
  s.putCur { (sl.wr u w).advance i with pc := target, entry := some sl.pc, sig := target.setWidth 24 }

/-- Whether an instruction names a tag for which a load of the open atomic line region has allocated: the result comes only
after the region, so that the instruction could never issue in it (R59; log 105). -/
def Slot.regionTag (sl : Slot) (u : Ctl) : Bool :=
  match sl.region with
  | none => false
  | some r => (Slot.tagsOf u.ct).any (fun t => r.accs.any (fun a => match a with
      | .load _ _ tag _ _ => decide (tag = t)
      | .store .. => false))

/-- What every instruction does around its own effect: tags named in CT are consumed (R75, R77), an instruction that does not
act reads and writes nothing (R86), a full landing buffer traps (R74), and an open atomic line region admits only its own
accesses (R59), a trap that a false predicate suppresses (R82). `inRegion` says that the instruction is an access of a region
or its end. -/
def State.issue (s : State) (i : Instr) (u : Ctl) (how : Under) (inRegion : Bool) (body : Slot → State) : State :=
  match s.curSlot with
  | none => s
  | some sl =>
    if sl.regionTag u then s.trap0 sl .alrForm
    else match sl.consume (Slot.tagsOf u.ct) with
    | .wait sl1 => s.putCur sl1
    | .fault pc t => s.takeTrap s.cur.1 s.cur.2 pc t
    | .done sl1 =>
      if !sl1.acts u how then s.retire i u none sl1
      else if u.at' ≠ 0 ∧ sl1.landingFull u.at' then s.trap0 sl1 .tagOverflow
      else if sl1.region.isSome && !inRegion then s.trap0 sl1 .alrForm
      else body sl1

/-- The slot waits: it stays at its instruction, having consumed its tags (R75). -/
def State.stay (s : State) (sl : Slot) (h : Hold) : State := s.putCur { sl with hold := h }

/-- Whether the current activation's handler entry has PRV = 1. -/
def State.prv (s : State) (sl : Slot) : Bool := (s.hte s.cur.1 sl.chan.toNat).prv
/-- Whether the current activation's handler is reply-class (R35). -/
def State.replyClass (s : State) (sl : Slot) : Bool := (s.hte s.cur.1 sl.chan.toNat).cls

/-! ## The store buffer and the injection queue -/

/-- Makes the current span irrevocable, keeping the working copy of the slot (R34). -/
def State.irrevNow (s : State) (sl : Slot) : State × Slot :=
  let s1 := (s.putCur sl).makeIrrev s.cur.1 s.cur.2
  (s1, s1.curSlot.getD sl)

/-- Appends an entry to the slot's store buffer. A full buffer makes the span irrevocable, whatever the entry is (log 121), and in
an irrevocable span the entry leaves at once (R34, R126). -/
def State.pushStore (s : State) (sl : Slot) (op : SOp) (rel : Bool) (sc : BitVec 3) : State × Slot :=
  let c := s.cur.1
  let r := if 64 ≤ sl.stores.length then s.irrevNow sl else (s, sl)
  let e : SEntry := { id := (r.1.core c).nextEntry, op := op, rel := rel, sc := sc, upto := sl.nextId }
  let s1 := r.1.modCore c (fun co => { co with nextEntry := co.nextEntry + 1 })
  let sl1 := if op = .marker then { r.2 with marker := some e.id } else r.2
  if sl1.irrev then
    let x : Rel := { act := sl1.act, slot := s.cur.2, e := e }
    (s1.modCore c (fun co => { co with released := co.released ++ [x] }), sl1)
  else (s1, { sl1 with stores := sl1.stores ++ [e] })

/-- Whether the injection queue has `n` entries for the activation: reserved ones first, then free ones (R28, R145). -/
def State.injRoomFor (s : State) (sl : Slot) (n : Nat) : Bool :=
  let co := s.curCore
  decide (n ≤ co.injFree + (sl.resv - co.injOf sl.act))

/-- Appends an entry to the injection queue (R145); in an irrevocable span it is released at once (R34). -/
def State.pushInj (s : State) (sl : Slot) (op : InjOp) (n : Nat) : State :=
  let e : Inj := { act := sl.act, slot := s.cur.2, op := if sl.irrev then s.captured s.cur.1 sl.act op else op,
                   released := sl.irrev, behind := sl.marker, upto := sl.nextId, width := n, ent := s.curCore.nextEntry }
  (if sl.irrev then s.captureOob s.cur.1 sl.act op else s).modCore s.cur.1 (fun co =>
    Core.settle { co with inj := co.inj ++ [e] })

/-! ## Waiting for memory -/

/-- Whether the activation may perform a further access: no acquire load is out (R123), nor a load that stands before a
fence with acquire order (R136). -/
def Slot.mayAccess (sl : Slot) : Bool := !sl.loads.any (fun l => l.acq)

/-- Where a pending result lands: in landing[AT], or, untagged, the slot holds for it (R58, R74). -/
def State.launch (s : State) (i : Instr) (u : Ctl) (sl : Slot) (d : Reg) (op : LoadOp) (va : Nat) (mask : BitVec 16)
    (acq : Bool) (bytes : List (Nat × Option Byte)) : State :=
  let id := sl.nextId
  let ld : Load := { id := id, op := op, d := d, tag := u.at', pd := u.pd.toNat, mask := mask, pc := sl.pc, va := va,
                     acq := acq, rel := u.mo.getLsbD 1, sc := u.sc, bytes := bytes, old := if Reg.isV d then sl.getV d else [],
                     ent := s.curCore.nextEntry }
  let sl1 := { (sl.wr u none).advance i with loads := sl.loads ++ [ld], nextId := id + 1 }
  let keys := match op with | .region r _ => [r.key] | _ => (bytes.filter (fun b => b.2.isNone)).map Prod.fst
  (s.requests s.cur.1 sl.act va keys).putCur (if u.at' = 0 then { sl1 with hold := .load id }
    else { sl1 with landing := sl1.landing ++ [{ tag := u.at', pc := sl.pc, st := .wait id }] })

end Sys2Proof.Machine
end

