-- ==== Sys2Proof/Machine/Integer.lean ====
section
/-! DEFINITION. Integer arithmetic and logic, bit fields, constants and moves, comparisons, predicate operations
(05_isa_integer_control R88 to R94). -/

namespace Sys2Proof.Machine

/-- The outcome of an instruction: always a next state. -/
abbrev Out := Host.Outcome State Fault Refusal

/-! ## Results (Table 5.1) -/

/-- `mul`: bits [63:0] of the product. -/
def mulLow (a b : Word) : Word := a * b
/-- `mulh.i`: bits [127:64] of the signed product. -/
def mulHighI (a b : Word) : Word := BitVec.ofInt 64 (a.toInt * b.toInt / 2 ^ 64)
/-- `mulh.n`: bits [127:64] of the unsigned product. -/
def mulHighN (a b : Word) : Word := BitVec.ofNat 64 (a.toNat * b.toNat / 2 ^ 64)
/-- `div.i` (R89): all ones for b = 0, else the quotient truncated toward zero. -/
def divSigned (a b : Word) : Word := if b = 0 then BitVec.allOnes 64 else a.sdiv b
/-- `div.n` (R89). -/
def divUnsigned (a b : Word) : Word := if b = 0 then BitVec.allOnes 64 else a / b
/-- `rem.i` (R89): a for b = 0, else a − b × div.i(a, b). -/
def remSigned (a b : Word) : Word := if b = 0 then a else a - b * divSigned a b
/-- `rem.n` (R89). -/
def remUnsigned (a b : Word) : Word := if b = 0 then a else a - b * divUnsigned a b
/-- The sticky flag of a division (R89). -/
def divFlag (b : Word) : BitVec 7 := if b = 0 then idz else 0
/-- The shift amount: the low six bits (R90). -/
def shiftBy (b : Word) : Nat := bits b 0 6
/-- `rol` (Table 5.1). -/
def rolBy (a : Word) (s : Nat) : Word := if s = 0 then a else (a <<< s) ||| (a >>> (64 - s))
/-- `min.i`. -/
def minSigned (a b : Word) : Word := if a.sle b then a else b
/-- `min.n`. -/
def minUnsigned (a b : Word) : Word := if a.ule b then a else b
/-- `max.i`. -/
def maxSigned (a b : Word) : Word := if b.sle a then a else b
/-- `max.n`. -/
def maxUnsigned (a b : Word) : Word := if b.ule a then a else b
/-- A result that raises no flag. -/
def plain (f : Word → Word → Word) (a b : Word) : Word × BitVec 7 := (f a b, 0)
/-- A division or remainder with its flag. -/
def dividing (f : Word → Word → Word) (a b : Word) : Word × BitVec 7 := (f a b, divFlag b)

/-! ## The shared forms (R88) -/

/-- The register form: a := X[A], b := X[B] (A read first, R71), wr(D, f(a, b)). -/
def aluReg (i : Instr) (u : Ctl) (d a b : Reg) (f : Word → Word → Word × BitVec 7) (s : State) : Out :=
  .next (s.issue i u .scalar false fun sl =>
    let x := readSrc s sl a
    let y := readSrc s x.2 b
    s.retire i u (some { d := d, x := (f x.1 y.1).1 }) (y.2.raise (f x.1 y.1).2))

/-- The immediate form: b is given. -/
def aluImm (i : Instr) (u : Ctl) (d a : Reg) (b : Word) (f : Word → Word → Word × BitVec 7) (s : State) : Out :=
  .next (s.issue i u .scalar false fun sl =>
    let x := readSrc s sl a
    s.retire i u (some { d := d, x := (f x.1 b).1 }) (x.2.raise (f x.1 b).2))

/-- `add` (R88). -/
def execAdd (u : Ctl) (d a b : Reg) (s : State) : Out := aluReg (.add u d a b) u d a b (plain (· + ·)) s
/-- `sub` (R88). -/
def execSub (u : Ctl) (d a b : Reg) (s : State) : Out := aluReg (.sub u d a b) u d a b (plain (· - ·)) s
/-- `mul` (R88). -/
def execMul (u : Ctl) (d a b : Reg) (s : State) : Out := aluReg (.mul u d a b) u d a b (plain mulLow) s
/-- `mulh.i` (R88). -/
def execMulhI (u : Ctl) (d a b : Reg) (s : State) : Out := aluReg (.mulhI u d a b) u d a b (plain mulHighI) s
/-- `mulh.n` (R88). -/
def execMulhN (u : Ctl) (d a b : Reg) (s : State) : Out := aluReg (.mulhN u d a b) u d a b (plain mulHighN) s
/-- `div.i` (R88, R89). -/
def execDivI (u : Ctl) (d a b : Reg) (s : State) : Out := aluReg (.divI u d a b) u d a b (dividing divSigned) s
/-- `div.n` (R88, R89). -/
def execDivN (u : Ctl) (d a b : Reg) (s : State) : Out := aluReg (.divN u d a b) u d a b (dividing divUnsigned) s
/-- `rem.i` (R88, R89). -/
def execRemI (u : Ctl) (d a b : Reg) (s : State) : Out := aluReg (.remI u d a b) u d a b (dividing remSigned) s
/-- `rem.n` (R88, R89). -/
def execRemN (u : Ctl) (d a b : Reg) (s : State) : Out := aluReg (.remN u d a b) u d a b (dividing remUnsigned) s
/-- `add`, immediate (R88). -/
def execAddImm (u : Ctl) (d a : Reg) (imm : BitVec 32) (s : State) : Out :=
  aluImm (.addImm u d a imm) u d a (sext32 imm) (plain (· + ·)) s
/-- `sub`, immediate (R88). -/
def execSubImm (u : Ctl) (d a : Reg) (imm : BitVec 32) (s : State) : Out :=
  aluImm (.subImm u d a imm) u d a (sext32 imm) (plain (· - ·)) s
/-- `mul`, immediate (R88). -/
def execMulImm (u : Ctl) (d a : Reg) (imm : BitVec 32) (s : State) : Out :=
  aluImm (.mulImm u d a imm) u d a (sext32 imm) (plain mulLow) s
/-- `mulh.i`, immediate (R88). -/
def execMulhIImm (u : Ctl) (d a : Reg) (imm : BitVec 32) (s : State) : Out :=
  aluImm (.mulhIImm u d a imm) u d a (sext32 imm) (plain mulHighI) s
/-- `mulh.n`, immediate (R88). -/
def execMulhNImm (u : Ctl) (d a : Reg) (imm : BitVec 32) (s : State) : Out :=
  aluImm (.mulhNImm u d a imm) u d a (sext32 imm) (plain mulHighN) s
/-- `div.i`, immediate (R88, R89). -/
def execDivIImm (u : Ctl) (d a : Reg) (imm : BitVec 32) (s : State) : Out :=
  aluImm (.divIImm u d a imm) u d a (sext32 imm) (dividing divSigned) s
/-- `div.n`, immediate (R88, R89). -/
def execDivNImm (u : Ctl) (d a : Reg) (imm : BitVec 32) (s : State) : Out :=
  aluImm (.divNImm u d a imm) u d a (sext32 imm) (dividing divUnsigned) s
/-- `rem.i`, immediate (R88, R89). -/
def execRemIImm (u : Ctl) (d a : Reg) (imm : BitVec 32) (s : State) : Out :=
  aluImm (.remIImm u d a imm) u d a (sext32 imm) (dividing remSigned) s
/-- `rem.n`, immediate (R88, R89). -/
def execRemNImm (u : Ctl) (d a : Reg) (imm : BitVec 32) (s : State) : Out :=
  aluImm (.remNImm u d a imm) u d a (sext32 imm) (dividing remUnsigned) s
/-- `and` (R88). -/
def execAnd (u : Ctl) (d a b : Reg) (s : State) : Out := aluReg (.and u d a b) u d a b (plain (· &&& ·)) s
/-- `or` (R88). -/
def execOr (u : Ctl) (d a b : Reg) (s : State) : Out := aluReg (.or u d a b) u d a b (plain (· ||| ·)) s
/-- `xor` (R88). -/
def execXor (u : Ctl) (d a b : Reg) (s : State) : Out := aluReg (.xor u d a b) u d a b (plain (· ^^^ ·)) s
/-- `andn` (R88). -/
def execAndn (u : Ctl) (d a b : Reg) (s : State) : Out :=
  aluReg (.andn u d a b) u d a b (plain (fun x y => x &&& ~~~y)) s
/-- `shl` (R90). -/
def execShl (u : Ctl) (d a b : Reg) (s : State) : Out :=
  aluReg (.shl u d a b) u d a b (plain (fun x y => x <<< shiftBy y)) s
/-- `shr` (R90). -/
def execShr (u : Ctl) (d a b : Reg) (s : State) : Out :=
  aluReg (.shr u d a b) u d a b (plain (fun x y => x >>> shiftBy y)) s
/-- `sar` (R90). -/
def execSar (u : Ctl) (d a b : Reg) (s : State) : Out :=
  aluReg (.sar u d a b) u d a b (plain (fun x y => x.sshiftRight (shiftBy y))) s
/-- `rol` (R90). -/
def execRol (u : Ctl) (d a b : Reg) (s : State) : Out :=
  aluReg (.rol u d a b) u d a b (plain (fun x y => rolBy x (shiftBy y))) s
/-- `min.i` (R88). -/
def execMinI (u : Ctl) (d a b : Reg) (s : State) : Out := aluReg (.minI u d a b) u d a b (plain minSigned) s
/-- `min.n` (R88). -/
def execMinN (u : Ctl) (d a b : Reg) (s : State) : Out := aluReg (.minN u d a b) u d a b (plain minUnsigned) s
/-- `max.i` (R88). -/
def execMaxI (u : Ctl) (d a b : Reg) (s : State) : Out := aluReg (.maxI u d a b) u d a b (plain maxSigned) s
/-- `max.n` (R88). -/
def execMaxN (u : Ctl) (d a b : Reg) (s : State) : Out := aluReg (.maxN u d a b) u d a b (plain maxUnsigned) s
/-- `and`, immediate (R88). -/
def execAndImm (u : Ctl) (d a : Reg) (imm : BitVec 32) (s : State) : Out :=
  aluImm (.andImm u d a imm) u d a (sext32 imm) (plain (· &&& ·)) s
/-- `or`, immediate (R88). -/
def execOrImm (u : Ctl) (d a : Reg) (imm : BitVec 32) (s : State) : Out :=
  aluImm (.orImm u d a imm) u d a (sext32 imm) (plain (· ||| ·)) s
/-- `xor`, immediate (R88). -/
def execXorImm (u : Ctl) (d a : Reg) (imm : BitVec 32) (s : State) : Out :=
  aluImm (.xorImm u d a imm) u d a (sext32 imm) (plain (· ^^^ ·)) s
/-- `andn`, immediate (R88). -/
def execAndnImm (u : Ctl) (d a : Reg) (imm : BitVec 32) (s : State) : Out :=
  aluImm (.andnImm u d a imm) u d a (sext32 imm) (plain (fun x y => x &&& ~~~y)) s
/-- `shl`, immediate (R90). -/
def execShlImm (u : Ctl) (d a : Reg) (n : BitVec 6) (s : State) : Out :=
  aluImm (.shlImm u d a n) u d a (n.setWidth 64) (plain (fun x y => x <<< shiftBy y)) s
/-- `shr`, immediate (R90). -/
def execShrImm (u : Ctl) (d a : Reg) (n : BitVec 6) (s : State) : Out :=
  aluImm (.shrImm u d a n) u d a (n.setWidth 64) (plain (fun x y => x >>> shiftBy y)) s
/-- `sar`, immediate (R90). -/
def execSarImm (u : Ctl) (d a : Reg) (n : BitVec 6) (s : State) : Out :=
  aluImm (.sarImm u d a n) u d a (n.setWidth 64) (plain (fun x y => x.sshiftRight (shiftBy y))) s
/-- `rol`, immediate (R90). -/
def execRolImm (u : Ctl) (d a : Reg) (n : BitVec 6) (s : State) : Out :=
  aluImm (.rolImm u d a n) u d a (n.setWidth 64) (plain (fun x y => rolBy x (shiftBy y))) s
/-- `min.i`, immediate (R88). -/
def execMinIImm (u : Ctl) (d a : Reg) (imm : BitVec 32) (s : State) : Out :=
  aluImm (.minIImm u d a imm) u d a (sext32 imm) (plain minSigned) s
/-- `min.n`, immediate (R88). -/
def execMinNImm (u : Ctl) (d a : Reg) (imm : BitVec 32) (s : State) : Out :=
  aluImm (.minNImm u d a imm) u d a (sext32 imm) (plain minUnsigned) s
/-- `max.i`, immediate (R88). -/
def execMaxIImm (u : Ctl) (d a : Reg) (imm : BitVec 32) (s : State) : Out :=
  aluImm (.maxIImm u d a imm) u d a (sext32 imm) (plain maxSigned) s
/-- `max.n`, immediate (R88). -/
def execMaxNImm (u : Ctl) (d a : Reg) (imm : BitVec 32) (s : State) : Out :=
  aluImm (.maxNImm u d a imm) u d a (sext32 imm) (plain maxUnsigned) s

/-! ## Bit fields (R91) -/

/-- The number of leading zero bits. -/
def leadingZeros (a : Word) : Nat := if a = 0 then 64 else 63 - Nat.log2 a.toNat
/-- The number of trailing zero bits. -/
def trailingZeros (a : Word) : Nat := ((List.range 64).find? (fun i => a.getLsbD i)).getD 64
/-- The number of one bits. -/
def onesOf {w : Nat} (a : BitVec w) : Nat := (List.range w).countP (fun i => a.getLsbD i)
/-- The mask of `len` ones at bit `pos`. -/
def fieldMask (pos len : Nat) : Word := w64 ((2 ^ len - 1) * 2 ^ pos)
/-- `bfx`. -/
def extractField (a : Word) (pos len : Nat) : Word := w64 (bits a pos len)
/-- `bfi`: the field of `old` replaced by the low bits of `a`. -/
def insertField (old a : Word) (pos len : Nat) : Word :=
  (old &&& ~~~fieldMask pos len) ||| ((a <<< pos) &&& fieldMask pos len)
/-- `bswap`. -/
def byteSwap (a : Word) : Word :=
  (a.extractLsb' 0 8 ++ a.extractLsb' 8 8 ++ a.extractLsb' 16 8 ++ a.extractLsb' 24 8 ++
   a.extractLsb' 32 8 ++ a.extractLsb' 40 8 ++ a.extractLsb' 48 8 ++ a.extractLsb' 56 8 :)

/-- The form of a bit-field instruction: X[A], and X[D] for `bfi`. -/
def bitOp (i : Instr) (u : Ctl) (d a : Reg) (f : Word → Word → Word) (s : State) : Out :=
  .next (s.issue i u .scalar false fun sl =>
    s.retire i u (some { d := d, x := f (sl.getX d) (sl.getX a) }) sl)

/-- `clz` (R91). -/
def execClz (u : Ctl) (d a : Reg) (s : State) : Out := bitOp (.clz u d a) u d a (fun _ x => w64 (leadingZeros x)) s
/-- `ctz` (R91). -/
def execCtz (u : Ctl) (d a : Reg) (s : State) : Out := bitOp (.ctz u d a) u d a (fun _ x => w64 (trailingZeros x)) s
/-- `popc` (R91). -/
def execPopc (u : Ctl) (d a : Reg) (s : State) : Out := bitOp (.popc u d a) u d a (fun _ x => w64 (onesOf x)) s
/-- `bfx` (R91). -/
def execBfx (u : Ctl) (d a : Reg) (pos : BitVec 6) (len : BitVec 7) (s : State) : Out :=
  bitOp (.bfx u d a pos len) u d a (fun _ x => extractField x pos.toNat len.toNat) s
/-- `bfi` (R91). -/
def execBfi (u : Ctl) (d a : Reg) (pos : BitVec 6) (len : BitVec 7) (s : State) : Out :=
  bitOp (.bfi u d a pos len) u d a (fun old x => insertField old x pos.toNat len.toNat) s
/-- `brev` (R91). -/
def execBrev (u : Ctl) (d a : Reg) (s : State) : Out := bitOp (.brev u d a) u d a (fun _ x => x.reverse) s
/-- `bswap` (R91). -/
def execBswap (u : Ctl) (d a : Reg) (s : State) : Out := bitOp (.bswap u d a) u d a (fun _ x => byteSwap x) s

/-! ## Constants, moves, selection, extension (R92) -/

/-- A write of lanes in the acting lanes, or of a scalar: the class of D decides (R92). -/
def writeOf (sl : Slot) (u : Ctl) (d : Reg) (x : Word) (lanes : Lanes) : RegWrite :=
  if Reg.isV d then { d := d, lanes := lanes, mask := sl.predMask u } else { d := d, x := x }

/-- `li` (Table 5.4). -/
def execLi (u : Ctl) (d : Reg) (imm : BitVec 32) (s : State) : Out :=
  .next (s.issue (.li u d imm) u (under d) false fun sl =>
    let x := if Reg.isX d then sext32 imm else zext32 imm
    s.retire (.li u d imm) u (some (writeOf sl u d x (lanesOf fun _ => imm))) sl)

/-- `lih` (Table 5.4). -/
def execLih (u : Ctl) (d : Reg) (imm : BitVec 32) (s : State) : Out :=
  .next (s.issue (.lih u d imm) u .scalar false fun sl =>
    s.retire (.lih u d imm) u (some { d := d, x := imm ++ (sl.getX d).extractLsb' 0 32 }) sl)

/-- `mov` (Table 5.4). -/
def execMov (u : Ctl) (d a : Reg) (s : State) : Out :=
  .next (s.issue (.mov u d a) u (under d) false fun sl =>
    if Reg.isV d then s.retire (.mov u d a) u (some (writeOf sl u d 0 (sl.getV a))) sl
    else
      let x := readSrc s sl a
      s.retire (.mov u d a) u (some { d := d, x := x.1 }) x.2)

/-- `sel` (Table 5.4). -/
def execSel (u : Ctl) (d a b c : Reg) (s : State) : Out :=
  .next (s.issue (.sel u d a b c) u (under d) false fun sl =>
    let m := sl.getP c
    s.retire (.sel u d a b c) u (some (writeOf sl u d (if m.getLsbD 0 then sl.getX a else sl.getX b)
      (lanesOf fun l => if m.getLsbD l then lane (sl.getV a) l else lane (sl.getV b) l))) sl)

/-- `sext(v, n)` (R86). -/
def sextTo (v : Word) (n : Nat) : Word :=
  if v.getLsbD (n - 1) then v ||| ~~~w64 (2 ^ n - 1) else v &&& w64 (2 ^ n - 1)
/-- `zext(v, n)` (R86). -/
def zextTo (v : Word) (n : Nat) : Word := v &&& w64 (2 ^ n - 1)

/-- The shared form of `ext.i` and `ext.n`. -/
def extOp (i : Instr) (u : Ctl) (d a : Reg) (f : Word → Word) (s : State) : Out :=
  .next (s.issue i u (under d) false fun sl =>
    s.retire i u (some (writeOf sl u d (f (sl.getX a))
      (lanesOf fun l => (f ((lane (sl.getV a) l).setWidth 64)).setWidth 32))) sl)

/-- `ext.i` (Table 5.4). -/
def execExtI (u : Ctl) (d a : Reg) (n : BitVec 7) (s : State) : Out :=
  extOp (.extI u d a n) u d a (fun v => sextTo v n.toNat) s
/-- `ext.n` (Table 5.4). -/
def execExtN (u : Ctl) (d a : Reg) (n : BitVec 7) (s : State) : Out :=
  extOp (.extN u d a n) u d a (fun v => zextTo v n.toNat) s

/-! ## Comparisons and predicates (R93, R94) -/

/-- A lane predicate written over the acting lanes: other bits keep their values (R93). -/
def predLanes (sl : Slot) (u : Ctl) (d : Reg) (f : Nat → Bool) : Word :=
  let m := sl.predMask u
  (bitsFrom (fun l => if m.getLsbD l then f l else (sl.getP d).getLsbD l) 16).setWidth 64

/-- `cmp.cc`, register form (R93). -/
def execCmp (u : Ctl) (cc : Cond) (d a b : Reg) (s : State) : Out :=
  .next (s.issue (.cmp u cc d a b) u (under a) false fun sl =>
    let x := if Reg.isV a then predLanes sl u d (fun l => condHolds cc (lane (sl.getV a) l) (lane (sl.getV b) l))
      else allOrNone (condHolds cc (sl.getX a) (sl.getX b))
    s.retire (.cmp u cc d a b) u (some { d := d, x := x }) sl)

/-- `cmp.cc`, immediate form (R93). -/
def execCmpImm (u : Ctl) (cc : Cond) (d a : Reg) (imm : BitVec 32) (s : State) : Out :=
  .next (s.issue (.cmpImm u cc d a imm) u (under a) false fun sl =>
    let x := if Reg.isV a then predLanes sl u d (fun l => condHolds cc (lane (sl.getV a) l) imm)
      else allOrNone (condHolds cc (sl.getX a) (sext32 imm))
    s.retire (.cmpImm u cc d a imm) u (some { d := d, x := x }) sl)

/-- A predicate operation on two masks (R94). -/
def predOp (i : Instr) (u : Ctl) (d a b : Reg) (f : BitVec 16 → BitVec 16 → BitVec 16) (s : State) : Out :=
  .next (s.issue i u .scalar false fun sl =>
    s.retire i u (some { d := d, x := (f (sl.getP a) (sl.getP b)).setWidth 64 }) sl)

/-- `pand` (Table 5.5). -/
def execPand (u : Ctl) (d a b : Reg) (s : State) : Out := predOp (.pand u d a b) u d a b (· &&& ·) s
/-- `por` (Table 5.5). -/
def execPor (u : Ctl) (d a b : Reg) (s : State) : Out := predOp (.por u d a b) u d a b (· ||| ·) s
/-- `pxor` (Table 5.5). -/
def execPxor (u : Ctl) (d a b : Reg) (s : State) : Out := predOp (.pxor u d a b) u d a b (· ^^^ ·) s
/-- `pnot` (Table 5.5). -/
def execPnot (u : Ctl) (d a : Reg) (s : State) : Out := predOp (.pnot u d a) u d a a (fun x _ => ~~~x) s
/-- `pmov` (Table 5.5). -/
def execPmov (u : Ctl) (d a : Reg) (s : State) : Out :=
  .next (s.issue (.pmov u d a) u .scalar false fun sl =>
    let x : Word := if Reg.isP a then (sl.getP a).setWidth 64 else ((sl.getX a).extractLsb' 0 16).setWidth 64
    s.retire (.pmov u d a) u (some { d := d, x := x }) sl)

end Sys2Proof.Machine
end

