-- ==== Sys2Proof/Machine/Memory.lean ====
section
/-! DEFINITION. Loads, stores, vector accesses, pool gathers and `pref` (07_isa_memory_sync R120 to R130), parcel
pointers (09 R198), and the delivery of outstanding results. -/

namespace Sys2Proof.Machine

/-! ## Addresses (R120, R121) -/

/-- ea := X[A] + sext(IMM, 32) modulo 2^64, and the slot after reading A (R120). -/
def effAddr (s : State) (sl : Slot) (a : Reg) (imm : BitVec 32) : Nat × Slot :=
  let x := readSrc s sl a
  ((x.1 + sext32 imm).toNat, x.2)

/-- What checking one access comes to (R121). -/
inductive Hit where
  | pool (t off : Nat)
  | far (pa : Nat)
  | bad (c : Cause)
  | miss
  deriving DecidableEq, Repr

/-- The checks of R121 for an access of `n` bytes: alignment, window, translation. -/
def State.resolve (s : State) (sl : Slot) (va n : Nat) (need : BitVec 8) : Hit :=
  if va % n ≠ 0 then .bad .memAlign
  else match place s.cur.1 va with
    | .pool t off => if (s.core t).ctx = (s.core s.cur.1).ctx then .pool t off else .bad .memWindow
    | .far va => match s.translate s.cur.1 va need sl.posted with
      | .ok pa => .far pa
      | .fault c => .bad c
      | .miss => .miss

/-- A vector access: the first lane, among those given, that fails or misses, or every lane with its place (R121). -/
def State.resolveLanes (s : State) (sl : Slot) (addr : Nat → Nat) (need : BitVec 8) :
    List Nat → Except (Nat × Hit) (List (Nat × Hit))
  | [] => .ok []
  | l :: ls =>
    match s.resolve sl (addr l) 4 need with
    | .bad c => .error (l, .bad c)
    | .miss => .error (l, .miss)
    | h => match s.resolveLanes sl addr need ls with
      | .error e => .error e
      | .ok hs => .ok ((l, h) :: hs)

/-- Whether the walker of core `c` has 64 misses outstanding (Table 1.6). -/
def State.walkerFull (s : State) (c : Nat) : Bool :=
  decide (64 ≤ (s.die (coreDie c)).misses.countP (fun m => decide (coreCluster m.core % 4 = coreCluster c % 4)))

/-- A range-table miss goes to a walker of the core's die, which holds up to 64; beyond that it waits at the core (R292).
Either way the slot waits. -/
def State.askWalk (s : State) (sl : Slot) (va : Nat) (lane : Option Nat) (waits : Bool) : State :=
  let d := coreDie s.cur.1
  if !s.walkerFull s.cur.1 then
    let m : Miss := { core := s.cur.1, slot := s.cur.2, act := sl.act, va := va, lane := lane, waits := waits }
    (s.putCur (if waits then { sl with hold := .walk } else sl)).modDie d (fun x => { x with misses := x.misses ++ [m] })
  else s.putCur sl

/-! ## Reading bytes -/

/-- The byte that a store-buffer entry forwards at a memory key: its youngest store's (R122). -/
def SOp.fwd (op : SOp) (key : Nat) : Option Byte :=
  match op with
  | .store bs => (bs.reverse.find? (fun e => decide (e.2.1 = key))).map (fun e => e.2.2)
  | .region r => r.accs.reverse.findSome? (fun a => match a with
    | .store v bs => let k := r.key + (v - r.line)
      if k ≤ key ∧ key < k + bs.length then bs[key - k]? else none
    | .load .. => none)
  | _ => none

/-- The byte at a memory key that a store of the activation forwards, buffered or, for a pool byte, released and not yet
performed (R122, R125, R225); a byte whose youngest store has gone to its port is found there. The two addresses by which
a core reaches a byte of its own pool are one key (R15). -/
def State.fwd (s : State) (c : Nat) (sl : Slot) (key : Nat) : Option Byte :=
  if sl.newer.contains key then none
  else match sl.stores.reverse.findSome? (fun e => e.op.fwd key) with
    | some b => some b
    | none =>
      if keyIsPool key then (s.core c).released.reverse.findSome? (fun r => if r.act = sl.act then r.e.op.fwd key else none)
      else none

/-- Reading a run of pool bytes: the bytes, the first poisoned one, the first one out of range (R14, R227, R239). -/
structure PoolRead where
  bytes : List Byte := []
  poison : Option Nat := none
  oob : Option Nat := none
  deriving DecidableEq, Repr

/-- A byte of core `t`'s scratchpad as the current activation reads it: what its own stores forward, or what the port holds;
with whether it is poisoned and whether it is out of range (R225, R227). -/
def State.poolSeen (s : State) (sl : Slot) (t off : Nat) : Byte × Bool × Bool :=
  match s.fwd s.cur.1 sl (poolKey t off) with
  | some b => (b, false, false)
  | none => s.poolByte s.cur.1 sl.act t off

/-- `n` bytes of core `t`'s scratchpad from `off`, as the current activation reads them; `va` is the access's address. -/
def State.poolRead (s : State) (sl : Slot) (t off va n : Nat) : PoolRead :=
  let rs := (List.range n).map (fun i => s.poolSeen sl t (off + i))
  { bytes := rs.map (fun r => r.1), poison := (rs.findIdx? (fun r => r.2.1)).map (va + ·),
    oob := (rs.findIdx? (fun r => r.2.2)).map (va + ·) }

/-- The out-of-range event of an access, for its first such byte (R14). -/
def State.oobAt (s : State) (va : Option Nat) : State :=
  match va with
  | some a => s.oob s.cur.1 a
  | none => s

/-- The bytes of a far access: its key and what forwarding supplies (R122). -/
def State.farBytes (s : State) (sl : Slot) (pa n : Nat) : List (Nat × Option Byte) :=
  (List.range n).map (fun i => (pa + i, s.fwd s.cur.1 sl (pa + i)))

/-- Whether forwarding supplies every byte. -/
def allForwarded (bs : List (Nat × Option Byte)) : Bool := bs.all (fun e => e.2.isSome)

/-! ## Results -/

/-- The bytes a load variant reads (Table 7.3). -/
def ldSize : LdKind → Nat
  | .i8 | .n8 => 1 | .i16 | .n16 => 2 | .i32 | .n32 => 4 | .d => 8
/-- The value of a load variant (Table 7.3). -/
def ldValue (k : LdKind) (bs : List Byte) : Word :=
  let v := w64 (leNat bs)
  match k with
  | .i8 => sextTo v 8 | .i16 => sextTo v 16 | .i32 => sextTo v 32 | _ => v
/-- The lanes of 64 bytes. -/
def lanesOfBytes (bs : List Byte) : Lanes := lanesOf (fun l => BitVec.ofNat 32 (leNat ((bs.drop (4 * l)).take 4)))
/-- `ldp` on the 8 bytes read (R198): the rebuilt pointer, or an escape. -/
def ptrValue (base size : Nat) (bs : List Byte) : Option Word :=
  let o := leNat bs
  if o = 2 ^ 64 - 1 then some 0 else if size ≤ o then none else some (w64 (base + o))

/-- A result or a fault of an access: delivered at once when it is known at issue (R77: a tagged fault waits in its
landing buffer, an untagged one traps). -/
def State.settleNow (s : State) (i : Instr) (u : Ctl) (sl : Slot) (r : Except Trap RegWrite) : State :=
  match r with
  | .ok w => s.retire i u (some w) sl
  | .error t =>
    if u.at' = 0 then s.takeTrap s.cur.1 s.cur.2 sl.pc t
    else
      let x : Land := { tag := u.at', pc := sl.pc, st := .fault t }
      s.putCur (Slot.advance { sl.age with landing := sl.landing ++ [x] } i)

/-- The result of a load operation on its bytes (Table 7.3, R127, R198). -/
def loadResult (op : LoadOp) (d : Reg) (mask : BitVec 16) (va : Nat) (bs : List Byte) : Except Trap RegWrite :=
  match op with
  | .mem k => .ok { d := d, x := ldValue k bs }
  | .vec => .ok { d := d, lanes := lanesOfBytes bs, mask := mask }
  | .ptr base size => match ptrValue base size bs with
    | some v => .ok { d := d, x := v }
    | none => .error { cause := .parcelEscape, info := w64 va }
  | _ => .ok { d := d }

/-- The `mem.poison` that a poisoned byte of an access returns; a vector access names the lane (R77, R121, R239). -/
def poisonTrap (vec : Bool) (va at_ : Nat) : Trap :=
  if vec then { cause := .memPoison, info := w64 (va + (at_ - va) / 4 * 4), lane := some ((at_ - va) / 4) }
  else { cause := .memPoison, info := w64 va }

/-! ## Scalar loads -/

/-- A load of `n` bytes of the current activation, outside a region (R122, R198). -/
def State.loadAt (s : State) (i : Instr) (u : Ctl) (sl : Slot) (d : Reg) (op : LoadOp) (va n : Nat) (h : Hit) : State :=
  match h with
  | .bad c => s.trap sl c (w64 va)
  | .miss => s.askWalk sl va none true
  | .pool t off =>
    let r := s.poolRead sl t off va n
    let s1 := s.oobAt r.oob
    s1.settleNow i u sl (match r.poison with
      | some _ => .error (poisonTrap false va va)
      | none => loadResult op d 0xFFFF va r.bytes)
  | .far pa =>
    let bs := s.farBytes sl pa n
    let s1 := s.touch s.cur.1 va
    if allForwarded bs then s1.settleNow i u sl (loadResult op d 0xFFFF va (bs.map (fun e => e.2.getD 0)))
    else s1.launch i u sl d op va 0xFFFF (decide (u.mo = 1)) bs

/-- An access inside an open atomic line region: to its line, at most eight in all (R59). The line is the one whose address
`alr.b` gave: the other address of a byte of the core's own pool (R15) is outside it (log 105). -/
def Slot.regionTakes (sl : Slot) (va n : Nat) : Bool :=
  match sl.region with
  | some r => decide (r.accs.length < 8) && decide (va / 128 * 128 = r.line) && decide (va + n ≤ r.line + 128)
  | none => false

/-- A load in a region is noted, and a landing entry awaits it; an untagged one traps `alr.form` (R59, R135). Each access
is checked by itself (R121); `alr.form` comes before `mem.align`, which the spec leaves open (log 105). -/
def State.regionLoad (s : State) (i : Instr) (u : Ctl) (sl : Slot) (k : LdKind) (d : Reg) (va : Nat) : State :=
  if u.mo ≠ 0 ∨ u.sc ≠ 0 ∨ u.at' = 0 ∨ !sl.regionTakes va (ldSize k) then s.trap0 sl .alrForm
  else if va % ldSize k ≠ 0 then s.trap sl .memAlign (w64 va)
  else
    let id := sl.nextId
    let x : Land := { tag := u.at', pc := sl.pc, st := .wait id }
    s.putCur (Slot.advance { sl.age with
      region := sl.region.map (fun r : Region => { r with accs := r.accs ++ [.load k d u.at' sl.pc va] }), nextId := id + 1,
      landing := sl.landing ++ [x] } i)

/-- `ld` (R122, R123). -/
def execLd (u : Ctl) (k : LdKind) (d a : Reg) (imm : BitVec 32) (s : State) : Out :=
  .next (s.issue (.ld u k d a imm) u .scalar true fun sl =>
    if !sl.mayAccess then s.putCur sl else
    let e := effAddr s sl a imm
    if sl.region.isSome then s.regionLoad (.ld u k d a imm) u e.2 k d e.1
    else match s.resolve sl e.1 (ldSize k) permR with
      | .miss => s.askWalk sl e.1 none true
      | h => s.loadAt (.ld u k d a imm) u e.2 d (.mem k) e.1 (ldSize k) h)

/-! ## Stores -/

/-- The size of a store (R124). -/
def stSize : StKind → Nat
  | .b => 1 | .h => 2 | .w => 4 | .d => 8

/-- The bytes of a store with their addresses and keys. -/
def storeBytes (va key n : Nat) (v : Word) : List (Nat × Nat × Byte) :=
  (List.range n).map (fun i => (va + i, key + i, BitVec.ofNat 8 (v.toNat / 256 ^ i)))

/-- The pool bytes whose youngest store of the span is not a buffered one, once a store of `bs` has gone to the port (R225). -/
def State.newerOf (s : State) (sl : Slot) (bs : List (Nat × Nat × Byte)) : List Nat :=
  sl.newer ++ ((bs.map (fun b => b.2.1)).filter (fun k => (s.fwd s.cur.1 sl k).isSome))

/-- A pool store performed at issue: journalled, or making the span irrevocable when the journal has no room for the words it
adds (log 121), and accepted at the port (R34, R125, R227). -/
def State.poolStore (s : State) (sl : Slot) (bs : List (Nat × Nat × Byte)) : State × Slot :=
  let newer := s.newerOf sl bs
  if bs = [] then (s, sl)
  else if sl.irrev then (s.accept s.cur.1 sl.act bs, { sl with newer := newer })
  else
    let j := s.newJournal sl.journal bs
    if 64 < sl.journal.length + j.length then
      let r := s.irrevNow sl
      (r.1.accept s.cur.1 sl.act bs, { r.2 with newer := newer })
    else
      (s.accept s.cur.1 sl.act bs, { sl with journal := sl.journal ++ j, newer := newer })

/-- Whether an entry stands alone in the store buffer (Table 7.4). -/
def SEntry.alone (e : SEntry) : Bool :=
  e.rel || match e.op with
    | .store _ => false
    | _ => true

/-- Whether an entry is the plain store entry of a line. -/
def SEntry.isLine (e : SEntry) (line : Nat) : Bool :=
  match e.op with
  | .store ((_, key, _) :: _) => decide (key / 128 = line)
  | _ => false

/-- Joins bytes to the youngest entry for their line when no entry that stands alone stands after it (R126); the list is
youngest first. -/
def joinStore (line : Nat) (bs : List (Nat × Nat × Byte)) : List SEntry → Option (List SEntry)
  | [] => none
  | e :: es =>
    if e.alone then none
    else if e.isLine line then
      match e.op with
      | .store old => some ({ e with op := .store (old.filter (fun o => !bs.any (fun b => decide (b.2.1 = o.2.1))) ++ bs) } :: es)
      | _ => none
    else (joinStore line bs es).map (e :: ·)

/-- A non-local store of bytes of one line enters the store buffer (R126), or, irrevocable, leaves at once (R34). One that joins an
entry needs no new line and finds no full buffer (log 121). -/
def State.farStore (s : State) (sl : Slot) (bs : List (Nat × Nat × Byte)) (rel : Bool) (sc : BitVec 3) : State × Slot :=
  match bs with
  | [] => (s, sl)
  | b :: _ =>
    match if rel || sl.irrev then none else joinStore (b.2.1 / 128) bs sl.stores.reverse with
    | some es => (s, { sl with stores := es.reverse })
    | none => s.pushStore sl (.store bs) rel sc

/-- A `.rel` pool store enters the store buffer (R229); it is then its bytes' youngest store (R225). -/
def State.relStore (s : State) (sl : Slot) (bs : List (Nat × Nat × Byte)) (sc : BitVec 3) : State × Slot :=
  if bs = [] then (s, sl)
  else s.pushStore { sl with newer := sl.newer.filter (fun k => !bs.any (fun e => decide (e.2.1 = k))) } (.store bs) true sc

/-- Whether a `.rel` pool access must still wait before acceptance (R130, R229). -/
def State.relWaits (s : State) (sl : Slot) (sc : BitVec 3) : Bool :=
  let co := s.curCore
  !s.acked s.cur.1 sl.act co.released co.nextEntry sl.nextId sc

/-- A store of checked bytes: pool bytes in range, far bytes, and the first byte out of range (R14, R124 to R127, R229). -/
def State.storeAll (s : State) (i : Instr) (u : Ctl) (sl0 sl : Slot) (pool far : List (Nat × Nat × Byte))
    (oob : Option Nat) : State :=
  let rel := decide (u.mo = 2)
  if rel && decide (pool ≠ []) && decide (sl.stores = []) && s.relWaits sl u.sc then s.putCur sl0
  else
    let s1 := s.oobAt oob
    let buffered := rel && decide (sl.stores ≠ [])
    let r1 := if buffered then s1.relStore sl pool u.sc else s1.poolStore sl pool
    let lo := far.filter (fun e => decide (e.2.1 / 128 = (far.headD (0, 0, 0)).2.1 / 128))
    let hi := far.filter (fun e => decide (e.2.1 / 128 ≠ (far.headD (0, 0, 0)).2.1 / 128))
    let r2 := r1.1.farStore r1.2 lo rel u.sc
    let r3 := r2.1.farStore r2.2 hi rel u.sc
    r3.1.retire i u none r3.2

/-- The pool bytes of a store that lie in the scratchpad, and the first address that does not (R14). -/
def State.inRange (s : State) (t : Nat) (off : Nat) (bs : List (Nat × Nat × Byte)) :
    List (Nat × Nat × Byte) × Option Nat :=
  let ok (e : Nat × Nat × Byte) : Bool := decide (e.2.1 - poolKey t 0 < s.scrBytes t)
  (bs.filter ok, if off < s.scrBytes t ∧ bs.all ok then none else (bs.find? (fun e => !ok e)).map Prod.fst)

/-- A store in a region is noted with its value as it stands at issue (R59, R121); `alr.form` comes before `mem.align`, as
for a load (log 105). -/
def State.regionStore (s : State) (i : Instr) (u : Ctl) (sl : Slot) (va n : Nat) (v : Word) : State :=
  if u.mo ≠ 0 ∨ u.sc ≠ 0 ∨ !sl.regionTakes va n then s.trap0 sl .alrForm
  else if va % n ≠ 0 then s.trap sl .memAlign (w64 va)
  else
    let bs := (storeBytes va 0 n v).map (fun e => e.2.2)
    s.putCur (Slot.advance { sl.age with
      region := sl.region.map (fun r : Region => { r with accs := r.accs ++ [.store va bs] }) } i)

/-- A scalar store of the low `n` bytes of a value (R124, R198). -/
def State.storeAt (s : State) (i : Instr) (u : Ctl) (sl0 sl : Slot) (va n : Nat) (v : Word) (h : Hit) : State :=
  match h with
  | .bad c => s.trap sl c (w64 va)
  | .miss => s.askWalk sl0 va none true
  | .pool t off =>
    let r := s.inRange t off (storeBytes va (poolKey t off) n v)
    s.storeAll i u sl0 sl r.1 [] r.2
  | .far pa => (s.touch s.cur.1 va).storeAll i u sl0 sl [] (storeBytes va pa n v) none

/-- `st` (R124). -/
def execSt (u : Ctl) (k : StKind) (a b : Reg) (imm : BitVec 32) (s : State) : Out :=
  .next (s.issue (.st u k a b imm) u .scalar true fun sl =>
    if !sl.mayAccess then s.putCur sl else
    let e := effAddr s sl a imm
    if sl.region.isSome then
      s.regionStore (.st u k a b imm) u e.2 e.1 (stSize k) (sl.getX b)
    else s.storeAt (.st u k a b imm) u sl e.2 e.1 (stSize k) (sl.getX b) (s.resolve sl e.1 (stSize k) permW))

/-! ## Vector accesses (R127, R128, R295) -/

/-- The acting lanes, ascending. -/
def actLanes (m : BitVec 16) : List Nat := (List.range 16).filter (fun l => m.getLsbD l)

/-- The address of lane `l` of a 64-byte access. -/
def laneAddr (ea l : Nat) : Nat := (ea + 4 * l) % 2 ^ 64

/-- What stops a vector access at a lane: a trap with the lane, or a walk (R121, R292). -/
def State.laneStop (s : State) (sl0 : Slot) (addr : Nat → Nat) (e : Nat × Hit) : State :=
  match e.2 with
  | .bad c => s.takeTrap s.cur.1 s.cur.2 sl0.pc { cause := c, info := w64 (addr e.1), lane := some e.1 }
  | _ => s.askWalk sl0 (addr e.1) (some e.1) true

/-- The bytes of the lanes read: pool lanes with their values, far lanes with their keys; others are not touched. -/
def State.laneBytes (s : State) (sl : Slot) (addr : Nat → Nat) (hs : List (Nat × Hit)) : List (Nat × Option Byte) :=
  (List.range 16).flatMap (fun l => match hs.find? (fun e => decide (e.1 = l)) with
    | some (_, .pool t off) => (s.poolRead sl t off (addr l) 4).bytes.map (fun b => (0, some b))
    | some (_, .far pa) => s.farBytes sl pa 4
    | _ => List.replicate 4 (0, some 0))

/-- The first lane whose pool bytes are poisoned, and the first address out of range, in lane order. -/
def State.lanePool (s : State) (sl : Slot) (addr : Nat → Nat) (hs : List (Nat × Hit)) : Option Nat × Option Nat :=
  let rs := hs.filterMap (fun e => match e.2 with
    | .pool t off => some (e.1, s.poolRead sl t off (addr e.1) 4)
    | _ => none)
  ((rs.find? (fun r => r.2.poison.isSome)).map Prod.fst, rs.findSome? (fun r => r.2.oob))

/-- A vector load from checked lanes. -/
def State.loadLanes (s : State) (i : Instr) (u : Ctl) (sl : Slot) (d : Reg) (addr : Nat → Nat) (hs : List (Nat × Hit)) :
    State :=
  let p := s.lanePool sl addr hs
  let s1 := s.oobAt p.2
  let mask := sl.predMask u
  let bs := s.laneBytes sl addr hs
  match p.1 with
  | some l => s1.settleNow i u sl (.error { cause := .memPoison, info := w64 (addr l), lane := some l })
  | none =>
    let s2 := hs.foldl (fun t e => match e.2 with | .far _ => t.touch s.cur.1 (addr e.1) | _ => t) s1
    if allForwarded bs then
      s2.settleNow i u sl (loadResult .vec d mask (addr 0) (bs.map (fun e => e.2.getD 0)))
    else s2.launch i u sl d .vec (addr 0) mask (decide (u.mo = 1)) bs

/-- `ldv` (R127). -/
def execLdv (u : Ctl) (d a : Reg) (imm : BitVec 32) (s : State) : Out :=
  .next (s.issue (.ldv u d a imm) u .lanes false fun sl =>
    if !sl.mayAccess then s.putCur sl
    else
      let e := effAddr s sl a imm
      match s.resolveLanes sl (laneAddr e.1) permR (actLanes (sl.predMask u)) with
      | .error x => s.laneStop sl (laneAddr e.1) x
      | .ok hs => s.loadLanes (.ldv u d a imm) u e.2 d (laneAddr e.1) hs)

/-- The bytes that checked lanes store: pool bytes in range, far bytes, the first address out of range. -/
def State.laneStores (s : State) (addr : Nat → Nat) (v : Lanes) (hs : List (Nat × Hit)) :
    List (Nat × Nat × Byte) × List (Nat × Nat × Byte) × Option Nat :=
  hs.foldl (fun acc e =>
    let w : Word := (lane v e.1).setWidth 64
    match e.2 with
    | .pool t off =>
      let r := s.inRange t off (storeBytes (addr e.1) (poolKey t off) 4 w)
      (acc.1 ++ r.1, acc.2.1, if acc.2.2.isSome then acc.2.2 else r.2)
    | .far pa => (acc.1, acc.2.1 ++ storeBytes (addr e.1) pa 4 w, acc.2.2)
    | _ => acc) ([], [], none)

/-- `stv` (R127). -/
def execStv (u : Ctl) (a b : Reg) (imm : BitVec 32) (s : State) : Out :=
  .next (s.issue (.stv u a b imm) u .lanes false fun sl =>
    if !sl.mayAccess then s.putCur sl
    else
      let e := effAddr s sl a imm
      match s.resolveLanes sl (laneAddr e.1) permW (actLanes (sl.predMask u)) with
      | .error x => s.laneStop sl (laneAddr e.1) x
      | .ok hs =>
        let r := s.laneStores (laneAddr e.1) (sl.getV b) hs
        let s1 := hs.foldl (fun t x => match x.2 with | .far _ => t.touch s.cur.1 (laneAddr e.1 x.1) | _ => t) s
        s1.storeAll (.stv u a b imm) u sl e.2 r.1 r.2.1 r.2.2)

/-- The address of lane `l` of a pool gather or scatter (R128). -/
def gatherAddr (base : Nat) (v : Lanes) (l : Nat) : Nat := (base + (lane v l).toNat) % 2 ^ 64

/-- The checks of a pool gather or scatter: alignment, then a lane outside both windows traps `mem.window` (R121, R128). -/
def State.resolvePool (s : State) (sl : Slot) (addr : Nat → Nat) : List Nat → Except (Nat × Hit) (List (Nat × Hit))
  | [] => .ok []
  | l :: ls =>
    match s.resolve sl (addr l) 4 0 with
    | .pool t off => match s.resolvePool sl addr ls with
      | .error e => .error e
      | .ok hs => .ok ((l, .pool t off) :: hs)
    | .bad .memAlign => .error (l, .bad .memAlign)
    | _ => .error (l, .bad .memWindow)

/-- A window access of `ldvx` or `stvx` is performed after the stage has reached the bank (R227). -/
def State.flushPools (s : State) (hs : List (Nat × Hit)) : State :=
  hs.foldl (fun t e => match e.2 with | .pool o _ => if (t.core o).stage = [] then t else t.bankFlush o | _ => t) s

/-- `ldvx` (R128). -/
def execLdvx (u : Ctl) (d a b : Reg) (imm : BitVec 32) (s : State) : Out :=
  .next (s.issue (.ldvx u d a b imm) u .lanes false fun sl =>
    if !sl.mayAccess then s.putCur sl
    else
      let e := effAddr s sl a imm
      let addr := gatherAddr e.1 (sl.getV b)
      match s.resolvePool sl addr (actLanes (sl.predMask u)) with
      | .error x => s.laneStop sl addr x
      | .ok hs => (s.flushPools hs).loadLanes (.ldvx u d a b imm) u e.2 d addr hs)

/-- `stvx` (R128). -/
def execStvx (u : Ctl) (a b c : Reg) (imm : BitVec 32) (s : State) : Out :=
  .next (s.issue (.stvx u a b c imm) u .lanes false fun sl =>
    if !sl.mayAccess then s.putCur sl
    else
      let e := effAddr s sl a imm
      let addr := gatherAddr e.1 (sl.getV b)
      match s.resolvePool sl addr (actLanes (sl.predMask u)) with
      | .error x => s.laneStop sl addr x
      | .ok hs =>
        let s1 := s.flushPools hs
        let r := s1.laneStores addr (sl.getV c) hs
        s1.storeAll (.stvx u a b c imm) u sl e.2 r.1 r.2.1 r.2.2)

/-- `pref` (R129): a miss is sent to a walker, which loads the descriptor; nothing waits for it and nothing traps. While the
walker holds 64 misses the instruction waits to issue. -/
def execPref (u : Ctl) (a : Reg) (imm : BitVec 32) (s : State) : Out :=
  .next (s.issue (.pref u a imm) u .scalar false fun sl =>
    let e := effAddr s sl a imm
    match place s.cur.1 e.1 with
    | .pool _ _ => s.retire (.pref u a imm) u none e.2
    | .far va =>
      if s.translate s.cur.1 va 0 [] = .miss then
        let d := coreDie s.cur.1
        let m : Miss := { core := s.cur.1, slot := s.cur.2, act := sl.act, va := va, waits := false }
        if s.walkerFull s.cur.1 then s.putCur sl
        else (s.retire (.pref u a imm) u none e.2).modDie d (fun x => { x with misses := x.misses ++ [m] })
      else s.retire (.pref u a imm) u none e.2)

/-! ## Parcel pointers (R198) -/

/-- The parcel that covers an address, by the core's range table. -/
def State.parcelOf (s : State) (c va : Nat) : Option Desc :=
  ((s.core c).rtab.find? (fun e => e.desc.covers va)).map (fun e => e.desc)

/-- `ldp` (R198): a window address traps `range.perm` after the alignment check. -/
def execLdp (u : Ctl) (d a : Reg) (imm : BitVec 32) (s : State) : Out :=
  .next (s.issue (.ldp u d a imm) u .scalar false fun sl =>
    if !sl.mayAccess then s.putCur sl else
    let e := effAddr s sl a imm
    match s.resolve sl e.1 8 (permR ||| permP) with
    | .pool _ _ => s.trap e.2 .rangePerm (w64 e.1)
    | .miss => s.askWalk sl e.1 none true
    | h =>
      let p := (s.parcelOf s.cur.1 e.1).getD {}
      s.loadAt (.ldp u d a imm) u e.2 d (.ptr p.vbase (256 * p.size)) e.1 8 h)

/-- The parcel-relative form of a pointer, or none when it escapes (R198). -/
def toRelative (base limit : Nat) (t : Word) : Option Word :=
  if t = 0 then some (BitVec.allOnes 64)
  else if t.toNat < base ∨ limit ≤ t.toNat then none
  else some (w64 (t.toNat - base))

/-- `stp` (R198). -/
def execStp (u : Ctl) (a b : Reg) (imm : BitVec 32) (s : State) : Out :=
  .next (s.issue (.stp u a b imm) u .scalar false fun sl =>
    if !sl.mayAccess then s.putCur sl else
    let e := effAddr s sl a imm
    match s.resolve sl e.1 8 (permW ||| permP) with
    | .pool _ _ => s.trap e.2 .rangePerm (w64 e.1)
    | .far pa =>
      let p := (s.parcelOf s.cur.1 e.1).getD {}
      match toRelative p.vbase p.limit (sl.getX b) with
      | none => s.trap e.2 .parcelEscape (sl.getX b)
      | some o => s.storeAt (.stp u a b imm) u sl e.2 e.1 8 o (.far pa)
    | h => s.storeAt (.stp u a b imm) u sl e.2 e.1 8 0 h)

/-! ## Delivering an outstanding result -/

/-- Delivers the result of outstanding load `l` to slot `k` of core `c`: into its landing buffer, or, untagged, to its
register at its write point; an untagged fault traps (R58, R74, R77, R106). The hold of R58 ends with the reply: with PD = d
the write still comes d issues later (R72; log 103). -/
def State.deliver (s : State) (c k : Nat) (l : Load) (r : Except Trap RegWrite) : State :=
  let r := r.map (RegWrite.whole l.old)
  let s1 := s.modSlot c k (fun sl => { sl with loads := sl.loads.filter (fun x => decide (x.id ≠ l.id)) })
  if l.tag = 0 then
    match r with
    | .ok w => s1.modSlot c k (fun sl =>
        let sl1 := { sl with hold := .ready }
        if l.pd = 0 then sl1.write w else { sl1 with late := sl1.late ++ [(l.pd, w)] })
    | .error t => s1.takeTrap c k l.pc t
  else s1.modSlot c k (fun sl => { sl with landing := sl.landing.map (fun x =>
    if x.st = .wait l.id then { x with st := match r with | .ok w => .ready w | .error t => .fault t } else x) })

/-- The write that lands a 64-bit or predicate value. -/
def Load.value (l : Load) (x : Word) : RegWrite := { d := l.d, x := x, mask := l.mask }

end Sys2Proof.Machine
end

