-- ==== Sys2Proof/Machine/Atomic.lean ====
section
/-! DEFINITION. Atomics, compare and swap, atomic line regions and fences (07_isa_memory_sync R131 to R138). -/

namespace Sys2Proof.Machine

/-! ## The arithmetic (Table 7.6) -/

/-- The size of an atomic: X[32] = 1 is `.w` (R131). -/
def atomBytes (w : BitVec 1) : Nat := if w = 1 then 4 else 8
/-- The low `n` bytes of a word. -/
def narrow (n : Nat) (x : Word) : Word := if n = 4 then (x.setWidth 32).setWidth 64 else x
/-- A signed comparison in the size. -/
def signedLe (n : Nat) (a b : Word) : Bool :=
  if n = 4 then (a.setWidth 32).sle (b.setWidth 32) else a.sle b

/-- The new value of an atomic on old value `m` and operand `b`, for requesting core `core` (Table 7.6). -/
def atomNew (op : AtomOp) (core n : Nat) (m b : Word) : Word :=
  match op with
  | .add => narrow n (m + b)
  | .and => m &&& b
  | .or => m ||| b
  | .xor => m ^^^ b
  | .minI => if signedLe n m b then m else b
  | .minN => if m.ule b then m else b
  | .maxI => if signedLe n b m then m else b
  | .maxN => if b.ule m then m else b
  | .swap => b
  | .fadd => w64 (Float.add .f32 0 { core := core, idx := 0 } (m.toNat % 2 ^ 32) (b.toNat % 2 ^ 32)).1

/-- The bytes of an atomic operation. -/
def LoadOp.size : LoadOp → Nat
  | .atom _ n _ => n
  | .cas n .. => n
  | _ => 8

/-- What an atomic writes over old value `m`; none when a comparison fails (R131, R134). -/
def LoadOp.newValue (core : Nat) (m : Word) : LoadOp → Option Word
  | .atom op n b => some (atomNew op core n m (narrow n b))
  | .cas n c v => if m = narrow n c then some (narrow n v) else none
  | _ => none

/-! ## Performing an atomic (R132) -/

/-- An atomic on a pool word, performed at issue and journalled, after the port's stage has reached the bank (R132, R227).
It reads as a load of its activation does (R225). A poisoned word is left as it is and the access faults (R133). A release first lets the span's buffered entries go, which
makes the span irrevocable, since it is performed only after they are acknowledged (R130, R229; log 104). -/
def State.atomPool (s : State) (i : Instr) (u : Ctl) (sl0 sl : Slot) (d : Reg) (op : LoadOp) (t off va : Nat) : State :=
  if u.mo.getLsbD 1 && decide (sl.stores ≠ []) then (s.irrevNow sl0).1
  else if u.mo.getLsbD 1 && s.relWaits sl u.sc then s.putCur sl0
  else
    let n := op.size
    let s1 := s.bankFlush t
    let rs := (List.range n).map (fun j => s1.poolSeen sl t (off + j))
    let s2 := s1.oobAt ((rs.findIdx? (fun r => r.2.2)).map (va + ·))
    if rs.any (fun r => r.2.1) then s2.settleNow i u sl (.error (poisonTrap false va va))
    else
      let old := w64 (leNat (rs.map (fun r => r.1)))
      let r := match op.newValue s.cur.1 old with
        | none => (s2, sl)
        | some v => s2.poolStore sl (s2.inRange t off (storeBytes va (poolKey t off) n v)).1
      r.1.settleNow i u r.2 (.ok { d := d, x := old })

/-- A result-returning atomic on a translated address: the span becomes irrevocable first, and the value comes with
LOAD_REPLY (R132). -/
def State.atomFar (s : State) (i : Instr) (u : Ctl) (sl : Slot) (d : Reg) (op : LoadOp) (pa va : Nat) : State :=
  let r := (s.touch s.cur.1 va).irrevNow sl
  r.1.launch i u r.2 d op va 0xFFFF (u.mo.getLsbD 0) ((List.range op.size).map (fun j => (pa + j, none)))

/-- `atom` (R131 to R133). -/
def execAtom (u : Ctl) (op : AtomOp) (w : BitVec 1) (d a b : Reg) (imm : BitVec 32) (s : State) : Out :=
  .next (s.issue (.atom u op w d a b imm) u .scalar false fun sl =>
    if !sl.mayAccess then s.putCur sl else
    let n := atomBytes w
    let e := effAddr s sl a imm
    let x := sl.getX b
    match s.resolve sl e.1 n (permR ||| permW ||| permA) with
    | .bad c => s.trap e.2 c (w64 e.1)
    | .miss => s.askWalk sl e.1 none true
    | .pool t off => s.atomPool (.atom u op w d a b imm) u sl e.2 d (.atom op n x) t off e.1
    | .far pa =>
      if d.toNat = 0 then
        let r := (s.touch s.cur.1 e.1).pushStore e.2 (.posted e.1 pa op n x) (u.mo.getLsbD 1) u.sc
        r.1.retire (.atom u op w d a b imm) u (some {}) r.2
      else s.atomFar (.atom u op w d a b imm) u e.2 d (.atom op n x) pa e.1)

/-- `cas` (R134). -/
def execCas (u : Ctl) (w : BitVec 1) (d a b c : Reg) (imm : BitVec 32) (s : State) : Out :=
  .next (s.issue (.cas u w d a b c imm) u .scalar false fun sl =>
    if !sl.mayAccess then s.putCur sl else
    let n := atomBytes w
    let e := effAddr s sl a imm
    let op : LoadOp := .cas n (sl.getX b) (sl.getX c)
    match s.resolve sl e.1 n (permR ||| permW ||| permA) with
    | .bad x => s.trap e.2 x (w64 e.1)
    | .miss => s.askWalk sl e.1 none true
    | .pool t off => s.atomPool (.cas u w d a b c imm) u sl e.2 d op t off e.1
    | .far pa => s.atomFar (.cas u w d a b c imm) u e.2 d op pa e.1)

/-! ## Atomic line regions (R59, R135) -/

/-- `alr.b` (R135): opens a region on a line that passes the checks. -/
def execAlrB (u : Ctl) (a : Reg) (imm : BitVec 32) (s : State) : Out :=
  .next (s.issue (.alrB u a imm) u .scalar false fun sl =>
    if !sl.mayAccess then s.putCur sl else
    let e := effAddr s sl a imm
    let line := e.1 / 128 * 128
    match s.resolve sl line 8 (permR ||| permW ||| permA) with
    | .bad c => s.trap e.2 c (w64 line)
    | .miss => s.askWalk sl line none true
    | .pool t off =>
      let r : Region := { line := line, key := poolKey t off, remote := false, mo := u.mo, sc := u.sc }
      s.retire (.alrB u a imm) u none { e.2 with region := some r }
    | .far pa =>
      let r : Region := { line := line, key := pa, remote := true, mo := u.mo, sc := u.sc }
      (s.touch s.cur.1 line).retire (.alrB u a imm) u none { e.2 with region := some r })

/-- Whether an access of a region is a load. -/
def RegionAcc.isLoad : RegionAcc → Bool
  | .load .. => true
  | .store .. => false

/-- The landing entries of a region's loads take their results, in order (R135). -/
def landAll (ls : List Land) : List (Nat × Except Trap RegWrite) → List Land
  | [] => ls
  | (id, r) :: rs => landAll (ls.map (fun x => if x.st = .wait id then
      { x with st := match r with | .ok w => .ready w | .error t => .fault t } else x)) rs

/-- The result of a load in a region from what its bytes hold: (byte, poisoned, out of range). -/
def regionResult (k : LdKind) (d : Reg) (va : Nat) (rs : List (Byte × Bool × Bool)) : Except Trap RegWrite :=
  if rs.any (fun r => r.2.1) then .error (poisonTrap false va va)
  else .ok { d := d, x := ldValue k (rs.map (fun r => r.1)) }

/-- Performs a region's accesses on a pool line in program order, journalling its stores, each of which reaches the bank before
the next access, so that one that a poisoned word drops is not read; the loads' results come in order (R135, R225). -/
def State.regionPool (s : State) (sl : Slot) (r : Region) (ids : List Nat) : List RegionAcc →
    State × Slot × List (Nat × Except Trap RegWrite)
  | [] => (s, sl, [])
  | .load k d _ _ va :: as =>
    let t := keyCore r.key
    let off := r.key + (va - r.line) - poolKey t 0
    let rs := (List.range (ldSize k)).map (fun j => s.poolSeen sl t (off + j))
    let s1 := s.oobAt ((rs.findIdx? (fun x => x.2.2)).map (va + ·))
    let rest := s1.regionPool sl r ids.tail as
    (rest.1, rest.2.1, (ids.headD 0, regionResult k d va rs) :: rest.2.2)
  | .store va bs :: as =>
    let t := keyCore r.key
    let key := r.key + (va - r.line)
    let x := s.inRange t (key - poolKey t 0) (bs.zipIdx.map (fun b => (va + b.2, key + b.2, b.1)))
    let y := (s.oobAt x.2).poolStore sl x.1
    (y.1.bankFlush t).regionPool y.2 r ids as

/-- The bytes of a region's line that its accesses touch, by key: none of them is forwarded (R122, R236). -/
def Region.bytes (r : Region) : List (Nat × Option Byte) :=
  (r.accs.flatMap (fun a => match a with
    | .load k _ _ _ va => (List.range (ldSize k)).map (fun j => r.key + (va - r.line) + j)
    | .store va bs => (List.range bs.length).map (fun j => r.key + (va - r.line) + j))).eraseDups.map (fun k => (k, none))

/-- `alr.e` (R135). A region on a pool line that is a release lets the span's buffered entries go first, as an atomic there
does (log 104). -/
def execAlrE (u : Ctl) (s : State) : Out :=
  .next (s.issue (.alrE u) u .scalar true fun sl =>
    match sl.region with
    | none => s.trap0 sl .alrForm
    | some r =>
      if !sl.mayAccess then s.putCur sl else
      let nl := r.accs.countP RegionAcc.isLoad
      let ids := (List.range nl).map (fun j => sl.nextId - nl + j)
      let sl1 := { sl with region := none }
      if !r.remote then
        if r.mo.getLsbD 1 && decide (sl.stores ≠ []) then (s.irrevNow sl).1
        else if r.mo.getLsbD 1 && s.relWaits sl r.sc then s.putCur sl
        else
          let p := (s.bankFlush (keyCore r.key)).regionPool sl1 r ids r.accs
          let s1 := p.1.bankFlush (keyCore r.key)
          s1.retire (.alrE u) u none { p.2.1 with landing := landAll p.2.1.landing p.2.2 }
      else if r.accs = [] then s.retire (.alrE u) u none sl1
      else if nl = 0 then
        let p := s.pushStore sl1 (.region r) (r.mo.getLsbD 1) r.sc
        p.1.retire (.alrE u) u none p.2
      else
        let p := s.irrevNow sl1
        let l : Load := { id := p.2.nextId, op := .region r ids, tag := 1, pc := sl.pc, va := r.line,
                          acq := r.mo.getLsbD 0, rel := r.mo.getLsbD 1, sc := r.sc, bytes := r.bytes, ent := p.1.curCore.nextEntry }
        p.1.retire (.alrE u) u none { p.2 with loads := p.2.loads ++ [l], nextId := p.2.nextId + 1 })

/-! ## Fences (R136, R138) -/

/-- `fence` (R136): the acquire half makes later accesses wait for every load now out; the release half places a marker
in the store buffer, which the injection entries that follow stand behind. -/
def execFence (u : Ctl) (s : State) : Out :=
  .next (s.issue (.fence u) u .scalar false fun sl =>
    let sl1 := if u.mo = 2 then sl
      else { sl with loads := sl.loads.map (fun l => if l.op.isAccess then { l with acq := true } else l) }
    let r := if u.mo = 1 then (s, sl1) else s.pushStore sl1 .marker false u.sc
    r.1.retire (.fence u) u none r.2)

/-- `ifence` (R138, R227): waits until the slot's own stores have left the stage, then discards the fetched line. -/
def execIfence (u : Ctl) (s : State) : Out :=
  .next (s.issue (.ifence u) u .scalar false fun sl =>
    if s.staging s.cur.1 sl.act s.curCore.nextEntry then s.putCur sl
    else s.retire (.ifence u) u none { sl with line := none, ahead := [], fresh := s.tick })

end Sys2Proof.Machine
end

