-- ==== Sys2Proof/Machine/Fetch.lean ====
section
/-! DEFINITION. Fetching: the check bits of a line (04_encoding R62, R63), the line word (R61, R64, R65), entries (R66),
and the traps that stand before decode (Table 4.6, orders 1 to 4). A line is a number of 512 bits, byte 0 lowest. -/

namespace Sys2Proof.Machine

/-! ## The check bits (R62) -/

/-- The first data bit of the positions between 2^j and 2^(j+1). -/
def eccStart (j : Nat) : Nat := 2 ^ j - 1 - j

/-- The 512-bit code word: data bits at the positions that are no powers of two, ECC bit [22 + k] at position 2^k, ECC
bit [31] at position 0 (R62). -/
def eccWord (line : Nat) : Nat :=
  let d := line % 2 ^ 502
  let data := (List.range 8).foldl (fun a i =>
    let j := i + 1
    a + d / 2 ^ eccStart j % 2 ^ (2 ^ j - 1) * 2 ^ (2 ^ j + 1)) 0
  let checks := (List.range 9).foldl (fun a k => a + line / 2 ^ (502 + k) % 2 * 2 ^ 2 ^ k) 0
  data + checks + line / 2 ^ 511 % 2

/-- The parity of a 512-bit number. -/
def parity512 (n : Nat) : Nat :=
  [256, 128, 64, 32, 16, 8, 4, 2, 1].foldl (fun a k => (a ^^^ (a / 2 ^ k)) % 2 ^ k) n

/-- The positions 0 to 511 whose bit k is set, as a mask. -/
def eccMask (k : Nat) : Nat := (2 ^ 512 - 1) / (2 ^ 2 ^ k + 1) * 2 ^ 2 ^ k

/-- The position that the check bits of a line name, 0 when they agree. -/
def eccSyndrome (line : Nat) : Nat :=
  let w := eccWord line
  (List.range 9).foldl (fun a k => a + parity512 (w &&& eccMask k) * 2 ^ k) 0

/-- The line with its ECC bits set as R62 computes them. -/
def eccFill (line : Nat) : Nat :=
  let d := line % 2 ^ 502
  let s := eccSyndrome d
  let l1 := d + s * 2 ^ 502
  l1 + parity512 (eccWord l1) * 2 ^ 511

/-- What reading a line comes to. -/
inductive LineRead where
  | ok (line : Nat)
  | corrected (line : Nat)
  | failed
  deriving DecidableEq, Repr

/-- SEC-DED: an odd total parity is a single-bit error at the syndrome's position, an even one with a nonzero syndrome
is uncorrectable (R63). -/
def eccRead (line : Nat) : LineRead :=
  let s := eccSyndrome line
  if parity512 (eccWord line) = 1 then
    if s = 0 ∨ 2 ^ Nat.log2 s = s then .corrected line
    else
      let j := Nat.log2 s
      .corrected (line ^^^ 2 ^ (eccStart j + (s - 2 ^ j - 1)))
  else if s = 0 then .ok line else .failed

/-! ## The line word (Table 4.2) -/

/-- The line word. -/
def lineWord (line : Nat) : Nat := line / 2 ^ 480
/-- TM bit `i`. -/
def lineTm (line i : Nat) : Bool := (lineWord line).testBit (17 + i)
/-- PT bit `i`. -/
def linePt (line i : Nat) : Bool := (lineWord line).testBit (13 + i)
/-- LK. -/
def lineLk (line : Nat) : Nat := nbits (lineWord line) 11 2
/-- The word of slot `i`. -/
def lineSlot (line i : Nat) : IWord := BitVec.ofNat 96 (line / 2 ^ (96 * i))

/-- Whether an instruction issues on the M port (Table 4.7): an A/M instruction does when any register operand is a vector
register; the fields of an instruction's word that are no operand of it hold 0. None for what has no word. -/
def instrPortM (i : Instr) : Option Bool :=
  i.fields.map (fun f =>
    let op := f.op.toNat
    if [0x00, 0x01, 0x10, 0x11, 0x20, 0x24, 0x30, 0x31, 0x32, 0xE0].contains op then false
    else if [0x21, 0x22, 0x23, 0x40, 0x41, 0x42, 0x43, 0x44, 0x45].contains op then
      Reg.isV f.d || Reg.isV f.a || Reg.isV f.b || Reg.isV (f.x.extractLsb' 7 6)
    else true)

/-- The instruction that a word's OP and FN name for its port: a float whose type code is unassigned (Table 6.1) still has the
registers of its form. -/
def Fields.named (f : Fields) : Option Instr :=
  match f.candidate with
  | some i => some i
  | none => if 0x40 ≤ f.op.toNat ∧ f.op.toNat ≤ 0x45 then Fields.candidate { f with x := f.x &&& 0x1F80 } else none

/-- Whether an instruction word issues on the M port; none for an OP and FN that Table 4.7 does not list, which lists no
port for them either (log 100). -/
def portM (w : IWord) : Option Bool := (Fields.named (Fields.unpack w)).bind instrPortM

/-- Whether the pair of slots `i` and `i + 1` breaks a pair rule of R64. -/
def pairBad (line i : Nat) : Bool :=
  linePt line i &&
    ((decide (i < 3) && linePt line (i + 1)) || lineTm line (i + 1) ||
      (match portM (lineSlot line i), portM (lineSlot line (i + 1)) with
       | some a, some b => a == b
       | _, _ => false))

/-- Whether an issue from slot `i` finds the line illegal (R64). -/
def lineIllegal (line i : Nat) : Bool :=
  decide (lineLk line = 3) || decide (nbits (lineWord line) 0 11 ≠ 0) ||
  (match (List.range 4).find? (pairBad line) with
   | some f => decide (f ≤ i)
   | none => false)

/-! ## Reading lines -/

/-- Where the line at an offset of a code space stands, local code or the program range: its memory key, or the cause that
keeps it from being read (R80). Program-range lines need permission `need`; one in an aperture is reached as any access there, and
another device may answer with a fault (R289, R322). -/
def State.codeKey (s : State) (c : Nat) (loc : Bool) (at' : Nat) (need : BitVec 8) : Except Cause Nat :=
  let off := at' / 64 * 64
  if loc then
    if s.scrBytes c ≤ off then .error .fetchFault else .ok (poolKey c off)
  else
    match (s.core c).ctx with
    | none => .error .fetchFault
    | some k =>
      match s.dirFind k (s.ctx k).prog with
      | none => .error .fetchFault
      | some d =>
        if d.vbase ≠ (s.ctx k).prog ∨ d.limit ≤ d.vbase + off then .error .fetchFault
        else match d.access (d.vbase + off) need [] with
          | .ok pa => match s.reach k pa need with
            | .mem key => .ok key
            | .away _ => if Config.peerFaults s.tick pa then .error .fetchFault else .ok pa
            | .fault _ => .error .fetchFault
          | _ => .error .fetchFault

/-- Where the line of a PC stands (R80). -/
def State.lineKey (s : State) (c : Nat) (pc : Nat) (need : BitVec 8) : Except Cause Nat :=
  s.codeKey c (decide (2 ^ 31 ≤ pc)) (pc % 2 ^ 31) need

/-- Whether a line stands in memory of another device. -/
def lineAway (key : Nat) : Bool := !keyIsPool key && decide (paClass key = .peer)

/-- The 64 bytes of a line: what another device answers is free. -/
def State.lineBytes (s : State) (key : Nat) : List Byte :=
  if lineAway key then (List.range 64).map (fun i => Config.peerByte s.tick (key + i)) else s.bytes key 64

/-- Core `c` asks another device for the line that stands there; the model takes the answer in the same step (R322; log 130). -/
def State.askLine (s : State) (c key : Nat) : State :=
  match s.awayDev key with
  | some dev => s.sendCell dev (s.reqCell c 0 dev key false)
  | none => s

/-- The 64 bytes at a key as a line, checked; a poisoned word makes the line uncorrectable in both copies (R63, R239). -/
def State.readLine (s : State) (key : Nat) : LineRead :=
  if (List.range 8).any (fun i => s.poisoned (key + 8 * i)) then .failed else eccRead (leNat (s.lineBytes key))

/-- The error that a line of core `c` has (Table 16.5: level 4, unit 6). -/
def lineErr (s : State) (c k kind : Nat) (cause : Nat) (pc : Pc) : ErrRec :=
  { level := 4, kind := kind, cause := cause, saddr := pc.setWidth 64, unit := 6, die := coreDie c, idx := c, cpc := pc.setWidth 64,
    cmsg := s.consumer c k }

/-- A corrected line counts in the instruction-fetch errors, level 4 (R63, R206). -/
def State.countFetch (s : State) (c k : Nat) (pc : Pc) : State :=
  s.errFixed (s.coreOwner c) (lineErr s c k 0 0 pc) false

/-- Whether the line of a PC holds a poisoned word, which was recorded when it was poisoned (R308). -/
def State.linePoisoned (s : State) (c : Nat) (pc : Pc) : Bool :=
  match s.lineKey c pc.toNat permX with
  | .ok key => (List.range 8).any (fun i => s.poisoned (key + 8 * i))
  | .error _ => false

/-- TAKING A TRAP THAT STANDS BEFORE DECODE: a line that its check bits fail also writes an error record (R63, R315). -/
def State.fetchTrap (s : State) (c k : Nat) (pc : Pc) (t : Trap) : State :=
  if t.cause = .fetchUe ∧ s.linePoisoned c pc = false then
    (s.errBad (s.coreOwner c) (lineErr s c k 1 t.cause.code pc)).takeTrap c k pc t
  else s.takeTrap c k pc t

/-- What fetching for a slot comes to: an instruction, a trap with the record's PC, or nothing to issue; with the state
that the reading of the line leaves. -/
inductive Fetched where
  | none
  | instr (i : Instr) (s : State)
  | trap (pc : Pc) (t : Trap) (s : State)

/-- The checks of Table 4.6, orders 1 to 6, on a line that has been read. -/
def fetchIn (line : Nat) (sl : Slot) (s : State) : Fetched :=
  let i := sl.pc.toNat % 64 / 12
  let from_ := sl.entry.getD sl.pc
  if sl.entry.isSome && !lineTm line i then .trap from_ { cause := .fetchTarget, info := sl.pc.setWidth 64 } s
  else if lineLk line = 1 ∨ lineLk line = 2 then .trap from_ { cause := .fetchTarget, info := sl.pc.setWidth 64 } s
  else if lineIllegal line i then .trap sl.pc { cause := .instrIllegal, info := Config.openInfo s.tick } s
  else match decode (lineSlot line i) with
    | .error .illegal => .trap sl.pc { cause := .instrIllegal, info := Config.openInfo s.tick } s
    | .error .modifier => .trap sl.pc { cause := .instrModifier, info := Config.openInfo s.tick } s
    | .error .operand => .trap sl.pc { cause := .instrOperand, info := Config.openInfo s.tick } s
    | .ok ins => .instr ins s

/-- A program-range line that is read stands in the cluster's instruction cache, which holds 64 KiB (Table 1.6, R81). -/
def State.cacheLine (s : State) (c key line : Nat) : State :=
  if keyIsPool key then s else
  let k := coreCluster c
  let mine := s.code.filter (fun e => decide (e.cluster = k) && decide (e.key ≠ key))
  { s with code := s.code.filter (fun e => decide (e.cluster ≠ k)) ++ mine.drop (mine.length - 1023) ++
      [{ cluster := k, key := key, bytes := leBytes 64 line, at' := s.tick }] }

/-- A line becomes the slot's current line. -/
def State.takeLine (s : State) (c k : Nat) (base : Pc) (bs : List Byte) : State :=
  s.modSlot c k (fun sl => { sl with
    line := some (base, bs), ahead := sl.ahead.filter (fun e => decide (e.1 ≠ base)), task := none })

/-- Reads the line afresh and keeps it in the slot. -/
def State.fetchFresh (s : State) (c k : Nat) (sl : Slot) (base : Pc) : Fetched :=
    match s.lineKey c sl.pc.toNat permX with
    | .error e => .trap sl.pc { cause := e, info := sl.pc.setWidth 64 } s
    | .ok key =>
      match s.readLine key with
      | .failed => .trap sl.pc { cause := .fetchUe, info := sl.pc.setWidth 64 } s
      | .ok line => fetchIn line sl (((s.askLine c key).cacheLine c key line).takeLine c k base (leBytes 64 line))
      | .corrected line => fetchIn line sl
          ((((s.askLine c key).countFetch c k sl.pc).cacheLine c key line).takeLine c k base (leBytes 64 line))

/-- The line that an address of the slot's code stands in, if the slot holds it: its current line, or one fetched ahead. -/
def Slot.heldLine (sl : Slot) (base : Pc) : Option (List Byte) :=
  match sl.line with
  | some (b, bs) => if b = base then some bs else (sl.ahead.find? (fun e => decide (e.1 = base))).map Prod.snd
  | none => (sl.ahead.find? (fun e => decide (e.1 = base))).map Prod.snd

/-- Fetches the instruction that slot `k` of core `c` is to issue (R63 to R66, R80 to R82; log 9). The first issue of a
task checks its PC before that (R38). -/
def State.fetch (s : State) (c k : Nat) : Fetched :=
  match s.slot c k with
  | none => .none
  | some sl =>
    let progSize := match (s.core c).ctx with
      | some x => ((s.dirFind x (s.ctx x).prog).map (fun d => 256 * d.size)).getD 0
      | none => 0
    if sl.task.any (fun w => !slotStart w.toNat || decide (progSize ≤ w.toNat)) then
      .trap sl.pc { cause := .taskPc, info := sl.task.getD 0 } s
    else if !slotStart sl.pc.toNat then .trap (sl.entry.getD sl.pc) { cause := .fetchTarget, info := sl.pc.setWidth 64 } s
    else
      let base := BitVec.ofNat 32 (sl.pc.toNat / 64 * 64)
      match sl.heldLine base with
      | some bs => fetchIn (leNat bs) sl (s.takeLine c k base bs)
      | none => s.fetchFresh c k sl base

/-! ## Lines fetched ahead and the instruction cache (R81, R233) -/

/-- The slot fetches one more line ahead of its current one, up to three. A line that fails its check is not held and
traps nothing (R63). -/
def fetchAhead (c k : Nat) (s : State) : State :=
  match s.slot c k with
    | none => s
    | some sl => match sl.line with
      | none => s
      | some (b, _) =>
        let base : Pc := b + BitVec.ofNat 32 (64 * (sl.ahead.length + 1))
        if 3 ≤ sl.ahead.length ∨ sl.heldLine base ≠ none then s
        else match s.lineKey c base.toNat permX with
          | .error _ => s
          | .ok key =>
            let put (t : State) (line : Nat) : State := (t.cacheLine c key line).modSlot c k (fun sl => { sl with
              ahead := sl.ahead ++ [(base, leBytes 64 line)] })
            match s.readLine key with
            | .failed => s
            | .ok line => put (s.askLine c key) line
            | .corrected line => put ((s.askLine c key).countFetch c k base) line

/-- The slot takes its next line from the cluster's instruction cache, as it stood when the cache read it, unless the slot
has been bound or has executed `ifence` since. -/
def fetchCached (c k : Nat) (s : State) : State :=
  match s.slot c k with
    | none => s
    | some sl =>
      let base := BitVec.ofNat 32 (sl.pc.toNat / 64 * 64)
      if sl.heldLine base ≠ none then s
      else match s.lineKey c sl.pc.toNat permX with
        | .error _ => s
        | .ok key =>
          match s.code.find? (fun e => decide (e.cluster = coreCluster c) && decide (e.key = key) && decide (sl.fresh ≤ e.at')) with
          | none => s
          | some e => s.modSlot c k (fun sl => { sl with line := some (base, e.bytes) })

end Sys2Proof.Machine
end

