-- ==== Sys2Proof/Machine/Control.lean ====
section
/-! DEFINITION. Control transfers, the signature check, no-operation and software traps, and the ends of a span
(05_isa_integer_control R95 to R103; 04 R82; 07 R137). -/

namespace Sys2Proof.Machine

/-- `illegal` traps `instr.illegal` in every form (R82). -/
def execIllegal (_u : Ctl) (s : State) : Out :=
  .next (match s.curSlot with
    | none => s
    | some sl => s.trap0 sl .instrIllegal)

/-- PC[31] | ((PC[30:0] + sext(IMM, 32)) mod 2^31): a relative target stays in its code space (R95). -/
def relTarget (pc : Pc) (imm : BitVec 32) : Pc := (pc &&& 0x80000000) ||| ((pc + imm) &&& 0x7FFFFFFF)

/-- `br` (Table 5.6). -/
def execBr (u : Ctl) (imm : BitVec 32) (s : State) : Out :=
  .next (s.issue (.br u imm) u .scalar false fun sl =>
    s.retireTo (.br u imm) u none (relTarget sl.pc imm) sl)
/-- `j` (Table 5.6). -/
def execJ (u : Ctl) (imm : BitVec 32) (s : State) : Out :=
  .next (s.issue (.j u imm) u .scalar false fun sl => s.retireTo (.j u imm) u none imm sl)
/-- `jal` (Table 5.6). -/
def execJal (u : Ctl) (d : Reg) (imm : BitVec 32) (s : State) : Out :=
  .next (s.issue (.jal u d imm) u .scalar false fun sl =>
    s.retireTo (.jal u d imm) u (some { d := d, x := (nextPc sl.pc).setWidth 64 }) imm sl)
/-- `jr` (Table 5.6): a register with nonzero bits [63:32] traps `fetch.target`. -/
def execJr (u : Ctl) (a : Reg) (s : State) : Out :=
  .next (s.issue (.jr u a) u .scalar false fun sl =>
    let t := sl.getX a
    if bits t 32 32 ≠ 0 then s.trap sl .fetchTarget t
    else s.retireTo (.jr u a) u none (t.setWidth 32) sl)
/-- `loop` (R97). -/
def execLoop (u : Ctl) (d : Reg) (imm : BitVec 32) (s : State) : Out :=
  .next (s.issue (.loop u d imm) u .scalar false fun sl =>
    let n := sl.getX d - 1
    if n ≠ 0 then s.retireTo (.loop u d imm) u (some { d := d, x := n }) (relTarget sl.pc imm) sl
    else s.retire (.loop u d imm) u (some { d := d, x := n }) sl)

/-- The address of jump-table entry `i` (R98). -/
def jtabAddr (base : BitVec 32) (i : Nat) : Nat := base.toNat + 64 * (i / 15) + 4 * (i % 15)

/-- The jump-table entry at an address of the code space that base[31] names, with the key of its line, if that can be read as a
signature table (R65, R98). -/
def State.jtabEntry (s : State) (c : Nat) (base : BitVec 32) (ea : Nat) : Option (Pc × Nat) :=
  match s.codeKey c (base.getLsbD 31) (if base.getLsbD 31 then ea - 2 ^ 31 else ea) permR with
  | .error _ => none
  | .ok key =>
    let pick (line : Nat) : Option (Pc × Nat) :=
      if lineLk line = 2 then some (BitVec.ofNat 32 (line / 2 ^ (8 * (ea % 64))), key) else none
    match s.readLine key with
    | .failed => none
    | .ok line => pick line
    | .corrected line => pick line

/-- `jtab` (R98). -/
def execJtab (u : Ctl) (a : Reg) (len : BitVec 7) (base : BitVec 32) (s : State) : Out :=
  .next (s.issue (.jtab u a len base) u .scalar false fun sl =>
    let i := (sl.getX a).toNat
    if len.toNat ≤ i then s.retire (.jtab u a len base) u none sl
    else match s.jtabEntry s.cur.1 base (jtabAddr base i) with
      | none => s.trap sl .jtabFault (w64 (jtabAddr base i))
      | some t => (s.askLine s.cur.1 t.2).retireTo (.jtab u a len base) u none t.1 sl)

/-- `sig` (R79, R100): checks S, is not folded, acts whatever PR. -/
def execSig (u : Ctl) (imm : BitVec 24) (s : State) : Out :=
  .next (s.issue (.sig u imm) u .always false fun sl =>
    if sl.sig ≠ imm then
      s.takeTrap s.cur.1 s.cur.2 sl.pc
        { cause := .sigMismatch, info := Config.openInfo s.tick, info2 := sl.sig.setWidth 64 }
    else s.putCur { sl.age with pc := nextPc sl.pc, entry := none, fails := 0, sig := (nextPc sl.pc).setWidth 24 })
/-- `nop` (R100). -/
def execNop (u : Ctl) (s : State) : Out :=
  .next (s.issue (.nop u) u .scalar false fun sl => s.retire (.nop u) u none sl)
/-- `brk` (R100): traps when bit BRK of `dbg` is 1. -/
def execBrk (u : Ctl) (imm : BitVec 32) (s : State) : Out :=
  .next (s.issue (.brk u imm) u .scalar false fun sl =>
    if (s.ctx (s.coreCtx s.cur.1)).dbg = 1 then s.trap sl .debugBreak (zext32 imm)
    else s.retire (.brk u imm) u none sl)
/-- `trap` (R100). -/
def execTrap (u : Ctl) (imm : BitVec 32) (s : State) : Out :=
  .next (s.issue (.trap u imm) u .scalar false fun sl => s.trap sl .userTrap (zext32 imm))

/-! ## Ends of a span -/

/-- What `done` and `commit` do first: pending writes are applied, every tag and load is awaited (R77, R101, R102). While one
is out the slot waits as it is, so that the instruction acts under the predicate with which it began. Tags are awaited from t1 to
t7, and of results of two tags for one register the higher tag's stands, as where CT names both; the spec leaves that order open here
(log 123). A `gang` that no `mma` followed traps `mat.form` (R161). -/
def State.awaitAll (s : State) (sl : Slot) (go : Slot → State) : State :=
  if sl.unpaired ≠ 0 then s.trap0 sl .matForm
  else match sl.flushLate.consume [1, 2, 3, 4, 5, 6, 7] with
  | .wait _ => s.putCur sl
  | .fault pc t => s.takeTrap s.cur.1 s.cur.2 pc t
  | .done sl1 => if sl1.loads ≠ [] then s.putCur sl else go sl1

/-- The completion add of a task or child: a `.rel.sys` release behind every entry of the activation (R39, R142). -/
def State.completionAdd (s : State) (c k : Nat) (sl : Slot) (ctr : Option Nat) : State :=
  match ctr with
  | none => s
  | some h =>
    let r : Rel := { act := sl.act, slot := k, byDone := true, e :=
      { id := (s.core c).nextEntry, op := .cadd h 1, rel := true, sc := 4, completion := true, upto := sl.nextId } }
    s.modCore c (fun co => { co with released := co.released ++ [r], nextEntry := co.nextEntry + 1 })

/-- `done` (R101). A CNT that names no counter of the context traps `ctr.handle` (R39, R139; log 25). -/
def execDone (u : Ctl) (s : State) : Out :=
  .next (s.issue (.done u) u .scalar false fun sl =>
    s.awaitAll sl fun sl1 =>
      let c := s.cur.1
      let k := s.cur.2
      match s.optCounter (s.coreCtx c) sl1.cnt with
      | none => s.trap sl1 .ctrHandle sl1.cnt
      | some ctr =>
        ((((s.putCur sl1).sendFold c k).releaseSpan c k true).completionAdd c k sl1 ctr).endActivation c k)

/-- The release half of `commit` (R102) or `fence.sc`, as `sc` says (R137): the slot then waits for the drain. -/
def State.commitRelease (s : State) (sc : Bool) (sl : Slot) : State :=
  let c := s.cur.1
  let k := s.cur.2
  (((s.putCur sl).sendFold c k).releaseSpan c k false).modSlot c k (fun sl => { sl with hold := .drain, scDrain := sc })

/-- `commit` (R102): release here; the drain ends at COMMIT_DRAIN_END. -/
def execCommit (u : Ctl) (s : State) : Out :=
  .next (s.issue (.commit u) u .scalar false fun sl => s.awaitAll sl (s.commitRelease false))

/-- `fence.sc` (R137): the whole effect of `commit`; its drain also waits for the stores in flight that answered the
activation's loads, so that readers agree afterwards (R242). -/
def execFenceSc (u : Ctl) (s : State) : Out :=
  .next (s.issue (.fenceSc u) u .scalar false fun sl => s.awaitAll sl (s.commitRelease true))

/-- Whether a released entry is a store or a counter write, which a drain awaits; others need only have left (R102). -/
def SOp.isWrite (op : SOp) : Bool := op.key?.isSome || op.counter?.isSome

/-- Whether the drain of a `commit` has nothing left of the activation: every store and counter write performed and
acknowledged, at banks, homes, peers and the host alike, and every other entry, message, card and request gone from the
core (R102, R137, R323). -/
def State.drained (s : State) (c : Nat) (act : Nat) : Bool :=
  !(s.core c).released.any (fun r => decide (r.act = act) && decide (r.e.op ≠ .marker) && (r.e.op.isWrite || r.left.isNone)) &&
  !s.sendsOut c act && !s.staging c act (s.core c).nextEntry && !s.cellsOut c act 4 && !s.hostWrites c act 4

/-- Whether the drain of slot `k` has ended; that of a `fence.sc` waits for the answering stores too (R242). -/
def State.drainOver (s : State) (c : Nat) (sl : Slot) : Bool :=
  s.drained c sl.act && !(sl.scDrain && s.answeredOut c sl.act 4)

/-- The checkpoint of a slot whose `commit` completes (R102). -/
def Slot.checkpoint (sl : Slot) : Ckpt := { x := sl.x, v := sl.v, p := sl.p, cursor := sl.cursor, pc := nextPc sl.pc }

/-- The new span that begins when a `commit` completes (R79, R102). -/
def Slot.committed (sl : Slot) : Slot :=
  { sl with ckpt := some sl.checkpoint, commits := sl.commits + 1, journal := [], irrev := false, hold := .ready,
            newer := [], marker := none, scDrain := false, unpaired := 0, fails := 0, kept := sl.posted, pc := nextPc sl.pc, entry := none, sig := (nextPc sl.pc).setWidth 24 }

/-- COMMIT_DRAIN_END (R102): the checkpoint is taken. -/
def execCommitDrainEnd (core slot : Nat) (s : State) : Out :=
  .next (match s.slot core slot with
    | some sl =>
      if sl.hold = .drain ∧ s.drainOver core sl ∧ (s.core core).failed = false then
        ((s.clearCkpt core slot).keepFold core sl.act sl.commits).modSlot core slot Slot.committed
      else s
    | none => s)

/-- `abort` (R103). -/
def execAbort (u : Ctl) (drop : BitVec 1) (s : State) : Out :=
  .next (s.issue (.abort u drop) u .scalar false fun sl =>
    let c := s.cur.1
    let k := s.cur.2
    if sl.irrev || s.journalBad c k sl.journal.length then s.trap0 sl .spanAbort
    else
      let s1 := s.abortSpan c k
      if drop = 1 then s1.endActivation c k else s1.again c k sl.att)

end Sys2Proof.Machine
end

