-- ==== Sys2Proof/Machine/Counter.lean ====
section
/-! DEFINITION. Counter instructions (07_isa_memory_sync R139 to R144). -/

namespace Sys2Proof.Machine

/-- An add to a counter, saturating with code 0x81 (R142). -/
def Counter.add (c : Counter) (n : Nat) : Counter :=
  if c.val.toNat + n < 2 ^ 64 then { c with val := w64 (c.val.toNat + n) }
  else { val := BitVec.allOnes 64, code := if c.code = 0 then 0x81 else c.code }
/-- A code, taken only by a counter without one (R140, R144). -/
def Counter.err (c : Counter) (code : BitVec 8) : Counter := if c.code = 0 then { c with code := code } else c
/-- Adds to counter `h`. -/
def State.bump (s : State) (h n : Nat) : State := s.setCounter h ((s.counter h).add n)
/-- A unit's add of 1 to its completion counter, with a failure code unless it is 0 (R161, R172, R180). -/
def State.complete (s : State) (h : Option Nat) (code : BitVec 8) : State :=
  match h with
  | none => s
  | some h => s.setCounter h ((if code = 0 then s.counter h else (s.counter h).err code).add 1)

/-- Runs a counter instruction on the counter that X[A] names, or traps `ctr.handle` with the handle (R139). -/
def State.onCounter (s : State) (sl : Slot) (a : Reg) (go : Nat → State) : State :=
  match s.counterOf (s.coreCtx s.cur.1) (sl.getX a) with
  | none => s.trap sl .ctrHandle (sl.getX a)
  | some h => go h

/-- `cadd` (R142): the amount is exact, up to 65 bits. -/
def execCadd (u : Ctl) (a b : Reg) (imm : BitVec 32) (s : State) : Out :=
  .next (s.issue (.cadd u a b imm) u .scalar false fun sl => s.onCounter sl a fun h =>
    let r := s.pushStore sl (.cadd h ((sl.getX b).toNat + imm.toNat)) (u.mo.getLsbD 1) u.sc
    r.1.retire (.cadd u a b imm) u none r.2)

/-- `cread` (R142): a non-local load of the value or the code. -/
def execCread (u : Ctl) (e : BitVec 1) (d a : Reg) (s : State) : Out :=
  .next (s.issue (.cread u e d a) u .scalar false fun sl =>
    if !sl.mayAccess then s.putCur sl else s.onCounter sl a fun h =>
      s.launch (.cread u e d a) u sl d (.counter (decide (e = 1)) h) 0 0xFFFF (u.mo.getLsbD 0) [])

/-- `cwait` (R143): the reservation is asked for; CWAIT_RESERVATION answers. -/
def execCwait (u : Ctl) (d a b : Reg) (ch : BitVec 6) (imm : BitVec 32) (s : State) : Out :=
  .next (s.issue (.cwait u d a b ch imm) u .scalar false fun sl => s.onCounter sl a fun h =>
    s.launch (.cwait u d a b ch imm) u sl d (.cwait h (sl.getX b) ch imm) 0 0xFFFF false [])

/-- `cerr` (R144): a code of 0 or above 0x7F traps `ctr.code`. A malformed handle traps first, an order the spec leaves open
(log 124). -/
def execCerr (u : Ctl) (a : Reg) (code : BitVec 8) (s : State) : Out :=
  .next (s.issue (.cerr u a code) u .scalar false fun sl => s.onCounter sl a fun h =>
    if code = 0 ∨ 0x7F < code.toNat then s.trap sl .ctrCode (code.setWidth 64)
    else
      let r := s.pushStore sl (.cerr h code) (u.mo.getLsbD 1) u.sc
      r.1.retire (.cerr u a code) u none r.2)

/-- `cinit` (R144): supervisor only. -/
def execCinit (u : Ctl) (a b : Reg) (code : BitVec 8) (s : State) : Out :=
  .next (s.issue (.cinit u a b code) u .scalar false fun sl =>
    if !s.prv sl then s.trap0 sl .privInstr
    else s.onCounter sl a fun h =>
      let r := s.pushStore sl (.cinit h (sl.getX b) code) false 0
      r.1.retire (.cinit u a b code) u none r.2)

end Sys2Proof.Machine
end

