-- ==== Sys2Proof/Machine/Message.lean ====
section
/-! DEFINITION. Messages, tasks and channels (07_isa_memory_sync R145 to R152, 02 R35, R41, R43). -/

namespace Sys2Proof.Machine

/-! ## Sending -/

/-- Places an entry of `n` injection entries, for a request-class activation only (R35); with no room the slot waits
(R145). -/
def State.injects (s : State) (i : Instr) (u : Ctl) (sl0 sl : Slot) (n : Nat) (op : InjOp) : State :=
  if s.injRoomFor sl n then (s.pushInj sl op n).retire i u none sl else s.putCur sl0

/-- The message of `send` and `reply` (R25, R145). -/
def State.message (s : State) (dst : Nat) (ch : BitVec 6) (cls : Bool) (body : List Word) : Msg :=
  { dst := BitVec.ofNat 13 dst, chan := ch, cls := cls, ctx := BitVec.ofNat 8 (s.coreCtx s.cur.1),
    src := BitVec.ofNat 13 s.cur.1, body := body }

/-- `n` registers from X[B] (R145). -/
def Slot.regs (sl : Slot) (b : Reg) (n : Nat) : List Word := (List.range n).map (fun j => sl.getX (b + BitVec.ofNat 6 j))

/-- `send` and `reply` (R145). -/
def State.sendMsg (s : State) (i : Instr) (u : Ctl) (a b : Reg) (n : BitVec 3) (ch : BitVec 6) (cls : Bool) : State :=
  s.issue i u .scalar false fun sl =>
    if s.replyClass sl then s.trap0 sl .sendReply
    else
      let x := readSrc s sl a
      if bits x.1 13 51 ≠ 0 then s.trap sl .msgDest x.1
      else s.injects i u sl x.2 1 (.msg (s.message x.1.toNat ch cls (sl.regs b n.toNat)))

/-- `send` (R145). -/
def execSend (u : Ctl) (a b : Reg) (n : BitVec 3) (ch : BitVec 6) (s : State) : Out :=
  .next (s.sendMsg (.send u a b n ch) u a b n ch false)
/-- `reply` (R145). -/
def execReply (u : Ctl) (a b : Reg) (n : BitVec 3) (ch : BitVec 6) (s : State) : Out :=
  .next (s.sendMsg (.reply u a b n ch) u a b n ch true)

/-- Word `w` of held message `m` (R147). -/
def peekWord (held : List Msg) (m w : Nat) : Word :=
  match held[m]? with
  | none => 0
  | some x => if w = 0 then msgHeader x else x.body.getD (w - 1) 0

/-- `peek` (R147). -/
def execPeek (u : Ctl) (d : Reg) (m : BitVec 4) (w : BitVec 3) (s : State) : Out :=
  .next (s.issue (.peek u d m w) u .scalar false fun sl =>
    s.retire (.peek u d m w) u (some { d := d, x := peekWord sl.held m.toNat w.toNat }) sl)

/-- `sysc` (R152). -/
def execSysc (u : Ctl) (imm : BitVec 32) (s : State) : Out :=
  .next (s.issue (.sysc u imm) u .scalar false fun sl =>
    if s.replyClass sl then s.trap0 sl .sendReply
    else s.injects (.sysc u imm) u sl sl 1 (.msg (s.message (s.ctx (s.coreCtx s.cur.1)).sup 2 false
      ([zext32 imm] ++ sl.regs 1 4 ++ [sl.pc.setWidth 64]))))

/-! ## Tasks and children -/

/-- `spawn` (R41, R148): the target is asked; SPAWN_REQUEST_ARRIVAL answers. -/
def execSpawn (u : Ctl) (d a b c : Reg) (imm : BitVec 32) (s : State) : Out :=
  .next (s.issue (.spawn u d a b c imm) u .scalar false fun sl =>
    if s.replyClass sl then s.trap0 sl .sendReply
    else s.launch (.spawn u d a b c imm) u sl d
      (.spawn (sl.getX a).toNat imm (sl.regs c 4) (sl.getX b)) 0 0xFFFF false [])

/-- The die whose Quince unit takes a forked task, or none when the target traps `msg.dest` (R149). -/
def State.forkDie (s : State) (k c : Nat) (x : Word) : Option Nat :=
  if x.getLsbD 16 then
    if (s.groupOnDie k (bits x 0 8) (coreDie c)).isEmpty then none else some (coreDie c)
  else if s.inSet k x.toNat then some (coreDie x.toNat) else none

/-- `fork` (R149). -/
def execFork (u : Ctl) (q : BitVec 3) (a b c : Reg) (imm : BitVec 32) (s : State) : Out :=
  .next (s.issue (.fork u q a b c imm) u .scalar false fun sl =>
    let core := s.cur.1
    let k := s.coreCtx core
    if s.replyClass sl then s.trap0 sl .sendReply
    else match s.forkDie k core (sl.getX a) with
      | none => s.trap sl .msgDest (sl.getX a)
      | some die =>
        let t : Task := { target := sl.getX a, pc := zext32 imm, args := sl.regs c 4, cnt := sl.getX b, prio := q.toNat,
                          src := core, ctx := k }
        s.injects (.fork u q a b c imm) u sl sl 1 (.fork t die (coreCluster core % 16)))

/-! ## Channels and priority -/

/-- `pause` (R31, R150): low priority for the next n cycles, counted without the one of its own issue; `pause 0` has no
effect. -/
def execPause (u : Ctl) (n : BitVec 16) (s : State) : Out :=
  .next (s.issue (.pause u n) u .scalar false fun sl =>
    s.retire (.pause u n) u none { sl with paused := if n = 0 then sl.paused else n.toNat + 1 })

/-- `chmask` (R150): at issue; an abort does not undo it. -/
def execChmask (u : Ctl) (a : Reg) (op : BitVec 1) (s : State) : Out :=
  .next (s.issue (.chmask u a op) u .scalar false fun sl =>
    let chs := (List.range 64).filter (fun ch => (sl.getX a).getLsbD ch)
    if !s.prv sl && chs.any (fun ch => (s.hte s.cur.1 ch).prv) then s.trap0 sl .privInstr
    else (chs.foldl (fun t ch => t.maskChan s.cur.1 ch (decide (op = 0))) s).retire (.chmask u a op) u none sl)

/-- The status word of a channel (Table 7.9). -/
def Core.chanStatus (co : Core) (ch : Nat) : Word :=
  let h := co.entryOf ch
  w64 (co.boundOn ch % 16 * 2 ^ 16 + (co.aged ch).toNat * 2 ^ 15 + h.cls.toNat * 2 ^ 14 + h.pri % 8 * 2 ^ 11 +
    h.v.toNat * 2 ^ 10 + (co.runnable ch).toNat * 2 ^ 9 + h.msk.toNat * 2 ^ 8 + (co.chanMsgs ch).length % 256)

/-- `chstat` (R151). -/
def execChstat (u : Ctl) (d : Reg) (ch : BitVec 6) (s : State) : Out :=
  .next (s.issue (.chstat u d ch) u .scalar false fun sl =>
    s.retire (.chstat u d ch) u (some { d := d, x := s.curCore.chanStatus ch.toNat }) sl)

end Sys2Proof.Machine
end

