-- ==== Sys2Proof/Machine/Range.lean ====
section
/-! DEFINITION. Range instructions and walker 0 (09_isa_index_range_system R190 to R195, 12 R248, 15_isolation R292 to
R296): splits, merges, residency, freeing, compaction, purges, probes. -/

namespace Sys2Proof.Machine

/-! ## The directory (R292, R293) -/

/-- Puts a descriptor into a list in ascending order of VBASE. -/
def descInsert (d : Desc) : List Desc → List Desc
  | [] => [d]
  | e :: es => if d.vbase < e.vbase then d :: e :: es else e :: descInsert d es

/-- Writes word `w` of the context-table entry of context `k`. -/
def State.setCtxWord (s : State) (k w : Nat) (v : Word) : State :=
  s.modMgmt (fun m => { m with ctxTab := Sparse.set 0 m.ctxTab (8 * k + w) v })

/-- Writes a descriptor at a physical address. -/
def State.setDesc (s : State) (pa : Nat) (d : Desc) : State :=
  d.words.zipIdx.foldl (fun t w => t.setWord (pa + 8 * w.2) w.1) s

/-- Walker 0 replaces ranges (named by their VBASE) by others: the complete new directory is written into the buffer not
selected, then DIRN and SEL change (R293). -/
def State.dirPut (s : State) (k : Nat) (gone : List Nat) (new : List Desc) : State :=
  let ds := new.foldl (fun l d => descInsert d l) ((s.dir k).filter (fun d => !gone.contains d.vbase))
  let b := 1 - s.dirSel k
  let s1 := ds.zipIdx.foldl (fun t d => t.setDesc (s.dirBuf k b + 32 * d.2) d.1) s
  let w0 := s.ctxWord k 0 ^^^ (1 <<< 62)
  (s1.setCtxWord k 2 (w64 ds.length)).setCtxWord k 0 w0

/-- The descriptors with the given VBASEs leave every range table of the package that serves context `k`, pins and all
(R193). -/
def State.purge (s : State) (k : Nat) (cores : Nat → Bool) (gone : Desc → Bool) : State :=
  s.cores.foldl (fun t e =>
    if e.2.ctx = some k ∧ cores e.1 ∧ e.2.rtab.any (fun x => gone x.desc) then
      t.modCore e.1 (fun co => { co with rtab := co.rtab.filter (fun x => !gone x.desc) })
    else t) s

/-- A directory update with its purge: `gone` are replaced by `new` (R293). -/
def State.dirSwap (s : State) (k : Nat) (gone : List Nat) (new : List Desc) : State :=
  (s.dirPut k gone new).purge k (fun _ => true) (fun d => gone.contains d.vbase)

/-! ## What an update waits for (R194, R248) -/

/-- Whether a core still has an access into [lo, hi) of physical memory that is not performed: an outstanding load, a
buffered entry, a released entry, an open atomic line region. -/
def Core.touches (co : Core) (lo hi : Nat) : Bool :=
  let inside (key : Nat) : Bool := decide (lo ≤ key) && decide (key < hi)
  let entry (e : SEntry) : Bool := match e.op.key? with | some key => inside key | none => false
  co.released.any (fun r => entry r.e) ||
  co.slots.any (fun e => match e.2 with
    | none => false
    | some sl => sl.stores.any entry || sl.region.any (fun r => inside r.key) ||
      sl.loads.any (fun l => l.op.isAccess && (l.bytes.any (fun b => inside b.1) ||
        match l.op with | .region r _ => inside r.key | _ => false)))

/-- Whether a posted store or atomic of a core into a range is on its way to another device, not acknowledged, or a write to host
memory that no zero-length read has followed, which the range may have translated (R323). -/
def State.posting (s : State) (c : Nat) (d : Desc) : Bool :=
  (decide (hbmEnd ≤ d.pa d.vbase) && s.hostOut.any (fun w => decide (w.core = c))) ||
  s.fab.peers.any (fun p => (p.2.kept ++ p.2.waiting).any (fun x => x.posted && decide (x.core = c) && d.covers x.va))

/-- Whether every access that a descriptor translated, on the given cores of context `k`, has been performed (R248). -/
def State.quietOn (s : State) (k : Nat) (cores : Nat → Bool) (d : Desc) : Bool :=
  s.cores.all (fun e => decide (e.2.ctx ≠ some k) || !cores e.1 ||
    (!e.2.touches (d.pa d.vbase) (d.pa d.vbase + 256 * d.size) && !s.posting e.1 d))
/-- The same over the package. -/
def State.quiet (s : State) (k : Nat) (d : Desc) : Bool := s.quietOn k (fun _ => true) d

/-- Whether a range is pinned, in a range table of the package, by a job, or by an index request between its arrival and its
completion (R172, R194, Table 15.4; log 134: one that meets a compaction under way is performed all the same, R189). -/
def State.pinned (s : State) (k : Nat) (d : Desc) : Bool :=
  s.cores.any (fun e => decide (e.2.ctx = some k) &&
    e.2.rtab.any (fun x => decide (x.desc.vbase = d.vbase) && decide (x.pins ≠ 0))) ||
  s.dies.any (fun e => e.2.jobs.any (fun j => decide (j.ctx = k) && j.pins.contains d.vbase) ||
    e.2.works.any (fun r => decide (r.ctx = k) && decide ((r.words.getD 0 0).toNat = d.vbase)))

/-! ## Instructions: issue -/

/-- A counter operand of 18 bits (R190): none for 0; `none` at the outside for a malformed handle. -/
def State.ctrArg (s : State) (sl : Slot) (ctr : BitVec 18) (go : State) : State :=
  match s.optCounter (s.coreCtx s.cur.1) (ctr.setWidth 64) with
  | none => s.trap sl .ctrHandle (ctr.setWidth 64)
  | some _ => go

/-- Checks that a range covers the address and carries the permissions (R191). -/
def State.covered (s : State) (sl : Slot) (va : Word) (need : BitVec 8) (go : Desc → State) : State :=
  match s.descOf (s.coreCtx s.cur.1) va.toNat with
  | none => s.trap sl .rangeMiss va
  | some d => if d.has need then go d else s.trap sl .rangePerm va

/-- A request that passed its checks waits in the store buffer as an entry that stands alone (R191, Table 7.4). -/
def State.pushDir (s : State) (i : Instr) (u : Ctl) (sl : Slot) (op : SOp) (w : Option RegWrite) : State :=
  let r := s.pushStore sl op false 0
  r.1.retire i u w r.2

/-- `rsplit` (Table 9.7). -/
def execRsplit (u : Ctl) (a b : Reg) (ctr : BitVec 18) (s : State) : Out :=
  .next (s.issue (.rsplit u a b ctr) u .scalar false fun sl =>
    s.covered sl (sl.getX a) permM fun _ => s.ctrArg sl ctr
      (s.pushDir (.rsplit u a b ctr) u sl (.dir (.split (sl.getX a).toNat (sl.getX b).toNat) ctr.toNat) none))

/-- `rmerge` (Table 9.7). -/
def execRmerge (u : Ctl) (a b : Reg) (ctr : BitVec 18) (s : State) : Out :=
  .next (s.issue (.rmerge u a b ctr) u .scalar false fun sl =>
    s.covered sl (sl.getX a) permM fun _ => s.covered sl (sl.getX b) permM fun _ => s.ctrArg sl ctr
      (s.pushDir (.rmerge u a b ctr) u sl (.dir (.merge (sl.getX a).toNat (sl.getX b).toNat) ctr.toNat) none))

/-- `rinval` (R193): the range that covers A, or every range of the context for A = 0. -/
def execRinval (u : Ctl) (reach : BitVec 2) (a : Reg) (ctr : BitVec 18) (s : State) : Out :=
  .next (s.issue (.rinval u reach a ctr) u .scalar false fun sl =>
    let va := sl.getX a
    if va = 0 then s.ctrArg sl ctr
      (s.pushDir (.rinval u reach a ctr) u sl (.purge reach.toNat none ctr.toNat) none)
    else s.covered sl va 0 fun d => s.ctrArg sl ctr
      (s.pushDir (.rinval u reach a ctr) u sl (.purge reach.toNat (some d.vbase) ctr.toNat) none))

/-- `rres` (Table 9.7): supervisor only. -/
def execRres (u : Ctl) (a b c : Reg) (ctr : BitVec 18) (s : State) : Out :=
  .next (s.issue (.rres u a b c ctr) u .scalar false fun sl =>
    if !s.prv sl then s.trap0 sl .privInstr
    else s.covered sl (sl.getX a) 0 fun _ => s.ctrArg sl ctr
      (s.pushDir (.rres u a b c ctr) u sl
        (.dir (.res (sl.getX a).toNat (sl.getX b).toNat (sl.getX c).toNat) ctr.toNat) none))

/-- `rcompact` (Table 9.7, R195): supervisor only. -/
def execRcompact (u : Ctl) (a b : Reg) (ctr : BitVec 18) (s : State) : Out :=
  .next (s.issue (.rcompact u a b ctr) u .scalar false fun sl =>
    if !s.prv sl then s.trap0 sl .privInstr
    else s.covered sl (sl.getX a) 0 fun _ => s.ctrArg sl ctr
      (s.pushDir (.rcompact u a b ctr) u sl (.dir (.compact (sl.getX a).toNat (sl.getX b).toNat) ctr.toNat) none))

/-- The word of Table 9.9. -/
def probeWord (d : Desc) (va : Nat) (pin : Bool) : Word :=
  w64 (d.st % 8 * 2 ^ 16 + d.perm.toNat * 2 ^ 8 + d.pcl.toNat * 8 + pin.toNat * 4 + (d.resident va).toNat * 2 + 1)

/-- Pins the range-table entry that covers an address when the core holds fewer than 16 pinned entries, or this one is
pinned already (R194): whether it did, and the core after it. -/
def Core.pin (co : Core) (va : Nat) : Bool × Core :=
  match co.rtab.find? (fun e => e.desc.covers va) with
  | none => (false, co)
  | some e =>
    if e.pins = 0 ∧ 16 ≤ co.rtab.countP (fun x => decide (x.pins ≠ 0)) then (false, co)
    else (true, { co with rtab := co.rtab.map (fun x => if x = e then { x with pins := x.pins + 1 } else x) })

/-- Pins an address that the range table covers, and the result word (R194). -/
def State.probe (s : State) (c va : Nat) : Word × State :=
  match (s.core c).rtab.find? (fun e => e.desc.covers va) with
  | none => (0, s)
  | some e =>
    let p := (s.core c).pin va
    (probeWord e.desc va p.1, (s.modCore c (fun _ => p.2)).touch c va)

/-- Sets what outstanding result `id` of slot `k` of core `c` comes to. -/
def State.setRes (s : State) (c k id : Nat) (r : LandSt) : State :=
  s.modSlot c k (fun sl => { sl with loads := sl.loads.map (fun l => if l.id = id then { l with res := some r } else l) })

/-- The most recent outstanding result of the current slot. -/
def State.lastId (s : State) : Nat := (s.curSlot.getD {}).nextId - 1

/-- `rprobe` (R194): a hit in the range table pins at issue; a miss goes to a walker first. Either way the result comes as
that of a non-local load. -/
def execRprobe (u : Ctl) (d a : Reg) (s : State) : Out :=
  .next (s.issue (.rprobe u d a) u .scalar false fun sl =>
    let c := s.cur.1
    let va := (sl.getX a).toNat
    if va < 2 ^ 52 ∧ !(s.core c).rtab.any (fun e => e.desc.covers va) then
      if 64 ≤ (s.die (coreDie c)).misses.countP (fun m => decide (coreCluster m.core % 4 = coreCluster c % 4)) then s.putCur sl
      else
        let s1 := s.launch (.rprobe u d a) u sl d (.probe va) va 0xFFFF false []
        let m : Miss := { core := c, slot := s.cur.2, act := sl.act, va := va, waits := false, probe := some s1.lastId }
        s1.modDie (coreDie c) (fun x => { x with misses := x.misses ++ [m] })
    else
      let p := s.probe c va
      let s1 := p.2.launch (.rprobe u d a) u sl d (.probe va) va 0xFFFF false []
      s1.setRes c s.cur.2 s1.lastId (.ready { d := d, x := p.1 }))

/-- `runpin` (R194). -/
def execRunpin (u : Ctl) (a : Reg) (s : State) : Out :=
  .next (s.issue (.runpin u a) u .scalar false fun sl =>
    let va := (sl.getX a).toNat
    (s.modCore s.cur.1 (fun co => match co.rtab.find? (fun e => e.desc.covers va) with
      | none => co
      | some e => { co with rtab := co.rtab.map (fun x => if x = e then { x with pins := x.pins - 1 } else x) })).retire
      (.runpin u a) u none sl)

/-- `rquery` (R195): the descriptor that covers B, or zeros, as a pool store at A, which waits for an acquire (R123). -/
def execRquery (u : Ctl) (a b : Reg) (s : State) : Out :=
  .next (s.issue (.rquery u a b) u .scalar false fun sl =>
    if !sl.mayAccess then s.putCur sl else
    let va := (sl.getX a).toNat
    let c := s.cur.1
    if va % 32 ≠ 0 then s.trap sl .memAlign (sl.getX a)
    else if 0x40000 ≤ va ∨ s.scrBytes c < va + 32 then s.trap sl .memWindow (sl.getX a)
    else
      let ws := ((s.descOf (s.coreCtx c) (sl.getX b).toNat).map Desc.words).getD [0, 0, 0, 0]
      let bs := ws.zipIdx.flatMap (fun w => storeBytes (va + 8 * w.2) (poolKey c (va + 8 * w.2)) 8 w.1)
      let r := s.poolStore sl bs
      r.1.retire (.rquery u a b) u none r.2)

/-! ## Performing an update (R191, R192, R195) -/

/-- What performing a directory update comes to: it must wait, it fails with a code, or it replaces ranges. -/
inductive DirRes where
  | wait
  | fail (code : BitVec 8)
  | swap (gone : List Desc) (new : List Desc)
  deriving DecidableEq, Repr

/-- `range.busy`. -/
def busy : DirRes := .fail 0xB2

/-- A split (R192). -/
def State.doSplit (s : State) (k a b : Nat) : DirRes :=
  match s.descOf k a with
  | none => busy
  | some d =>
    if d.st ≠ 0 ∨ d.pcl ∨ d.has permM = false then busy
    else if s.pinned k d then .wait
    else if b % 256 ≠ 0 ∨ b ≤ d.vbase ∨ d.limit ≤ b then .fail 0xB0
    else if 65536 ≤ s.dirN k then .fail 0xB3
    else
      let n := (b - d.vbase) / 256
      .swap [d] [{ d with size := n, rlo := min d.rlo n, rhi := min d.rhi n },
        { d with vbase := b, size := d.size - n, rlo := d.rlo - n, rhi := d.rhi - n }]

/-- The resident extent of a merge in 256-byte units from the lower range's base (R192). -/
def mergeExtent (lo up : Desc) : Option (Nat × Nat) :=
  if lo.rlo < lo.rhi then
    if up.rlo < up.rhi then (if lo.rhi = lo.size ∧ up.rlo = 0 then some (lo.rlo, lo.size + up.rhi) else none)
    else some (lo.rlo, lo.rhi)
  else if up.rlo < up.rhi then some (lo.size + up.rlo, lo.size + up.rhi)
  else some (0, 0)

/-- A merge (R192). -/
def State.doMerge (s : State) (k a b : Nat) : DirRes :=
  match s.descOf k a, s.descOf k b with
  | some lo, some up =>
    if lo.st ≠ 0 ∨ up.st ≠ 0 ∨ lo.pcl ∨ up.pcl ∨ lo.has permM = false ∨ up.has permM = false then busy
    else if s.pinned k lo ∨ s.pinned k up then .wait
    else if lo.limit ≠ up.vbase ∨ lo.perm ≠ up.perm ∨ lo.fmt ≠ up.fmt ∨ lo.geo ≠ up.geo ∨ lo.off ≠ up.off then .fail 0xB1
    else match mergeExtent lo up with
      | none => .fail 0xB1
      | some e => if 2 ^ 32 ≤ lo.size + up.size then .fail 0xB1
          else .swap [lo, up] [{ lo with size := lo.size + up.size, rlo := e.1, rhi := e.2 }]
  | _, _ => busy

/-- A change of the resident extent; it waits for a compaction of its range (R192, R296). -/
def State.doRes (s : State) (k a lo hi : Nat) : DirRes :=
  match s.descOf k a with
  | none => busy
  | some d =>
    if d.st = 1 then .wait
    else if d.st ≠ 0 ∨ s.pinned k d then busy
    else if hi < lo ∨ lo < d.vbase ∨ d.limit < hi ∨ lo % 256 ≠ 0 ∨ hi % 256 ≠ 0 then .fail 0xB4
    else .swap [d] [{ d with rlo := (lo - d.vbase) / 256, rhi := (hi - d.vbase) / 256 }]

/-- Whether a range that is no parcel meets what `pmake` needs beyond P and M (R197, R298). -/
def Desc.fit (d : Desc) : Bool :=
  decide (d.st = 0) && decide (d.rlo = 0) && decide (d.rhi = d.size) && !d.has permG && !d.has permI

/-- The marking of `pmake` (R197). -/
def State.doMake (s : State) (k a : Nat) : DirRes :=
  match s.descOf k a with
  | none => busy
  | some d =>
    if d.pcl then .swap [] []
    else if d.has (permP ||| permM) = false ∨ d.fit = false ∨ s.pinned k d then busy
    else .swap [d] [{ d with pcl := true, perm := d.perm &&& ~~~permM }]

/-- A deletion (R201). -/
def State.doFree (s : State) (k a : Nat) : DirRes :=
  match s.descOf k a with
  | none => busy
  | some d =>
    if (d.st ≠ 0 ∧ d.st ≠ 5) ∨ s.pinned k d ∨ d.has permW = false ∨ (!d.pcl ∧ d.has permM = false) then busy
    else .swap [d] []

/-- The offset that puts the base of a range at a physical address (Table 15.2). -/
def offFor (vbase pa : Nat) : Word := (BitVec.ofNat 52 (pa + 2 ^ 52 - vbase % 2 ^ 52)).signExtend 64

/-- The start of a compaction: the range is moving (R195, R296). -/
def State.doCompact (s : State) (k a pa : Nat) : DirRes :=
  match s.descOf k a with
  | none => busy
  | some d =>
    let n := 256 * d.size
    let old := d.pa d.vbase
    let clash (x y : Nat) : Bool := decide (x < y + n) && decide (y < x + n)
    let other := (s.dir k).any (fun e => decide (e.vbase ≠ d.vbase) && decide (pa < e.pa e.vbase + 256 * e.size) &&
      decide (e.pa e.vbase < pa + n))
    if d.st ≠ 0 then busy
    else if pa % 256 ≠ 0 ∨ (pa ≠ old ∧ clash pa old) ∨ pa < s.phLo k ∨ s.phHi k < pa + n ∨ other then busy
    else if s.pinned k d then .wait
    else .swap [d] [{ d with st := 1 }]

/-- The release of `post` (R199, R300): the parcel departs. -/
def State.doPost (s : State) (k a : Nat) : DirRes :=
  match s.descOf k a with
  | none => busy
  | some d =>
    if d.st = 1 then .wait
    else if d.vbase ≠ a ∨ !d.pcl ∨ (d.st ≠ 0 ∧ d.st ≠ 5) then busy
    else .swap [d] [{ d with st := 2 }]

/-- What performing an update comes to. -/
def State.doDir (s : State) (k : Nat) (op : DirOp) : DirRes :=
  match op with
  | .split a b => s.doSplit k a b
  | .merge a b => s.doMerge k a b
  | .res a lo hi => s.doRes k a lo hi
  | .compact a pa => s.doCompact k a pa
  | .make a => s.doMake k a
  | .free a => s.doFree k a
  | .post a _ _ => s.doPost k a

/-- The counter a directory request names. -/
def State.dirCounter (s : State) (k ctr : Nat) : Option Nat := (s.optCounter k (w64 ctr)).getD none

/-- The span of core `c` loses its mark on a parcel: the parcel's own state speaks now (R249). -/
def State.unmark (s : State) (c vb : Nat) : State :=
  if (s.core c).slots.any (fun e => match e.2 with | some sl => sl.posted.contains vb | none => false) then
    s.modCore c (fun co => { co with slots := co.slots.map (fun e => (e.1, e.2.map (fun sl =>
      { sl with posted := sl.posted.filter (fun v => decide (v ≠ vb)), kept := sl.kept.filter (fun v => decide (v ≠ vb)) }))) })
  else s

/-- The die whose compaction engine moves a range (R296). -/
def State.compactDie (s : State) (k : Nat) (d : Desc) : Nat :=
  if d.pa d.resLo < hbmEnd then homeDie (d.pa d.resLo) else coreDie (s.ctx k).sup

/-- What follows an update that replaced ranges: `post` and `rcompact` go on elsewhere, any other has completed. The mark that
`post` left on its activation stays until its purge is complete (R249). -/
def State.dirAfter (s : State) (k : Nat) (r : DirReq) (gone : List Desc) : State :=
  match r.op, gone with
  | .post a dest ch, _ =>
    let x : Xfer := { ctx := k, vbase := a, core := r.core, dest := dest, chan := ch, ctr := r.ctr }
    { s with xfers := s.xfers ++ [x] }
  | .compact _ pa, d :: _ =>
    let x : Compaction := { ctx := k, vbase := d.vbase, newPa := pa, ctr := r.ctr, core := r.core }
    s.modDie (s.compactDie k d) (fun y => { y with compactions := y.compactions ++ [x] })
  | _, _ => s.complete (s.dirCounter k r.ctr) 0

/-- Whether the range tables let go of the replaced descriptors with the update: not for `post`, whose purge is a step of
its own (R199). -/
def DirOp.purges : DirOp → Bool
  | .post .. => false
  | _ => true
/-- Whether the update waits for the accesses that the replaced descriptors translated (R248): a compaction waits for
them when it moves the bytes (R195). -/
def DirOp.awaits : DirOp → Bool
  | .post .. => false
  | .compact .. => false
  | _ => true

/-- DIRECTORY_UPDATE (R191, R248, R293): walker 0 performs the oldest update of the context. -/
def execDirectoryUpdate (ctx : Nat) (s : State) : Out :=
  .next (match (s.ctx ctx).dirq with
    | [] => s
    | r :: rs =>
      let s1 := s.modCtx ctx (fun x => { x with dirq := rs })
      match s.doDir ctx r.op with
      | .wait => s
      | .fail code =>
        let s2 := match r.op with | .post a _ _ => s1.unmark r.core a | _ => s1
        s2.complete (s.dirCounter ctx r.ctr) code
      | .swap gone new =>
        if r.op.awaits && !gone.all (s.quiet ctx) then s
        else if gone = [] then s1.dirAfter ctx r gone
        else if r.op.purges then (s1.dirSwap ctx (gone.map Desc.vbase) new).dirAfter ctx r gone
        else (s1.dirPut ctx (gone.map Desc.vbase) new).dirAfter ctx r gone)

/-- Whether a core lies in the reach of a purge (Table 9.7). -/
def inReach (reach from_ c : Nat) : Bool :=
  match reach with
  | 0 => decide (c = from_)
  | 1 => decide (coreCluster c = coreCluster from_)
  | 2 => decide (coreDie c = coreDie from_)
  | _ => true

/-- RINVAL_COMPLETE (R193, R248): purge `n` of the context completes once every access that the purged descriptors, in a table
still or evicted since, translated has been performed. -/
def execRinvalComplete (ctx n : Nat) (s : State) : Out :=
  .next (match (s.ctx ctx).purges[n]? with
    | none => s
    | some p =>
      let gone (d : Desc) : Bool := match p.vbase with | none => true | some v => decide (d.vbase = v)
      let cores := inReach p.reach p.core
      if (s.dir ctx).all (fun d => !gone d || s.quietOn ctx cores d) &&
          s.cores.all (fun e => decide (e.2.ctx ≠ some ctx) || !cores e.1 ||
            e.2.rtab.all (fun x => !gone x.desc || s.quietOn ctx (fun c => decide (c = e.1)) x.desc)) then
        ((s.modCtx ctx (fun x => { x with purges := x.purges.eraseIdx n })).purge ctx cores gone).complete
          (s.dirCounter ctx p.ctr) 0
      else s)

/-- The bytes of a range's resident extent move to its new backing, poison with them (R195, R296). -/
def State.moveRange (s : State) (d : Desc) (pa : Nat) : State :=
  let n := 256 * (d.rhi - d.rlo)
  let src := d.pa d.vbase + 256 * d.rlo
  let dst := pa + 256 * d.rlo
  let bs := (List.range n).map (fun i => (dst + i, s.byte (src + i)))
  let s1 := (s.dropCode (bs.map Prod.fst)).setBytes bs
  (List.range (n / 8)).foldl (fun t i => t.setPoison (dst + 8 * i) (s.poisoned (src + 8 * i))) s1

/-- The range tables of context `k` take a range's new descriptor, pins as they are (R195). -/
def State.retable (s : State) (k : Nat) (d : Desc) : State :=
  s.cores.foldl (fun t e =>
    if e.2.ctx = some k ∧ e.2.rtab.any (fun x => decide (x.desc.vbase = d.vbase)) then
      t.modCore e.1 (fun co => { co with rtab := co.rtab.map (fun x => if x.desc.vbase = d.vbase then { x with desc := d } else x) })
    else t) s

/-- Whether the oldest compaction of a die waits: it has not started moving, and its range is pinned (Table 15.4). -/
def State.compactWaits (s : State) (c : Compaction) : Bool :=
  !c.moving && match s.descOf c.ctx c.vbase with
    | none => false
    | some d => s.pinned c.ctx d

/-- The oldest compaction of the die starts moving its range; from then on it waits for no pin (R296). -/
def compactionStart (die : Nat) (s : State) : State :=
  match (s.die die).compactions with
  | [] => s
  | c :: _ => if c.moving || s.compactWaits c then s else
      s.modDie die (fun x => { x with compactions := x.compactions.modify 0 (fun c => { c with moving := true }) })

/-- COMPACTION_COMPLETE (R195, R296; log 17): the oldest compaction of the die moves its range, the offset changes in the
directory and in every range table. -/
def execCompactionComplete (die : Nat) (s : State) : Out :=
  .next (match (s.die die).compactions with
    | [] => s
    | c :: cs =>
      let s1 := s.modDie die (fun x => { x with compactions := cs })
      match s.descOf c.ctx c.vbase with
      | none => s1.complete (s.dirCounter c.ctx c.ctr) 0xB2
      | some d =>
        if s.compactWaits c then s
        else if s.quiet c.ctx d then
          let e := { d with st := 0, off := offFor d.vbase c.newPa }
          (((s1.moveRange d c.newPa).dirPut c.ctx [d.vbase] [e]).retable c.ctx e).complete (s.dirCounter c.ctx c.ctr) 0
        else s)

end Sys2Proof.Machine
end

