-- ==== Sys2Proof/Machine/Matrix.lean ====
section
/-! DEFINITION. The matrix array: operand blocks, the matrix queue, gang steps, stores of slices, quantisation and
agreement (08_isa_matrix_engines R154 to R169; 10 R219, R220). -/

namespace Sys2Proof.Machine

/-! ## Slices and operand regions (R154 to R157) -/

/-- The key of element 0 of accumulator slice `sl` of core `c` (R12, R154; row-major, log 10). -/
def State.sliceKey (s : State) (c sl : Nat) : Nat := poolKey c ((partScr (s.core c).part + 4 * sl) * 4096)
/-- Element `n` = 64 i + j of a slice, as its FP32 bits. -/
def State.cell (s : State) (c sl n : Nat) : Nat := leNat (s.bytes (s.sliceKey c sl + 4 * n) 4)
/-- Writes the 4,096 elements of a slice. -/
def State.setSlice (s : State) (c sl : Nat) (vs : List Nat) : State :=
  s.setBytes (vs.zipIdx.flatMap (fun v => (List.range 4).map (fun j =>
    (s.sliceKey c sl + 4 * v.2 + j, BitVec.ofNat 8 (v.1 / 256 ^ j)))))
/-- Whether core `c` has slice `sl` (R154). -/
def State.hasSlice (s : State) (c sl : Nat) : Bool := decide (4 * sl + 3 < partA (s.core c).part)

/-- The bytes of an A operand block (R155). -/
def aBlock (pa : Nat) : Nat := 128 + 256 * pa
/-- The bytes of a B operand block (R156). -/
def bBlock (cb : Nat) : Nat := 128 + 2048 * cb
/-- The container size of B. -/
def container (bw : Bool) : Nat := if bw then 1 else 2

/-- Whether an operand region is valid on core `c`: in the local window, 128-aligned, K legal, wholly in the scratchpad
(R157). -/
def State.regionOk (s : State) (c : Nat) (addr : Word) (size k : Nat) : Bool :=
  decide (addr.toNat < 0x40000) && decide (addr.toNat % 128 = 0) && decide (32 ≤ k) && decide (k ≤ 8192) &&
  decide (k % 32 = 0) && decide (addr.toNat + size ≤ s.scrBytes c)

/-- Header scale of row `i` in block `kb` of the A operand at `a` (R155); `rd` reads a pool byte. -/
def aScale (rd : Nat → Byte) (a pa kb i : Nat) : Nat := (rd (a + kb * aBlock pa + 2 * i)).toNat
/-- Element a[i][32 kb + k] (R155). -/
def aElem (rd : Nat → Byte) (a pa kb i k : Nat) : Int :=
  let n := ((List.range pa).map (fun p =>
    if (rd (a + kb * aBlock pa + 128 + 8 * (k * pa + p) + i / 8)).getLsbD (i % 8) then 2 ^ p else 0)).sum
  if 2 ≤ pa ∧ 2 ^ (pa - 1) ≤ n then (n : Int) - 2 ^ pa else n
/-- Whether row `i` reads a poisoned word in block `kb` (R162). -/
def aBad (bad : Nat → Bool) (a pa kb i : Nat) : Bool :=
  bad (a + kb * aBlock pa + 2 * i) || (List.range (32 * pa)).any (fun w => bad (a + kb * aBlock pa + 128 + 8 * w))

/-- Header scale of column `j` in block `kb` of the B operand at `b` (R156). -/
def bScale (rd : Nat → Byte) (b cb kb j : Nat) : Nat := (rd (b + kb * bBlock cb + 2 * j)).toNat
/-- Element b[32 kb + k][j] (R156). -/
def bElem (rd : Nat → Byte) (b cb kb k j : Nat) : Int :=
  let at_ := b + kb * bBlock cb + 128 + cb * (64 * k + j)
  if cb = 1 then (rd at_).toInt else ((rd (at_ + 1)) ++ (rd at_)).toInt
/-- Whether column `j` reads a poisoned word in block `kb` (R162). -/
def bBad (bad : Nat → Bool) (b cb kb j : Nat) : Bool :=
  bad (b + kb * bBlock cb + 2 * j) ||
  (List.range 32).any (fun k => bad (b + kb * bBlock cb + 128 + cb * (64 * k + j)))

/-! ## The matrix queue (R158) -/

/-- Matrix-queue entries in use on a core, reserved ones included. -/
def Core.matUsed (co : Core) : Nat :=
  co.matq.length + (co.slots.map (fun e => match e.2 with | some sl => sl.matq.length | none => 0)).sum

/-- Whether an operation works on slice `sl`. -/
def MatOp.onSlice (op : MatOp) (sl : Nat) : Bool :=
  match op with
  | .zero x => decide (x = sl)
  | .scale x _ => decide (x = sl)
  | .mma _ x .. => decide (x = sl)
  | .gang _ => false

/-- Whether slice `sl` of a core is busy (R158). -/
def Core.sliceBusy (co : Core) (sl : Nat) : Bool := co.matq.any (fun e => e.op.onSlice sl)

/-- Reserves a queue entry for an operation and retires; with no free entry the slot waits. In an irrevocable span the
entry is released at once (R158), unless its span's gang has failed (R161). -/
def State.enqueue (s : State) (i : Instr) (u : Ctl) (sl : Slot) (op : MatOp) : State :=
  if 16 ≤ s.curCore.matUsed then s.putCur sl
  else if sl.irrev then
    let e : MatEntry := { act := sl.act, commits := sl.commits, op := op }
    (s.modCore s.cur.1 (fun co =>
      if co.deadMat.contains (sl.act, sl.commits) then co else { co with matq := co.matq ++ [e] })).retire i u none sl
  else s.retire i u none { sl with matq := sl.matq ++ [op] }

/-- Runs an instruction that names slice `n`, or traps `mat.slice` (R154). -/
def State.onSlice (s : State) (sl : Slot) (n : BitVec 2) (go : State) : State :=
  if s.hasSlice s.cur.1 n.toNat then go else s.trap0 sl .matSlice

/-- `mzero` (R159). -/
def execMzero (u : Ctl) (n : BitVec 2) (s : State) : Out :=
  .next (s.issue (.mzero u n) u .scalar false fun sl =>
    s.onSlice sl n (s.enqueue (.mzero u n) u sl (.zero n.toNat)))
/-- `mscale` (R165). -/
def execMscale (u : Ctl) (n : BitVec 2) (a : Reg) (s : State) : Out :=
  .next (s.issue (.mscale u n a) u .scalar false fun sl =>
    s.onSlice sl n (s.enqueue (.mscale u n a) u sl (.scale n.toNat ((sl.getX a).setWidth 32))))

/-- `mlda` (R160): checks the region; no readable state changes. -/
def execMlda (u : Ctl) (pa : BitVec 5) (a b : Reg) (s : State) : Out :=
  .next (s.issue (.mlda u pa a b) u .scalar false fun sl =>
    let k := (sl.getX b).toNat
    if s.cur.1 ≠ gangLeader s.cur.1 then s.trap0 sl .matLeader
    else if s.regionOk s.cur.1 (sl.getX a) (k / 32 * aBlock pa.toNat) k then s.retire (.mlda u pa a b) u none sl
    else s.trap sl .matOperand (sl.getX a))
/-- `mldb` (R160). -/
def execMldb (u : Ctl) (bw : BitVec 1) (a b : Reg) (s : State) : Out :=
  .next (s.issue (.mldb u bw a b) u .scalar false fun sl =>
    let k := (sl.getX b).toNat
    if s.regionOk s.cur.1 (sl.getX a) (k / 32 * bBlock (container (decide (bw = 1)))) k then
      s.retire (.mldb u bw a b) u none sl
    else s.trap sl .matOperand (sl.getX a))

/-- `gang` (R161): a handle that names no counter of the context traps `ctr.handle` (R139). Two gangs of one span before their
`mma`s pair with these in order, the first with the first: the spec does not say how they pair (log 131). -/
def execGang (u : Ctl) (a : Reg) (s : State) : Out :=
  .next (s.issue (.gang u a) u .scalar false fun sl => s.onCounter sl a fun h =>
    s.enqueue (.gang u a) u (if 16 ≤ s.curCore.matUsed then sl else { sl with unpaired := sl.unpaired + 1 }) (.gang h))

/-- `mma` (R161, R162): without an unpaired `gang` it traps `mat.form`; both regions are checked on the own core. -/
def execMma (u : Ctl) (pa : BitVec 5) (n : BitVec 2) (bw : BitVec 1) (a b c : Reg) (s : State) : Out :=
  .next (s.issue (.mma u pa n bw a b c) u .scalar false fun sl =>
    let k := (sl.getX c).toNat
    if sl.unpaired = 0 then s.trap0 sl .matForm
    else s.onSlice sl n (
      if !s.regionOk s.cur.1 (sl.getX a) (k / 32 * aBlock pa.toNat) k then s.trap sl .matOperand (sl.getX a)
      else if !s.regionOk s.cur.1 (sl.getX b) (k / 32 * bBlock (container (decide (bw = 1)))) k then
        s.trap sl .matOperand (sl.getX b)
      else s.enqueue (.mma u pa n bw a b c) u
        (if 16 ≤ s.curCore.matUsed then sl else { sl with unpaired := sl.unpaired - 1 })
        (.mma pa.toNat n.toNat (decide (bw = 1)) (sl.getX a).toNat (sl.getX b).toNat k)))

/-! ## Performing released operations -/

/-- Adds to the context's matrix counters MOF, MNV and MNB (R169). -/
def State.matCount (s : State) (k mof mnv mnb : Nat) : State :=
  s.modCtx k (fun x => { x with mof := satAdd32 x.mof mof, mnv := satAdd32 x.mnv mnv, mnb := satAdd32 x.mnb mnb })

/-- The head of a core's matrix queue leaves it. -/
def State.popMat (s : State) (c : Nat) : State := s.modCore c (fun co => { co with matq := co.matq.tail })

/-- `mscale` on a slice: one RNE rounding per element; overflows add to MOF, invalid products to MNV (R165, R218). -/
def State.scaleSlice (s : State) (c sl : Nat) (f : BitVec 32) : State :=
  let rs := (List.range 4096).map (fun n => Float.mul .f32 0 { core := c, idx := 0 } (s.cell c sl n) f.toNat)
  (s.setSlice c sl (rs.map Prod.fst)).matCount (s.coreCtx c)
    (rs.countP (fun r => decide (r.2 &&& Float.fof ≠ 0))) (rs.countP (fun r => decide (r.2 &&& Float.fnv ≠ 0))) 0

/-- MATRIX_OP_PERFORMED (R158, R165): the head of a core's queue, `mzero` or `mscale`, is performed; a `mma` waits for its
join (R161). -/
def execMatrixOpPerformed (core : Nat) (s : State) : Out :=
  .next (match (s.core core).matq with
    | [] => s
    | e :: _ => match e.op with
      | .zero sl => (s.setSlice core sl (List.replicate 4096 0)).popMat core
      | .scale sl f => (s.scaleSlice core sl f).popMat core
      | .gang _ => s
      | .mma .. => s)

/-! ## The gang join (R161) -/

/-- `gang.to` of the context of a core. -/
def State.gangTo (s : State) (c : Nat) : Nat := (s.ctx (s.coreCtx c)).gangTo.toNat

/-- The remaining matrix operations of a span leave a core, and those it still issues are discarded (R161). -/
def State.dropMatSpan (s : State) (c act commits : Nat) (code : BitVec 8) : State :=
  s.modCore c (fun co => { co with
    matq := co.matq.filter (fun e => !(decide (e.act = act) && decide (e.commits = commits)))
    deadMat := (act, commits) :: co.deadMat, gangFail := code })

/-- The first arrival of a join: the earliest, and the lowest member among those of one cycle (R161). -/
def firstArr : List GangArr → Option GangArr
  | [] => none
  | a :: as => match firstArr as with
    | none => some a
    | some b => if b.cycle < a.cycle ∨ (b.cycle = a.cycle ∧ b.core < a.core) then some b else some a

/-- Whether two arrivals are of one span. -/
def GangArr.sameSpan (a b : GangArr) : Bool := decide (a.core = b.core) && decide (a.act = b.act) && decide (a.commits = b.commits)

/-- A gang's join fails: no `mma` is performed, every member of the failed join drops the rest of its span, with further arrivals
of it, the counter gets +1 with the code, and the supervisor a record (Table 8.2). -/
def State.gangFails (s : State) (g : Nat) (failed : List GangArr) (code : BitVec 8) (cause : Cause) (h : Nat) (late : List Nat) : State :=
  let s1 := failed.foldl (fun t a => t.dropMatSpan a.core a.act a.commits code) s
  let s2 := s1.modGang g (fun x => { x with
    arrivals := x.arrivals.filter (fun b => !failed.any (fun a => a.sameSpan b)), late := x.late ++ late })
  (s2.unitRecord (coreDie g) (unitGang g) (s.coreCtx g) g
    { cause := cause, kind := 3, info := Config.openInfo s.tick, info2 := handleOf h }).complete (some h) code

/-- Whether every member of a gang has joined: its `gang` has raised its arrival. -/
def State.gangFull (s : State) (g : Nat) : Bool :=
  (List.range 4).all (fun m => (s.gang g).arrivals.any (fun a => decide (a.core = g + m)))

/-- A gang's open join has run out of time: its last member has not joined `gang.to` cycles after the first (Table 8.2). -/
def State.gangExpired (s : State) (g : Nat) : Bool :=
  !s.gangFull g && match firstArr (s.gang g).arrivals with
  | none => false
  | some a => decide (a.cycle + s.gangTo g ≤ s.cycle)

/-- The arrival that pairs with the `mma` at the head of a core's queue: of the same span the first (R161; log 131). -/
def State.pairedArr (s : State) (g c : Nat) : Option GangArr :=
  match (s.core c).matq with
  | { act := act, commits := commits, op := .mma .. } :: _ =>
    (s.gang g).arrivals.find? (fun a => GangArr.sameSpan { core := c, act := act, commits := commits } a)
  | _ => none

/-- Whether every member has arrived and the paired `mma` stands at the head of its queue. -/
def State.gangReady (s : State) (g : Nat) : Bool :=
  decide ((s.gang g).step = none) && (List.range 4).all (fun m => (s.pairedArr g (g + m)).isSome)

/-- The arrivals of the join that a gang's members have open: each member's first. -/
def Gang.open_ (x : Gang) : List GangArr :=
  x.arrivals.filter (fun b => decide (x.arrivals.find? (fun a => decide (a.core = b.core)) = some b))

/-- The failed join of a gang whose time has run out: the first arrival's counter, the members not arrived late (R161). -/
def State.gangTimesOut (s : State) (g : Nat) : State :=
  match firstArr (s.gang g).arrivals with
  | none => s
  | some a => s.gangFails g (s.gang g).open_ 0x90 .gangTimeout a.ctr
      (((List.range 4).map (g + ·)).filter (fun c => !(s.gang g).arrivals.any (fun b => decide (b.core = c))))

/-- GANG_TIMEOUT (R161). -/
def execGangTimeout (leader : Nat) (s : State) : Out :=
  .next (if s.gangExpired leader then s.gangTimesOut leader else s)

/-- GANG_ARRIVAL (R161 step 1): the `gang` at the head of a core's queue raises its arrival and leaves the queue at once; a late
member's is discarded with its paired `mma` and the rest of its span, as those of every member, and reported. A join whose time has
run out fails first. -/
def execGangArrival (core : Nat) (s : State) : Out :=
  let g := gangLeader core
  .next (match (s.core core).matq with
    | { act := act, commits := commits, op := .gang h } :: _ =>
      if s.gangExpired g then s.gangTimesOut g
      else if (s.gang g).late.contains core then
        ((s.dropMatSpan core act commits 0x90).modGang g (fun x => { x with late := x.late.erase core })).unitRecord (coreDie core) (unitGang g) (s.coreCtx core) core
          { cause := .gangTimeout, kind := 3, info := Config.openInfo s.tick, info2 := handleOf h }
      else (s.popMat core).modGang g (fun x => { x with
        arrivals := x.arrivals ++ [{ core := core, cycle := s.cycle, ctr := h, act := act, commits := commits }] })
    | _ => s)

/-- The counter that a member's `gang` names, and the K and pa of its `mma`: what the leader compares (R161). -/
def State.gangTerms (s : State) (g c : Nat) : Option (Nat × Nat × Nat) :=
  match s.pairedArr g c, (s.core c).matq with
  | some a, { act := _, commits := _, op := .mma pa _ _ _ _ k } :: _ => some (a.ctr, k, pa)
  | _, _ => none

/-- GANG_JOIN (R161 steps 2 and 3): with every `mma` at its head the leader compares; a disagreement fails the join. -/
def execGangJoin (leader : Nat) (s : State) : Out :=
  .next (if s.gangReady leader then
      match s.gangTerms leader leader with
      | none => s
      | some t =>
        if (List.range 4).all (fun m => decide (s.gangTerms leader (leader + m) = some t)) then
          s.modGang leader (fun x => { x with step := some t.1 })
        else s.gangFails leader ((List.range 4).filterMap (fun m => s.pairedArr leader (leader + m))) 0x91 .gangMismatch t.1 []
    else s)

/-! ## The matrix step (R162, R219) -/

/-- One block's add into one element: its new bits, and whether it counts in MOF, MNV, MNB. `t` is the exact term
(sum, exponent), or none for a NaN block. A negative sum that rounds to zero becomes +0: an element is not −0 after a block whose
term was not zero (R219; log 132). -/
def cellAdd (core kb : Nat) (c0 : Nat) (t : Option (Int × Int)) : Nat × Nat × Nat × Nat :=
  let g : Float.Gen := { core := core, idx := kb % 512 }
  match t with
  | none => (((Float.propagate .f32 [c0, (Float.genNan .f32 g).1]).getD (0, 0)).1, 0, 0, 1)
  | some (v, e) =>
    match Float.propagate .f32 [c0] with
    | some r => (r.1, 0, 0, 0)
    | none =>
      let r := Float.addVals .f32 0 g (Float.dec .f32 c0) (.fin (decide (v < 0)) v.natAbs e)
      (if r.1 = 0x80000000 then 0 else r.1, (decide (r.2 &&& Float.fof ≠ 0)).toNat, (decide (r.2 &&& Float.fnv ≠ 0)).toNat, 0)

/-- The term of block `kb` for element (i, j): none when either scale is 0xFF or a word is poisoned (R162). -/
def blockTerm (rdA rdB : Nat → Byte) (badA badB : Nat → Bool) (a pa b cb kb i j : Nat) : Option (Int × Int) :=
  let sa := aScale rdA a pa kb i
  let sb := bScale rdB b cb kb j
  if sa = 255 ∨ sb = 255 ∨ aBad badA a pa kb i ∨ bBad badB b cb kb j then none
  else some (((List.range 32).map (fun k => aElem rdA a pa kb i k * bElem rdB b cb kb k j)).sum, (sa : Int) + sb - 254)

/-- Element (i, j) after `nb` blocks in ascending order, with its counts. -/
def cellStep (core : Nat) (term : Nat → Option (Int × Int)) (nb c0 : Nat) : Nat × Nat × Nat × Nat :=
  (List.range nb).foldl (fun acc kb =>
    let r := cellAdd core kb acc.1 (term kb)
    (r.1, acc.2.1 + r.2.1, acc.2.2.1 + r.2.2.1, acc.2.2.2 + r.2.2.2)) (c0, 0, 0, 0)

/-- A member's `mma` over `nb` blocks: A comes from the leader's address in the leader's pool, B from the member's. -/
def State.mmaMember (s : State) (leader la pa c sl : Nat) (bw : Bool) (b nb : Nat) : State :=
  let cb := container bw
  let rdA (o : Nat) : Byte := s.byte (poolKey leader o)
  let rdB (o : Nat) : Byte := s.byte (poolKey c o)
  let badA (o : Nat) : Bool := s.poisoned (poolKey leader o)
  let badB (o : Nat) : Bool := s.poisoned (poolKey c o)
  let rs := (List.range 4096).map (fun n =>
    cellStep c (fun kb => blockTerm rdA rdB badA badB la pa b cb kb (n / 64) (n % 64)) nb (s.cell c sl n))
  (s.setSlice c sl (rs.map Prod.fst)).matCount (s.coreCtx c) (rs.map (fun r => r.2.1)).sum
    (rs.map (fun r => r.2.2.1)).sum (rs.map (fun r => r.2.2.2)).sum

/-- MMA_STEP_COMPLETE (R162, R164, R222): each member's slice takes its blocks, the counts enter the context, and the
counter gets +1. A block whose residue check failed three times ends the step before it, with code 0x92. -/
def execMmaStepComplete (leader : Nat) (badBlock : Option Nat) (s : State) : Out :=
  .next (match (s.gang leader).step, (s.core leader).matq with
    | some h, { act := _, commits := _, op := .mma pa _ _ la _ k } :: _ =>
      let nb := min (badBlock.getD (k / 32)) (k / 32)
      let failed := decide (nb < k / 32)
      let s0 := (List.range 4).foldl (fun t m => t.bankFlush (leader + m)) s
      let s1 := (List.range 4).foldl (fun t m => match (t.core (leader + m)).matq with
        | { act := _, commits := _, op := .mma _ sl bw _ b _ } :: _ =>
          (t.mmaMember leader la pa (leader + m) sl bw b nb).popMat (leader + m)
        | _ => t) s0
      let s2 := s1.modGang leader (fun x => { x with
        arrivals := ((List.range 4).filterMap (fun m => s.pairedArr leader (leader + m))).foldl List.erase x.arrivals, step := none })
      if failed then
        let s3 := (List.range 4).foldl (fun t m => t.modCore (leader + m) (fun co => { co with gangFail := 0x92 })) s2
        (s3.unitRecord (coreDie leader) (unitGang leader) (s.coreCtx leader) leader
          { cause := .matResidue, kind := 3, info := Config.openInfo s.tick, info2 := handleOf h }).complete (some h) 0x92
      else s2.complete (some h) 0
    | _, _ => s)

/-! ## `mst` (R165) -/

/-- `mst` (R165): waits until the slice is not busy, then writes it row-major through the port, not journalled. -/
def execMst (u : Ctl) (n : BitVec 2) (a : Reg) (imm : BitVec 32) (s : State) : Out :=
  .next (s.issue (.mst u n a imm) u .scalar false fun sl =>
    if !sl.mayAccess then s.putCur sl else s.onSlice sl n (
      let c := s.cur.1
      let ea := (sl.getX a + sext32 imm).toNat
      match place c ea with
      | .far _ => s.trap sl .matOperand (w64 ea)
      | .pool t off =>
        if ea % 64 ≠ 0 ∨ (s.core t).ctx ≠ (s.core c).ctx ∨ s.scrBytes t < off + 16384 then s.trap sl .matOperand (w64 ea)
        else if s.curCore.sliceBusy n.toNat then s.putCur sl
        else
          let bytes := (List.range 16384).map (fun j => (ea + j, poolKey t (off + j), s.byte (s.sliceKey c n.toNat + j)))
          (s.accept c sl.act bytes).retire (.mst u n a imm) u none { sl with newer := s.newerOf sl bytes }))

/-! ## Quantisation (R166, R167, R220) -/

/-- A block of `mquant`: its 16-bit header, the element integers, the saturated elements. -/
structure QBlock where
  header : Nat := 0
  elems : List Int := []
  sat : Nat := 0
  deriving DecidableEq, Repr

/-- Q of a format (R166 step 3). -/
def quantQ (fmt : Nat) : Nat := [7, 127, 2047, 32767, 6].getD fmt 6
/-- The plane count of a format in the A layout (R166). -/
def quantPlanes (fmt : Nat) : Nat := [4, 8, 12, 16, 5].getD fmt 5
/-- The container of a format in the B layout (R166). -/
def quantContainer (fmt : Nat) : Nat := if fmt = 2 ∨ fmt = 3 then 2 else 1

/-- A finite FP32 value as sign, magnitude and exponent; none for NaN and ±∞. -/
def finite (bits : Nat) : Option (Bool × Nat × Int) :=
  match Float.dec .f32 bits with
  | .fin s m e => some (s, m, e)
  | _ => none

/-- The smallest integer e with m × 2^me ≤ Q × 2^e; −127 for m = 0 (R166 step 3). -/
def quantExp (q m : Nat) (me : Int) : Int :=
  if m = 0 then -127
  else (((List.range 400).map (fun (i : Nat) => (i : Int) - 200)).find? (fun e =>
    decide (m * 2 ^ (me + 300).toNat ≤ q * 2 ^ (e + 300).toNat))).getD 199

/-- A signed integer of a sign and a magnitude. -/
def signedOf (s : Bool) (n : Nat) : Int := if s then -(n : Int) else n

/-- A BX block (R166 step 4). -/
def quantBx (q : Nat) (e : Int) (xs : List (Bool × Nat × Int)) : QBlock :=
  let scale := (max (e + 127) 0).toNat
  let rs := xs.map (fun x => (x.1, (Float.quant 0 x.1 x.2.1 x.2.2 ((scale : Int) - 127)).1))
  { header := scale, elems := rs.map (fun r => signedOf r.1 (min r.2 q)), sat := rs.countP (fun r => decide (q < r.2)) }

/-- The E2M1 grid in halves, by code (Table 10.4). -/
def grid : List Nat := [0, 1, 2, 3, 4, 6, 8, 12]
/-- The special magnitudes in halves (R167). -/
def specials : List Nat := [5, 7, 10, 14]
/-- One half of the grid's unit, in the common unit 2^-300 of the exact errors. -/
def half : Nat := 2 ^ 299

/-- The code of the grid value nearest to a magnitude, a tie going to the even code; beyond 6, code 7 (R167). -/
def gridCode (v : Nat) : Nat :=
  if 12 * half < v then 7 else
  (List.range 8).foldl (fun best k =>
    let d (j : Nat) : Nat := ((v : Int) - (grid.getD j 0 * half : Nat)).natAbs
    if d k < d best ∨ (d k = d best ∧ k % 2 = 0) then k else best) 0

/-- An element in the common unit: its signed value, its plain rounding in halves, whether it is saturated. -/
def plainElem (E : Int) (x : Bool × Nat × Int) : Int × Int × Bool :=
  let v := x.2.1 * 2 ^ (x.2.2 - (E - 127) + 300).toNat
  (signedOf x.1 v, signedOf x.1 (grid.getD (gridCode v) 0), decide (12 * half < v))

/-- The special value of an index in halves (R167). -/
def specialOf (s : Nat) : Int := signedOf (decide (4 ≤ s)) (specials.getD (s % 4) 0)
/-- The squared error of an element taken as `p` halves. -/
def sqErr (v p : Int) : Nat := ((v - p * half).natAbs) ^ 2
/-- Whether an element is strictly nearer to the special value than to its plain rounding. -/
def takes (s : Nat) (e : Int × Int × Bool) : Bool := decide (sqErr e.1 (specialOf s) < sqErr e.1 e.2.1)
/-- The block's sum of squared errors under index `s`. -/
def specialSum (s : Nat) (es : List (Int × Int × Bool)) : Nat :=
  (es.map (fun e => if takes s e then sqErr e.1 (specialOf s) else sqErr e.1 e.2.1)).sum

/-- An E2M1S block in its five-plane form (R167). -/
def quantE2m1s (e : Int) (xs : List (Bool × Nat × Int)) : QBlock :=
  let E := max (e + 127) 1
  let es := xs.map (plainElem E)
  let plain := (es.map (fun x => sqErr x.1 x.2.1)).sum
  let best := (List.range 8).foldl (fun b s => if specialSum s es < specialSum b es then s else b) 0
  let use := decide (specialSum best es < plain)
  { header := (E - 1).toNat + (if use then best * 256 else 0)
    elems := es.map (fun x => if use && takes best x then specialOf best else x.2.1)
    sat := es.countP (fun x => x.2.2) }

/-- One block of 32 elements: `m` is the agreed maximum's bits, or none for the block's own (R166). -/
def quantBlock (fmt : Nat) (m : Option Nat) (xs : List Nat) : QBlock :=
  let nan : QBlock := { header := 0xFF, elems := List.replicate 32 0 }
  match xs.mapM finite, (match m with | some b => (finite b).map some | none => some none) with
  | some fs, some agreed =>
    let top : Nat × Int := match agreed with
      | some a => (a.2.1, a.2.2)
      | none => fs.foldl (fun b x => if b.1 * 2 ^ (b.2 + 300).toNat < x.2.1 * 2 ^ (x.2.2 + 300).toNat then x.2 else b)
          (0, 0)
    let e := quantExp (quantQ fmt) top.1 top.2
    if fmt = 4 then quantE2m1s e fs else quantBx (quantQ fmt) e fs
  | _, _ => nan

/-- The header and plane words of an A block from its 64 rows (R155). -/
def aBytes (pa : Nat) (rows : List QBlock) : List Byte :=
  let bit (i k p : Nat) : Nat :=
    if (BitVec.ofInt 16 ((rows.getD i {}).elems.getD k 0)).getLsbD p then 1 else 0
  rows.flatMap (fun r => [BitVec.ofNat 8 r.header, BitVec.ofNat 8 (r.header / 256)]) ++
  (List.range (32 * pa)).flatMap (fun w => (List.range 8).map (fun b =>
    BitVec.ofNat 8 (((List.range 8).map (fun j => bit (8 * b + j) (w / pa) (w % pa) * 2 ^ j)).sum)))

/-- The headers and elements of a B block from its 64 columns (R156). -/
def bBytes (cb : Nat) (cols : List QBlock) : List Byte :=
  cols.flatMap (fun r => [BitVec.ofNat 8 r.header, BitVec.ofNat 8 (r.header / 256)]) ++
  (List.range 32).flatMap (fun k => cols.flatMap (fun r => (List.range cb).map (fun j =>
    BitVec.ofInt 8 (r.elems.getD k 0 / 256 ^ j))))

/-- The FP32 sources of row or column `line` in block `kb` (R166): row pitch 4K for `.a`, 64 elements a row for `.b`. -/
def quantSrc (rd : Nat → Nat) (layB : Bool) (k kb line : Nat) : List Nat :=
  (List.range 32).map (fun i => if layB then rd (64 * (32 * kb + i) + line) else rd (k * line + 32 * kb + i))

/-- The blocks of an `mquant`, by block and then by row or column. -/
def quantAll (rd : Nat → Nat) (fmt : Nat) (layB : Bool) (m : Option Nat) (k : Nat) : List (List QBlock) :=
  (List.range (k / 32)).map (fun kb => (List.range 64).map (fun line => quantBlock fmt m (quantSrc rd layB k kb line)))

/-- `mquant` (R166, R167): both regions are checked, the source is read as pool loads, the blocks are written through the
port without a journal entry, and saturated elements count in the shadow's MSAT. -/
def execMquant (u : Ctl) (fmt : BitVec 3) (lay loc : BitVec 1) (a b c : Reg) (imm : BitVec 32) (s : State) : Out :=
  .next (s.issue (.mquant u fmt lay loc a b c imm) u .scalar false fun sl =>
    if !sl.mayAccess then s.putCur sl else
    let k := imm.toNat
    let core := s.cur.1
    let layB := decide (lay = 1)
    let pa := quantPlanes fmt.toNat
    let cb := quantContainer fmt.toNat
    let src := sl.getX a
    let dst := sl.getX b
    let size := if layB then k / 32 * bBlock cb else k / 32 * aBlock pa
    if !s.regionOk core src (256 * k) k then s.trap sl .matOperand src
    else if !s.regionOk core dst size k then s.trap sl .matOperand dst
    else
      let r := s.poolRead sl core src.toNat src.toNat (256 * k)
      match r.poison with
      | some va => s.trap sl .memPoison (w64 (va / 8 * 8))
      | none =>
        let rd (n : Nat) : Nat := leNat ((r.bytes.drop (4 * n)).take 4)
        let m := if loc = 1 then none else some ((sl.getX c).toNat % 2 ^ 31)
        let blocks := quantAll rd fmt.toNat layB m k
        let bytes := blocks.flatMap (fun x => if layB then bBytes cb x else aBytes pa x)
        let sat := (blocks.map (fun x => (x.map QBlock.sat).sum)).sum
        let out := bytes.zipIdx.map (fun y => (dst.toNat + y.2, poolKey core (dst.toNat + y.2), y.1))
        (s.accept core sl.act out).retire (.mquant u fmt lay loc a b c imm) u none
          { sl with newer := s.newerOf sl out, shadow := { sl.shadow with msat := sl.shadow.msat + sat } })

/-! ## Agreement (R168) -/

/-- `maxbar` (R168). -/
def execMaxbar (u : Ctl) (d a b : Reg) (s : State) : Out :=
  .next (s.issue (.maxbar u d a b) u .scalar false fun sl =>
    let k := s.coreCtx s.cur.1
    let g := bits (sl.getX b) 0 8
    if !Group.v (s.group k g) then s.trap sl .msgDest (sl.getX b)
    else if !s.groupHas k g s.cur.1 then s.trap sl .groupMember (sl.getX b)
    else s.launch (.maxbar u d a b) u sl d (.maxbar g ((sl.getX a).setWidth 32)) 0 0xFFFF false [])

/-- MAXBAR_TIMEOUT (R168). -/
def execMaxbarTimeout (ctx grp : Nat) (s : State) : Out :=
  .next (if s.maxExpired ctx grp && !s.maxFull ctx grp then s.maxFails ctx grp else s)

/-- MAXBAR_CONTRIBUTION (R168): an outstanding `maxbar` reaches the bank that combines the round. -/
def execMaxbarContribution (core slot id : Nat) (s : State) : Out :=
  .next (match s.slot core slot with
    | none => s
    | some sl => match sl.loads.find? (fun l => decide (l.id = id)) with
      | some { op := .maxbar g v, res := none, .. } =>
        let r := s.contribute core g v
        r.1.setRes core slot id r.2
      | _ => s)

/-- MAXBAR_ROUND_COMPLETE (R168): every member has contributed; the agreed value goes to each. -/
def execMaxbarRoundComplete (ctx grp : Nat) (s : State) : Out :=
  .next (if s.maxFull ctx grp then s.maxDone ctx grp else s)

/-! ## `mstat` (R169) -/

/-- The value that `mstat` reads. -/
def State.mstatValue (s : State) (sel : Nat) : Word :=
  let x := s.ctx (s.coreCtx s.cur.1)
  let co := s.curCore
  match sel with
  | 0 => x.mof.setWidth 64
  | 1 => x.mnv.setWidth 64
  | 2 => x.mnb.setWidth 64
  | 3 => x.msatNow.setWidth 64
  | 4 => w64 (((List.range 4).map (fun c => (co.sliceBusy c).toNat * 2 ^ c)).sum + co.matUsed % 256 * 256)
  | _ => co.gangFail.setWidth 64

/-- `mstat` (R169). It reads its value at issue and waits for nothing: R183 says of `mst` and `mstat` that they wait only for released
operations, and names none that `mstat` waits for (log 133). -/
def execMstat (u : Ctl) (d : Reg) (sel : BitVec 3) (s : State) : Out :=
  .next (s.issue (.mstat u d sel) u .scalar false fun sl =>
    s.retire (.mstat u d sel) u (some { d := d, x := s.mstatValue sel.toNat }) sl)

end Sys2Proof.Machine
end

