-- ==== Sys2Proof/Machine/Groups.lean ====
section
/-! DEFINITION. Wired barriers and multicast (08_isa_matrix_engines R180, R181; 23 R358). -/

namespace Sys2Proof.Machine

/-- A round of the wired barrier of group `g`. -/
def State.barRound (s : State) (k g : Nat) : GbarRound := Sparse.get {} (s.ctx k).gbarRounds g
/-- Writes a round. -/
def State.setBarRound (s : State) (k g : Nat) (r : GbarRound) : State :=
  s.modCtx k (fun x => { x with gbarRounds := Sparse.set {} x.gbarRounds g r })

/-- `gbar` (R180): the group is checked at issue; the arrival is raised once released. -/
def execGbar (u : Ctl) (a b : Reg) (s : State) : Out :=
  .next (s.issue (.gbar u a b) u .scalar false fun sl =>
    let k := s.coreCtx s.cur.1
    let g := bits (sl.getX a) 0 8
    if !Group.v (s.group k g) then s.trap sl .msgDest (sl.getX a)
    else if !Group.rc (s.group k g) then s.trap sl .groupKind (sl.getX a)
    else if !s.groupHas k g s.cur.1 then s.trap sl .groupMember (sl.getX a)
    else s.onCounter sl b fun h =>
      let e : Gbar := { id := s.curCore.nextEntry, grp := g, ctr := h, pc := sl.pc, act := sl.act, upto := sl.nextId }
      if sl.irrev then
        (s.modCore s.cur.1 (fun co => { co with gbars := co.gbars ++ [e] })).retire (.gbar u a b) u none sl
      else s.retire (.gbar u a b) u none { sl with gbars := sl.gbars ++ [e] })

/-- The first arrival of a round, as (core, cycle, counter): the earliest, the lowest core among those of one cycle (R180). -/
def firstIn : List (Nat × Nat × Nat) → Option (Nat × Nat × Nat)
  | [] => none
  | a :: as => match firstIn as with
    | none => some a
    | some b => if b.2.1 < a.2.1 ∨ (b.2.1 = a.2.1 ∧ b.1 < a.1) then some b else some a

/-- Whether a round has run out of time. -/
def State.barExpired (s : State) (k g : Nat) : Bool :=
  match firstIn (s.barRound k g).arrived with
  | none => false
  | some a => decide (a.2.1 + (s.ctx k).grpTo.toNat ≤ s.cycle)
/-- Whether every member has arrived. -/
def State.barFull (s : State) (k g : Nat) : Bool :=
  (s.groupMembers k g).all (fun c => (s.barRound k g).arrived.any (fun a => decide (a.1 = c)))

/-- A round fails: the first arrival's counter gets +1 with code 0x93, and a member that had not arrived has its next
arrival discarded (R180). -/
def State.barFails (s : State) (k g : Nat) : State :=
  let r := s.barRound k g
  match firstIn r.arrived with
  | none => s
  | some a =>
    let missing := (s.groupMembers k g).filter (fun c => !r.arrived.any (fun x => decide (x.1 = c)))
    (s.setBarRound k g { late := r.late ++ missing }).complete (some a.2.2) 0x93

/-- GBAR_TIMEOUT (R180). -/
def execGbarTimeout (ctx grp : Nat) (s : State) : Out :=
  .next (if s.barExpired ctx grp && !s.barFull ctx grp then s.barFails ctx grp else s)

/-- Whether every released store of core `c`, of whatever activation, is acknowledged, and every fold performed (R180,
R222). -/
def State.storesAcked (s : State) (c : Nat) : Bool :=
  (s.core c).released.all (fun r => r.e.op.key?.isNone || r.acked 4) &&
  (List.range 16).all (fun m => (s.core (memberOf c m)).stage.all (fun e => decide (e.core ≠ c))) &&
  s.fab.peers.all (fun p => (p.2.waiting ++ p.2.kept).all (fun x => !x.posted || decide (x.core ≠ c))) &&
  s.hostOut.all (fun w => decide (w.core ≠ c)) && (s.ctx (s.coreCtx c)).folds.all (fun f => decide (f.core ≠ c))

/-- Whether a core's arrival may be raised: the core's released stores are acknowledged, and what stands before it in its
activation (R180, R237). -/
def State.barMay (s : State) (c : Nat) (e : Gbar) : Bool :=
  s.storesAcked c && s.acked c e.act ((s.core c).released.filter (fun r => decide (r.e.id < e.id))) e.id e.upto 4

/-- GBAR_ARRIVAL (R180, R358): a core's first released arrival is raised; a late one is discarded and reported. -/
def execGbarArrival (core : Nat) (s : State) : Out :=
  .next (match (s.core core).gbars with
    | [] => s
    | e :: es =>
      if !s.barMay core e then s else
      let k := s.coreCtx core
      let s1 := if s.barExpired k e.grp && !s.barFull k e.grp then s.barFails k e.grp else s
      let r := s1.barRound k e.grp
      let s2 := s1.modCore core (fun co => { co with gbars := es })
      if r.late.contains core then
        (s2.setBarRound k e.grp { r with late := r.late.erase core }).record core
          { cause := .groupTimeout, kind := 3, pc := e.pc.setWidth 64, info := w64 e.grp, info2 := handleOf e.ctr }
      else if r.arrived.any (fun a => decide (a.1 = core)) then s
      else s2.setBarRound k e.grp { r with arrived := r.arrived ++ [(core, s.cycle, e.ctr)] })

/-- GBAR_RELEASE (R180): with every member arrived, the round's counter gets +1 and the next round begins. -/
def execGbarRelease (ctx grp : Nat) (s : State) : Out :=
  .next (match firstIn (s.barRound ctx grp).arrived with
    | none => s
    | some a =>
      if s.barFull ctx grp then
        (s.setBarRound ctx grp { late := (s.barRound ctx grp).late }).complete (some a.2.2) 0
      else s)

/-- `gmcast` (R181): one injection entry, a copy to every member. -/
def execGmcast (u : Ctl) (a b : Reg) (n : BitVec 3) (ch : BitVec 6) (s : State) : Out :=
  .next (s.issue (.gmcast u a b n ch) u .scalar false fun sl =>
    if s.replyClass sl then s.trap0 sl .sendReply
    else
      let x := readSrc s sl a
      let g := bits x.1 0 8
      if !Group.v (s.group (s.coreCtx s.cur.1) g) then s.trap sl .msgDest x.1
      else s.injects (.gmcast u a b n ch) u sl x.2 1 (.mcast g (s.message 0 ch false (sl.regs b n.toNat)) []))

end Sys2Proof.Machine
end

