-- ==== Sys2Proof/Machine/Jobs.lean ====
section
/-! DEFINITION. Job cards and the copy, distributor, Bramble and gather units (08_isa_matrix_engines R170 to R179). -/

namespace Sys2Proof.Machine

/-! ## Cards (R170) -/

namespace Job
/-- Word `i` of the card. -/
def w (j : Job) (i : Nat) : Word := j.words.getD i 0
/-- Word `i` of the card as a number. -/
def n (j : Job) (i : Nat) : Nat := (j.w i).toNat
/-- ENG. -/
def eng (j : Job) : Nat := bits (j.w 0) 60 4
/-- OPC. -/
def opc (j : Job) : Nat := bits (j.w 0) 56 4
/-- UNIT. -/
def unit (j : Job) : Nat := bits (j.w 0) 47 6
/-- NREG. -/
def nreg (j : Job) : Nat := bits (j.w 0) 43 4
/-- The die whose front-end takes the job: DIE, or the own die for the gather unit (R173). -/
def die (j : Job) : Nat := if j.eng = 4 then coreDie j.core else bits (j.w 0) 53 3

/-- Whether the target's ENG, OPC, DIE and UNIT are legal (Table 8.4). -/
def targetOk (j : Job) : Bool :=
  match j.eng with
  | 1 => decide (j.opc = 0) && decide (j.unit ≤ 7)
  | 2 => decide (j.opc = 0) && decide (j.unit = 0)
  | 3 => decide (j.opc ≤ 3)
  | 4 => decide (j.opc ≤ 1) && decide (j.unit = 0) && decide (bits (j.w 0) 53 3 = 0)
  | _ => false

/-- The last operand word an engine uses (Tables 8.6 to 8.9). -/
def lastOperand (j : Job) : Nat := match j.eng with | 1 => 5 | 2 => 7 | 3 => 11 | _ => 9

/-- The operand limits of Tables 8.6 to 8.9; `scr` is the issuing core's scratchpad size. -/
def operandsOk (j : Job) (scr : Nat) : Bool :=
  match j.eng with
  | 1 => decide (1 ≤ j.n 5) && decide (j.n 5 ≤ 2 ^ 40)
  | 2 => decide (1 ≤ j.n 4) && decide (j.n 4 ≤ 2 ^ 36) && decide (j.n 5 < 2 ^ 20) && decide (j.n 6 < 0x40000) &&
      decide (64 ≤ j.n 7) && decide (j.n 7 ≤ 65536) && decide (j.n 7 % 64 = 0)
  | 3 => decide (j.n 9 ≤ 2 ^ 24) && decide (j.n 10 ≤ 2 ^ 24) && decide (j.n 11 ≤ 1)
  | _ => decide (j.n 3 % 4 = 0) && decide (1 ≤ j.n 4) && decide (j.n 4 ≤ 2 ^ 20) &&
      (List.range 11).any (fun e => decide (j.n 7 = 2 ^ (e + 2))) && decide (j.n 8 < 0x40000) &&
      decide (j.n 8 + j.n 4 * j.n 7 ≤ scr) && decide (j.n 9 < 2 ^ 32) && (decide (j.n 9 = 0) || slotStart (j.n 9))

/-- Footprint regions: legal below NREG, zero from there on (Table 8.4). -/
def regionsOk (j : Job) : Bool :=
  decide (j.nreg ≤ 8) && (List.range 8).all (fun r =>
    if r < j.nreg then decide (bits (j.w (17 + 2 * r)) 48 15 = 0) && decide (1 ≤ bits (j.w (17 + 2 * r)) 0 48)
    else decide (j.w (16 + 2 * r) = 0) && decide (j.w (17 + 2 * r) = 0))

end Job

/-- Whether an address is a legal RES: a multiple of 8 in the local window or a window of a member of the context (R173). -/
def State.resOk (s : State) (c : Nat) (res : Nat) : Bool :=
  decide (res = 0) || (decide (res % 8 = 0) && (match place c res with
    | .pool t _ => decide ((s.core t).ctx = (s.core c).ctx)
    | .far _ => false))

/-- Whether a card passes the checks of R173; `gath` says that `gath` or `scat` issues it. -/
def State.cardOk (s : State) (j : Job) (gath : Bool) : Bool :=
  decide (bits (j.w 0) 0 43 = 0) && j.targetOk && (decide (j.eng = 4) == gath) && j.regionsOk &&
  (List.range 16).all (fun i => decide (i ≤ j.lastOperand) || decide (j.w i = 0)) && j.operandsOk (s.scrBytes j.core) &&
  (s.optCounter j.ctx (j.w 1)).isSome && s.resOk j.core (j.n 2)

/-- `job`, `gath` and `scat` (R173): the card is read at issue, as pool loads, which an earlier acquire may hold back (R123), and
takes four injection entries. -/
def State.sendCard (s : State) (i : Instr) (u : Ctl) (a : Reg) (gath : Bool) : State :=
  s.issue i u .scalar false fun sl =>
    if s.replyClass sl then s.trap0 sl .sendReply
    else if !sl.mayAccess then s.putCur sl
    else
      let c := s.cur.1
      let va := (sl.getX a).toNat
      if 0x40000 ≤ va then s.trap sl .jobCard (sl.getX a)
      else
        let r := s.poolRead sl c va va 256
        match r.poison with
        | some p => s.trap sl .memPoison (w64 (p / 8 * 8))
        | none =>
          let j : Job := { core := c, ctx := s.coreCtx c, card := va,
                           words := (List.range 32).map (fun w => w64 (leNat ((r.bytes.drop (8 * w)).take 8))) }
          if va % 64 ≠ 0 ∨ s.scrBytes c < va + 256 ∨ s.cardOk j gath = false then s.trap sl .jobCard (sl.getX a)
          else s.injects i u sl sl 4 (.job j)

/-- `job` (R173). -/
def execJob (u : Ctl) (a : Reg) (s : State) : Out := .next (s.sendCard (.job u a) u a false)
/-- `gath` (R173). -/
def execGath (u : Ctl) (a : Reg) (s : State) : Out := .next (s.sendCard (.gath u a) u a true)
/-- `scat` (R173). -/
def execScat (u : Ctl) (a : Reg) (s : State) : Out := .next (s.sendCard (.scat u a) u a true)

/-- `wptr` (R175): POS is sampled when the request arrives, at LOAD_REPLY. -/
def execWptr (u : Ctl) (d a : Reg) (s : State) : Out :=
  .next (s.issue (.wptr u d a) u .scalar false fun sl =>
    if !sl.mayAccess then s.putCur sl
    else
      let x := (sl.getX a).toNat
      if x / 2 ^ 11 ≠ 0 ∨ x / 8 % 32 ≠ 0 then s.trap sl .engHandle (sl.getX a)
      else s.launch (.wptr u d a) u sl d (.wptr (x / 256) (x % 8)) 0 0xFFFF (u.mo.getLsbD 0) [])

/-! ## The front-end (R171) -/

/-- The unit a job runs on: its engine and its number, the issuing core for the gather unit. -/
def Job.unitId (j : Job) : Nat × Nat := (j.eng, if j.eng = 4 then j.core else j.unit)

/-- A footprint region as (space, low, high, written): space 0 is virtual, c + 1 is core c's pool (R171). -/
def Job.region (j : Job) (r : Nat) : Nat × Nat × Nat × Bool :=
  let len := bits (j.w (17 + 2 * r)) 0 48
  let wr := (j.w (17 + 2 * r)).getLsbD 63
  match place j.core (j.n (16 + 2 * r)) with
  | .pool t off => (t + 1, off, off + len, wr)
  | .far va => (0, va, va + len, wr)
/-- The footprint of a job. -/
def Job.footprint (j : Job) : List (Nat × Nat × Nat × Bool) := (List.range j.nreg).map j.region
/-- Whether two footprints overlap where at least one side writes (R171). -/
def Job.clashes (j k : Job) : Bool :=
  j.footprint.any (fun a => k.footprint.any (fun b =>
    decide (a.1 = b.1) && decide (a.2.1 < b.2.2.1) && decide (b.2.1 < a.2.2.1) && (a.2.2.2 || b.2.2.2)))

/-- The job at place `n` of a front-end, if no earlier job holds it back (R171). -/
def State.startable (s : State) (die n : Nat) : Option Job :=
  match (s.die die).jobs[n]? with
  | none => none
  | some j =>
    if ((s.die die).jobs.take n).any (fun e => decide (e.unitId = j.unitId) || (decide (e.ctx = j.ctx) && e.clashes j))
    then none else some j

/-- Whether a store of the activation before release marker `id` has left its core and is not yet performed: a job sees it, so
its card arrives later (R245). -/
def State.storesBefore (s : State) (c act : Nat) (id : Option Nat) : Bool :=
  match id with
  | none => false
  | some m => (s.core c).released.any (fun r => decide (r.act = act) && decide (r.e.id < m) && r.e.op.key?.isSome)

/-- JOB_ARRIVAL (R171, R245, R313): a card on its way reaches the front-end, unless that or the die's record queue is full,
or a store before the marker that it stood behind is still on its way. -/
def execJobArrival (die n : Nat) (s : State) : Out :=
  .next (match s.flight[n]? with
    | some { src := src, act := act, op := .job j, after := after, .. } =>
      if j.die = die ∧ (s.die die).jobs.length < 512 ∧ (s.die die).recs.length < 64 ∧ s.storesBefore src act after = false then
        { s with flight := s.flight.eraseIdx n }.modDie die (fun x => { x with jobs := x.jobs ++ [j] })
      else s
    | _ => s)

/-! ## Engine accesses (R170, R172) -/

/-- Where an engine's byte lies: nowhere (a pool byte out of range, R14), in memory of this module or its host, or at a
physical address that another device holds. -/
inductive EngAt where
  | none
  | mem (key : Nat)
  | away (dev pa : Nat)
  deriving DecidableEq, Repr

/-- Where one byte lies as an engine of context `k` reaches it for core `c`; an error where translation or permission
fails (R172, R322). -/
def State.engKey (s : State) (k c va : Nat) (need : BitVec 8) : Except Cause EngAt :=
  match place c (va % 2 ^ 64) with
  | .pool t off =>
    if (s.core t).ctx ≠ some k then .error .memWindow
    else if s.scrBytes t ≤ off then .ok .none else .ok (.mem (poolKey t off))
  | .far va => match s.dirTranslate k va need with
    | .ok pa => match s.reach k pa need with
      | .mem key => .ok (.mem key)
      | .away dev => .ok (.away dev pa)
      | .fault e => .error e
    | .fault e => .error e
    | .miss => .error .rangeMiss

/-- The first address of the given runs (address, length, permission) that translation or permission here keeps out (R172). -/
def State.engMiss (s : State) (k c : Nat) (rs : List (Nat × Nat × BitVec 8)) : Option Nat :=
  rs.findSome? (fun r => (List.range r.2.1).findSome? (fun i =>
    match s.engKey k c (r.1 + i) r.2.2 with
    | .error _ => some (r.1 + i)
    | .ok _ => none))

/-- The first address of the given runs that fails: here, or where another device that a read reaches answers with a fault, which
is free (R172, R289). -/
def State.engFault (s : State) (k c : Nat) (rs : List (Nat × Nat × BitVec 8)) : Option Nat :=
  rs.findSome? (fun r => (List.range r.2.1).findSome? (fun i =>
    match s.engKey k c (r.1 + i) r.2.2 with
    | .error _ => some (r.1 + i)
    | .ok (.away _ pa) => if r.2.2 = permR ∧ Config.peerFaults s.tick pa then some (r.1 + i) else none
    | .ok _ => none))

/-- One byte as an engine reads it, and whether it is poisoned. -/
def State.engByte (s : State) (k c va : Nat) (need : BitVec 8) : Byte × Bool :=
  match s.engKey k c va need with
  | .ok (.mem key) => (s.byte key, s.poisoned key || (keyIsPool key && (s.core (keyCore key)).lost))
  | .ok (.away _ pa) => (Config.peerByte s.tick pa, false)
  | _ => (0, false)

/-- `n` bytes as an engine reads them, or the address of the first poisoned one (R172). -/
def State.engRead (s : State) (k c va n : Nat) : Except Nat (List Byte) :=
  let rs := (List.range n).map (fun i => s.engByte k c (va + i) permR)
  match rs.findIdx? Prod.snd with
  | some i => .error (va + i)
  | none => .ok (rs.map Prod.fst)

/-- The poison of source words travels with the words that an engine copies from them to the given addresses (R308). -/
def State.engSpoil (s : State) (k c : Nat) (vas : List Nat) : State :=
  vas.foldl (fun t va => match t.engKey k c va permW with
    | .ok (.mem key) => if t.poisoned key then t else t.setPoison key true
    | _ => t) s

/-- An engine's writes, bytes with their addresses: performed at their performing points, not journalled (R245). -/
def State.engWrite (s : State) (k c : Nat) (bs : List (Nat × Byte)) : State :=
  s.writeMem c (bs.filterMap (fun b => match s.engKey k c b.1 permW with
    | .ok (.mem key) => some (b.1, key, b.2)
    | _ => none))

/-- Bytes for other devices, as (device, virtual address, physical address, byte), cut into the payloads of cells: up to 96
bytes for one device (R327). -/
def cutCells : List (Nat × Nat × Nat × Byte) → List (Nat × Nat × List (Nat × Byte))
  | [] => []
  | (dev, va, pa, b) :: es => match cutCells es with
    | (d, v, bs) :: cs => if d = dev ∧ v = va + 1 ∧ bs.length < 96 then (dev, va, (pa, b) :: bs) :: cs
        else (dev, va, [(pa, b)]) :: (d, v, bs) :: cs
    | [] => [(dev, va, [(pa, b)])]

/-- The host links that an engine's writes go over (R323). -/
def State.engLinks (s : State) (k c : Nat) (bs : List (Nat × Byte)) : List Nat :=
  (bs.filterMap (fun b => match s.engKey k c b.1 permW with
    | .ok (.mem key) => if keyIsPool key = false ∧ paClass key = .host then some (hostLink key) else none
    | _ => none)).eraseDups

/-- The part of an engine's writes that other devices or the host acknowledge: cells numbered `id`, of a copy channel's
stream, or requests (Tables 14.3, 17.6); and what the host links carry (R323). -/
def State.engSend (s : State) (k c id : Nat) (stream : Bool) (bs : List (Nat × Byte)) : State :=
  let links := s.engLinks k c bs
  let s1 := if links = [] then s else
    { s with hostOut := s.hostOut ++ links.map (fun n => { link := n, core := c, act := 0, ent := id }) }
  (cutCells (bs.filterMap (fun b => match s.engKey k c b.1 permW with
    | .ok (.away dev pa) => some (dev, b.1, pa, b.2)
    | _ => none))).foldl (fun t e =>
      let x := t.reqCell c 0 e.1 e.2.1 (!stream)
      t.sendCell e.1 { x with
        ent := id, bytes := e.2.2,
        cell := if stream then { x.cell with kind := 3, vc := 2 } else x.cell }) s1

/-- An engine asks other devices for what runs of addresses read there: cells numbered `id` (R322, R330). -/
def State.engAsk (s : State) (k c id : Nat) (rs : List (Nat × Nat × BitVec 8)) : State :=
  (cutCells ((rs.filter (fun r => decide (r.2.2 = permR))).flatMap (fun r => (List.range r.2.1).filterMap (fun i =>
    match s.engKey k c (r.1 + i) permR with
    | .ok (.away dev pa) => some (dev, r.1 + i, pa, 0)
    | _ => none)))).foldl (fun t e => t.sendCell e.1 { t.reqCell c 0 e.1 e.2.1 false with ent := id }) s

/-! ## Pins (R172, R296) -/

/-- The runs of a card's operands: address, length and permission (Tables 8.6 to 8.9); of a gather, its index list. -/
def Job.runs (j : Job) : List (Nat × Nat × BitVec 8) :=
  match j.eng with
  | 1 => [(j.n 3, j.n 5, permR), (j.n 4, j.n 5, permW)]
  | 2 => [(j.n 3, j.n 4, permR)]
  | 3 => [(j.n 3, 4 * j.n 9, permR), (j.n 4, 4 * j.n 9, permR), (j.n 5, 4 * j.n 10, permR), (j.n 6, 4 * j.n 10, permR),
          (j.n 7, 4 * (j.n 9 + j.n 10), permW), (j.n 8, 4 * (j.n 9 + j.n 10), permW)]
  | _ => [(j.n 3, 4 * j.n 4, permR)]

/-- The ranges of context `k` that runs of addresses meet. -/
def State.rangesOf (s : State) (k c : Nat) (rs : List (Nat × Nat × BitVec 8)) : List Desc :=
  (s.dir k).filter (fun d => rs.any (fun r => match place c r.1 with
    | .pool .. => false
    | .far va => decide (va < d.limit) && decide (d.vbase < va + r.2.1)))

/-- Whether a range of the runs is moving: a pin of it waits until the compaction completes (Table 15.4). -/
def State.moves (s : State) (k c : Nat) (rs : List (Nat × Nat × BitVec 8)) : Bool :=
  (s.rangesOf k c rs).any (fun d => decide (d.st = 1))

/-- The job at place `n` of a front-end, when it may work: no earlier job holds it back and its pins do not wait. -/
def State.workable (s : State) (die n : Nat) : Option Job :=
  match s.startable die n with
  | none => none
  | some j => if j.pins = [] ∧ s.moves j.ctx j.core j.runs then none else some j

/-- The pins of a job on the ranges that runs of addresses meet. -/
def State.pinsOf (s : State) (j : Job) (rs : List (Nat × Nat × BitVec 8)) : List Nat :=
  (s.rangesOf j.ctx j.core rs).map Desc.vbase

/-- The job at place `n` of a front-end takes a new state. -/
def State.putJob (s : State) (die n : Nat) (j : Job) : State := s.modDie die (fun x => { x with jobs := x.jobs.set n j })

/-- The job at place `n` pins the ranges that its operands name. -/
def State.pinJob (s : State) (die n : Nat) (j : Job) : State := s.putJob die n { j with pins := s.pinsOf j j.runs }

/-- Whether pass `p` of a job reads memory of other devices on the given runs. -/
def State.readsAway (s : State) (j : Job) (rs : List (Nat × Nat × BitVec 8)) : Bool :=
  rs.any (fun r => decide (r.2.2 = permR) && (List.range r.2.1).any (fun i => match s.engKey j.ctx j.core (r.1 + i) permR with
    | .ok (.away ..) => true
    | _ => false))

/-- What pass `p` of a job comes to before it may read its runs: where these lie in other devices it asks for them, with its
ranges pinned, and waits until the requests have been performed there (R172, R322, R331). -/
def State.jobAsks (s : State) (die n : Nat) (j : Job) (p : Nat) (rs : List (Nat × Nat × BitVec 8)) : Option State :=
  if !s.readsAway j rs then none
  else match j.asks.find? (fun a => decide (a.1 = p)) with
    | some a => if s.engOut j.core a.2 then some s else none
    | none => if (s.engMiss j.ctx j.core rs).isSome then none
        else some ((s.engAsk j.ctx j.core s.tick rs).putJob die n { j with
          asks := j.asks ++ [(p, s.tick)], pins := s.pinsOf j (j.runs ++ rs) })

/-- A job starts: it translates its operands and pins their ranges, which hold until it ends (R172). -/
def jobStart (die n : Nat) (s : State) : State :=
  match s.workable die n with
  | none => s
  | some j => if j.pins = [] ∧ j.sent = none ∧ s.engMiss j.ctx j.core j.runs = none then s.pinJob die n j else s

/-- Every pool store of a core's cluster reaches its bank: an engine sees the pool stores made before the release (R245). -/
def State.flushCluster (s : State) (c : Nat) : State :=
  (List.range 16).foldl (fun t m => t.bankFlush (memberOf c m)) s

/-- `n` 32-bit words from bytes. -/
def words32 (bs : List Byte) (n : Nat) : List Nat := (List.range n).map (fun i => leNat ((bs.drop (4 * i)).take 4))
/-- The bytes of 32-bit words from an address upward. -/
def bytes32 (va : Nat) (ws : List Nat) : List (Nat × Byte) :=
  ws.zipIdx.flatMap (fun w => (List.range 4).map (fun j => (va + 4 * w.2 + j, BitVec.ofNat 8 (w.1 / 256 ^ j))))

/-! ## Completion and failure (R172) -/

/-- Removes the job at place `n` of a front-end. -/
def State.dropJob (s : State) (die n : Nat) : State := s.modDie die (fun x => { x with jobs := x.jobs.eraseIdx n })

/-- The counter a job names. -/
def State.jobCounter (s : State) (j : Job) : Option Nat := (s.optCounter j.ctx (j.w 1)).getD none

/-- A job completes: the result word, then +1 to its counter as a `.sys` release of its writes (R172). -/
def State.jobDone (s : State) (die n : Nat) (j : Job) (result : Word) : State :=
  let s1 := if j.n 2 = 0 then s else s.engWrite j.ctx j.core (State.wordBytes (j.n 2) result)
  (s1.complete (s.jobCounter j) 0).dropJob die n

/-- The unit number of a job's engine. -/
def Job.unitNo (j : Job) : Nat :=
  match j.eng with
  | 1 => unitCopy j.unit
  | 2 => unitDist
  | 3 => unitBramble j.unit
  | _ => unitGather j.core

/-- A job fails: no result word, +1 with the code, and a KIND 3 record (R172, Table 8.5). -/
def State.jobFail (s : State) (die n : Nat) (j : Job) (code : BitVec 8) (cause : Cause) (info info2 : Word) : State :=
  ((s.unitRecord die j.unitNo j.ctx j.core { cause := cause, kind := 3, pc := w64 j.card, info := info, info2 := info2 }).complete
    (s.jobCounter j) code).dropJob die n

/-- A failure by translation or permission (Table 8.5, 0xA0). -/
def State.jobFault (s : State) (die n : Nat) (j : Job) (info : Word) : State :=
  s.jobFail die n j 0xA0 .jobFault info (j.w 1)
/-- A failure by poison (Table 8.5, 0xA2). -/
def State.jobPoison (s : State) (die n : Nat) (j : Job) (va : Nat) : State :=
  s.jobFail die n j 0xA2 .jobPoison (w64 va) (j.w 1)

/-- The unspecified subset of its output that a job stopped by poison has written (Table 8.5; log 19). -/
def State.someOf {α : Type} (s : State) (bs : List α) : List α :=
  (bs.zipIdx.filter (fun b => Config.jobWrote s.tick b.2)).map Prod.fst

/-- POS of a channel. -/
def State.pos (s : State) (die ch : Nat) : Nat := Sparse.get 0 (s.die die).pos ch
/-- POS rises by the bytes written, modulo 2^64. -/
def State.addPos (s : State) (die ch n : Nat) : State :=
  s.modDie die (fun x => { x with pos := Sparse.modify 0 x.pos ch (fun p => (p + n) % 2 ^ 64) })

/-- A job whose writes are all performed ends: a copy's POS has risen by the bytes written (R174, R175, R247); then it completes,
or fails at the poisoned byte that has stopped it (R172). -/
def State.jobEnds (s : State) (die n : Nat) (j : Job) (result : Word) (stop : Option Nat) : State :=
  let s1 := if j.eng = 1 then s.addPos die j.unit result.toNat else s
  match stop with
  | none => s1.jobDone die n j result
  | some va => s1.jobPoison die n j va

/-- A job makes its writes, bytes with their addresses, on the ranges of `rs`: it ends once other devices and the host have
performed those that go there, with its ranges pinned until then (R172, R245, R331). -/
def State.jobWrites (s : State) (die n : Nat) (j : Job) (rs : List (Nat × Nat × BitVec 8)) (bs : List (Nat × Byte)) (result : Word)
    (stop : Option Nat) : State :=
  let s1 := (s.engWrite j.ctx j.core bs).engSend j.ctx j.core s.tick (decide (j.eng = 1)) bs
  if s1.engOut j.core s.tick then s1.putJob die n { j with sent := some (s.tick, result), stop := stop, pins := s.pinsOf j rs }
  else s1.jobEnds die n j result stop

/-- A job stopped by poison has written some of its output, bytes with their addresses and whether each is of a poisoned word,
which stays poisoned where it comes to stand (R308, Table 8.5). -/
def State.jobStops (s : State) (die n : Nat) (j : Job) (rs : List (Nat × Nat × BitVec 8)) (out : List (Nat × Byte × Bool)) (va : Nat) :
    State :=
  let some_ := s.someOf out
  ((s.engSpoil j.ctx j.core ((some_.filter (fun b => b.2.2)).map Prod.fst)).jobWrites die n j rs
    (some_.map (fun b => (b.1, b.2.1))) 0 (some va))

/-! ## Copy (R174) -/

/-- The bytes a copy writes: a source byte that the copy itself has already overwritten is read before or after, which
the spec leaves open (log 26). -/
def copyBytes (tick src dst : Nat) : List Byte → List Byte → List Byte
  | [], out => out
  | b :: bs, out =>
    let i := out.length
    copyBytes tick src dst bs (out ++ [
      if src < dst ∧ dst ≤ src + i ∧ Config.jobWrote tick i then out.getD (src + i - dst) b else b])

/-- The end of a job whose writes to other devices are on their way, once those have performed them: one of whose accesses
has been given up fails then, as its completion add too is a `.sys` release (R245, R332). -/
def State.jobReturns (s : State) (die n : Nat) (j : Job) (sent : Nat × Word) : State :=
  if s.engOut j.core sent.1 then s
  else match j.gone with
    | some va => s.jobFault die n j (w64 va)
    | none => s.jobEnds die n j sent.2 j.stop

/-- COPY_JOB_COMPLETE (R174). -/
def execCopyJobComplete (die n : Nat) (s : State) : Out :=
  .next (match s.workable die n with
    | none => s
    | some j =>
      if j.eng ≠ 1 then s else
      match j.sent with
      | some x => s.jobReturns die n j x
      | none =>
      let s1 := s.flushCluster j.core
      let src := j.n 3
      let dst := j.n 4
      let len := j.n 5
      let moves (bs : List Byte) (stop : Option Nat) : State :=
        s1.jobWrites die n j j.runs ((copyBytes s.tick src dst bs []).zipIdx.map (fun b => (dst + b.2, b.1))) (w64 bs.length) stop
      match s1.jobAsks die n j 0 j.runs with
      | some t => t
      | none => match s1.engFault j.ctx j.core j.runs with
        | some va => s1.jobFault die n j (w64 va)
        | none => match s1.engRead j.ctx j.core src len with
          | .ok bs => moves bs none
          | .error va => moves ((List.range (va - src)).map (fun i => (s1.engByte j.ctx j.core (src + i) permR).1)) (some va))

/-! ## Distributor (R176) -/

/-- The target core and scratchpad offset of source byte `x` of a distributor job. -/
def distTarget (die : Nat) (j : Job) (x : Nat) : Nat × Nat :=
  let wd := nbits (j.n 5) 10 5 + 1
  let ht := nbits (j.n 5) 15 5 + 1
  let b := x / j.n 7
  let q := b % (wd * ht)
  (die * 1024 + (nbits (j.n 5) 5 5 + q / wd) * 32 + nbits (j.n 5) 0 5 + q % wd,
   j.n 6 + b / (wd * ht) * j.n 7 + x % j.n 7)

/-- Whether the rectangle and the offsets of a distributor job are legal (R176). A core of no context is none of the job's context
either; R176 names only cores of another context, and that such a core fails the job too is log 126. -/
def State.distOk (s : State) (die : Nat) (j : Job) : Bool :=
  let wd := nbits (j.n 5) 10 5 + 1
  let ht := nbits (j.n 5) 15 5 + 1
  decide (nbits (j.n 5) 0 5 + wd ≤ 32) && decide (nbits (j.n 5) 5 5 + ht ≤ 32) &&
  (List.range ht).all (fun y => (List.range wd).all (fun x =>
    decide ((s.core (die * 1024 + (nbits (j.n 5) 5 5 + y) * 32 + nbits (j.n 5) 0 5 + x)).ctx = some j.ctx))) &&
  (List.range (j.n 4)).all (fun x => decide ((distTarget die j x).2 < s.scrBytes (distTarget die j x).1))

/-- The pool writes of a distributor job for source bytes (position, byte). -/
def distWrites (die : Nat) (j : Job) (bs : List (Nat × Byte)) : List (Nat × Nat × Byte) :=
  bs.map (fun b => ((distTarget die j b.1).2, poolKey (distTarget die j b.1).1 (distTarget die j b.1).2, b.2))

/-- DISTRIBUTOR_JOB_COMPLETE (R176). -/
def execDistributorJobComplete (die n : Nat) (s : State) : Out :=
  .next (match s.workable die n with
    | none => s
    | some j =>
      if j.eng ≠ 2 then s else
      let s1 := s.flushCluster j.core
      match s1.jobAsks die n j 0 j.runs with
      | some t => t
      | none => match s1.engFault j.ctx j.core j.runs with
      | some va => s1.jobFault die n j (w64 va)
      | none =>
        if !s1.distOk die j then s1.jobFault die n j (Config.openInfo s.tick)
        else
          let s2 := ((List.range (j.n 4)).map (fun x => (distTarget die j x).1)).eraseDups.foldl State.bankFlush s1
          match s2.engRead j.ctx j.core (j.n 3) (j.n 4) with
          | .ok bs => (s2.writeMem j.core (distWrites die j (bs.zipIdx.map (fun b => (b.2, b.1))))).jobDone die n j
              (Config.jobResult s.tick)
          | .error va =>
            let bs := s2.someOf ((List.range (j.n 4)).map (fun i => (i, s2.engByte j.ctx j.core (j.n 3 + i) permR)))
            let s3 := (distWrites die j ((bs.filter (fun b => b.2.2)).map (fun b => (b.1, b.2.1)))).foldl (fun t w => t.setPoison w.2.1 true) s2
            (s3.writeMem j.core (distWrites die j (bs.map (fun b => (b.1, b.2.1))))).jobPoison die n j va)

/-! ## Bramble (R177) -/

/-- An entry of a stream: index and value, and whether the word of each is poisoned (R177, R308). -/
structure StreamEntry where
  ix : Nat := 0
  v : Nat := 0
  ixBad : Bool := false
  vBad : Bool := false
  deriving DecidableEq, Repr

/-- The value of an index that both streams hold. -/
def brambleOp (opc core a b : Nat) : Nat :=
  match opc with
  | 0 => (Float.add .f32 0 { core := core, idx := 0 } a b).1
  | 1 => (Float.minmax .f32 false a b).1
  | 2 => (Float.minmax .f32 true a b).1
  | _ => a

/-- The merge of two ascending streams; the first argument bounds the output's length. A value computed from a poisoned one is
that one's copy. -/
def merge (opc core : Nat) : Nat → List StreamEntry → List StreamEntry → List StreamEntry
  | 0, _, _ => []
  | _, [], bs => bs
  | _, as, [] => as
  | f + 1, a :: as, b :: bs =>
    if a.ix < b.ix then a :: merge opc core f as (b :: bs)
    else if b.ix < a.ix then b :: merge opc core f (a :: as) bs
    else { ix := a.ix, v := brambleOp opc core a.v b.v, ixBad := a.ixBad || b.ixBad, vBad := a.vBad || (decide (opc ≤ 2) && b.vBad) } ::
      merge opc core f as bs

/-- The position of the first index that is not above its predecessor (Table 8.5). -/
def notAscending (ix : List Nat) : Option Nat :=
  ((List.range ix.length).tail).find? (fun p => decide (ix.getD p 0 ≤ ix.getD (p - 1) 0))

/-- The entries a Bramble job writes (R177). -/
def brambleOut (j : Job) (a b : List StreamEntry) : List StreamEntry :=
  let out := merge j.opc j.core (j.n 9 + j.n 10) a b
  if j.n 11 = 1 then out.filter (fun e => decide (e.v % 2 ^ 31 ≠ 0)) else out

/-- The output bytes of a Bramble job, and whether each is of a poisoned word. -/
def brambleBytes (j : Job) (out : List StreamEntry) : List (Nat × Byte × Bool) :=
  (bytes32 (j.n 7) (out.map StreamEntry.ix)).zipIdx.map (fun b => (b.1.1, b.1.2, (out.getD (b.2 / 4) {}).ixBad)) ++
  (bytes32 (j.n 8) (out.map StreamEntry.v)).zipIdx.map (fun b => (b.1.1, b.1.2, (out.getD (b.2 / 4) {}).vBad))

/-- The 32-bit word at an address as an engine reads it, and whether it is poisoned. -/
def State.engWord (s : State) (j : Job) (va : Nat) : Nat × Bool :=
  let bs := (List.range 4).map (fun i => s.engByte j.ctx j.core (va + i) permR)
  (leNat (bs.map Prod.fst), bs.any Prod.snd)

/-- An input stream of a Bramble job: words `w` and `w + 1` of the card name its arrays, `n` words long each. -/
def State.brambleIn (s : State) (j : Job) (w n : Nat) : List StreamEntry :=
  (List.range n).map (fun i =>
    let x := s.engWord j (j.n w + 4 * i)
    let y := s.engWord j (j.n (w + 1) + 4 * i)
    { ix := x.1, v := y.1, ixBad := x.2, vBad := y.2 })

/-- BRAMBLE_JOB_COMPLETE (R177). -/
def execBrambleJobComplete (die n : Nat) (s : State) : Out :=
  .next (match s.workable die n with
    | none => s
    | some j =>
      if j.eng ≠ 3 then s else
      match j.sent with
      | some x => s.jobReturns die n j x
      | none =>
      let s1 := s.flushCluster j.core
      let na := j.n 9
      let nb := j.n 10
      let ins : List (Nat × Nat) := [(3, na), (4, na), (5, nb), (6, nb)]
      match s1.jobAsks die n j 0 j.runs with
      | some t => t
      | none => match s1.engFault j.ctx j.core j.runs with
      | some va => s1.jobFault die n j (w64 va)
      | none =>
        let a := s1.brambleIn j 3 na
        let b := s1.brambleIn j 5 nb
        let out := brambleOut j a b
        match ins.findSome? (fun e => match s1.engRead j.ctx j.core (j.n e.1) (4 * e.2) with
            | .error va => some va
            | .ok _ => none) with
        | some va => s1.jobStops die n j j.runs (brambleBytes j out) va
        | none => match notAscending (a.map StreamEntry.ix), notAscending (b.map StreamEntry.ix) with
          | some p, _ => s1.jobFail die n j 0xA3 .mergeOrder (w64 p) (j.w 1)
          | none, some p => s1.jobFail die n j 0xA3 .mergeOrder (w64 (2 ^ 32 + p)) (j.w 1)
          | none, none => s1.jobWrites die n j j.runs ((brambleBytes j out).map (fun x => (x.1, x.2.1))) (w64 out.length) none)

/-! ## Gather kernels (R179) -/

/-- Whether scalar registers all lie in x0 to x15. -/
def lowRegs (rs : List Reg) : Bool := rs.all (fun r => decide (r.toNat ≤ 15))

/-- The meaning of a register instruction that a kernel may use, or none (R179). -/
def kernelOp (i : Instr) : Option (State → Out) :=
  let two (d a b : Reg) (f : State → Out) : Option (State → Out) := if lowRegs [d, a, b] then some f else none
  let one (d a : Reg) (f : State → Out) : Option (State → Out) := if lowRegs [d, a] then some f else none
  match i with
  | .add u d a b => two d a b (execAdd u d a b)
  | .sub u d a b => two d a b (execSub u d a b)
  | .mul u d a b => two d a b (execMul u d a b)
  | .mulhI u d a b => two d a b (execMulhI u d a b)
  | .mulhN u d a b => two d a b (execMulhN u d a b)
  | .divI u d a b => two d a b (execDivI u d a b)
  | .divN u d a b => two d a b (execDivN u d a b)
  | .remI u d a b => two d a b (execRemI u d a b)
  | .remN u d a b => two d a b (execRemN u d a b)
  | .addImm u d a m => one d a (execAddImm u d a m)
  | .subImm u d a m => one d a (execSubImm u d a m)
  | .mulImm u d a m => one d a (execMulImm u d a m)
  | .mulhIImm u d a m => one d a (execMulhIImm u d a m)
  | .mulhNImm u d a m => one d a (execMulhNImm u d a m)
  | .divIImm u d a m => one d a (execDivIImm u d a m)
  | .divNImm u d a m => one d a (execDivNImm u d a m)
  | .remIImm u d a m => one d a (execRemIImm u d a m)
  | .remNImm u d a m => one d a (execRemNImm u d a m)
  | .and u d a b => two d a b (execAnd u d a b)
  | .or u d a b => two d a b (execOr u d a b)
  | .xor u d a b => two d a b (execXor u d a b)
  | .andn u d a b => two d a b (execAndn u d a b)
  | .shl u d a b => two d a b (execShl u d a b)
  | .shr u d a b => two d a b (execShr u d a b)
  | .sar u d a b => two d a b (execSar u d a b)
  | .rol u d a b => two d a b (execRol u d a b)
  | .minI u d a b => two d a b (execMinI u d a b)
  | .minN u d a b => two d a b (execMinN u d a b)
  | .maxI u d a b => two d a b (execMaxI u d a b)
  | .maxN u d a b => two d a b (execMaxN u d a b)
  | .andImm u d a m => one d a (execAndImm u d a m)
  | .orImm u d a m => one d a (execOrImm u d a m)
  | .xorImm u d a m => one d a (execXorImm u d a m)
  | .andnImm u d a m => one d a (execAndnImm u d a m)
  | .shlImm u d a m => one d a (execShlImm u d a m)
  | .shrImm u d a m => one d a (execShrImm u d a m)
  | .sarImm u d a m => one d a (execSarImm u d a m)
  | .rolImm u d a m => one d a (execRolImm u d a m)
  | .minIImm u d a m => one d a (execMinIImm u d a m)
  | .minNImm u d a m => one d a (execMinNImm u d a m)
  | .maxIImm u d a m => one d a (execMaxIImm u d a m)
  | .maxNImm u d a m => one d a (execMaxNImm u d a m)
  | .clz u d a => one d a (execClz u d a)
  | .ctz u d a => one d a (execCtz u d a)
  | .popc u d a => one d a (execPopc u d a)
  | .bfx u d a pos len => one d a (execBfx u d a pos len)
  | .bfi u d a pos len => one d a (execBfi u d a pos len)
  | .brev u d a => one d a (execBrev u d a)
  | .bswap u d a => one d a (execBswap u d a)
  | .li u d m => one d d (execLi u d m)
  | .lih u d m => one d d (execLih u d m)
  | .mov u d a => one d a (execMov u d a)
  | .sel u d a b c => two d a b (execSel u d a b c)
  | .extI u d a m => one d a (execExtI u d a m)
  | .extN u d a m => one d a (execExtN u d a m)
  | .br u m => some (execBr u m)
  | .j u m => some (execJ u m)
  | .nop u => some (execNop u)
  | .sig u m => some (execSig u m)
  | .pref u a m => one a a (fun s => .next (s.issue (.pref u a m) u .scalar false fun sl => s.retire (.pref u a m) u none sl))
  | _ => none

/-- The state of a running kernel: the module's state, with the kernel's registers in slot 8 of the core, and the staged
line's bytes. -/
structure Kern where
  s : State := {}
  line : List Byte := []
  deriving DecidableEq, Repr

/-- The offset of a kernel's access in its staged line, if it is an aligned access of `n` bytes inside it (R179). -/
def lineOff (base : Nat) (line : List Byte) (ea n : Nat) : Option Nat :=
  if ea % n = 0 ∧ base ≤ ea ∧ ea + n ≤ base + line.length then some (ea - base) else none

/-- What one instruction of a kernel comes to: it goes on, it is done, or it fails. -/
inductive KernStep where
  | go (k : Kern)
  | fin (k : Kern)
  | fail
  deriving DecidableEq, Repr

/-- Goes on while the kernel's slot has not trapped. -/
def kernNext (c : Nat) (line : List Byte) : Out → KernStep
  | .next s => if (s.slot c 8).isSome then .go { s := s, line := line } else .fail
  | _ => .fail

/-- Runs one decoded instruction of a kernel. -/
def kernelExec (c base : Nat) (i : Instr) (k : Kern) : KernStep :=
  match k.s.slot c 8 with
  | none => .fail
  | some sl =>
    match i with
    | .done u => if sl.pred u then .fin k
        else kernNext c k.line (.next (k.s.issue i u .scalar false fun x => k.s.retire i u none x))
    | .ld u kd d a imm =>
      let ea := (sl.getX a + sext32 imm).toNat
      if !sl.pred u then kernNext c k.line (.next (k.s.issue i u .scalar false fun x => k.s.retire i u none x))
      else if !lowRegs [d, a] then .fail
      else match lineOff base k.line ea (ldSize kd) with
        | none => .fail
        | some o => kernNext c k.line (.next (k.s.issue i u .scalar false fun x =>
            k.s.retire i u (some { d := d, x := ldValue kd ((k.line.drop o).take (ldSize kd)) }) x))
    | .st u kd a b imm =>
      let ea := (sl.getX a + sext32 imm).toNat
      if !sl.pred u then kernNext c k.line (.next (k.s.issue i u .scalar false fun x => k.s.retire i u none x))
      else if !lowRegs [a, b] then .fail
      else match lineOff base k.line ea (stSize kd) with
        | none => .fail
        | some o =>
          let bs := (storeBytes 0 0 (stSize kd) (sl.getX b)).map (fun e => e.2.2)
          kernNext c (k.line.take o ++ bs ++ k.line.drop (o + stSize kd))
            (.next (k.s.issue i u .scalar false fun x => k.s.retire i u none x))
    | .cadd u a b imm =>
      if !sl.pred u then kernNext c k.line (.next (k.s.issue i u .scalar false fun x => k.s.retire i u none x))
      else if !lowRegs [a, b] then .fail
      else match k.s.counterOf (k.s.coreCtx c) (sl.getX a) with
        | none => .fail
        | some h => kernNext c k.line (.next ((k.s.issue i u .scalar false fun x => k.s.retire i u none x).bump h
            ((sl.getX b).toNat + imm.toNat)))
    | _ => match kernelOp i with
      | none => .fail
      | some f => kernNext c k.line (f k.s)

/-- Runs a kernel for at most the given number of instructions; the error is the PC at the failure, with the kernel as it
stood: what its `cadd`s have added stands (R179). -/
def kernelLoop (c base : Nat) : Nat → Kern → Except (Pc × Kern) Kern
  | 0, k => .error (((k.s.slot c 8).map Slot.pc).getD 0, k)
  | n + 1, k =>
    let pc := ((k.s.slot c 8).map Slot.pc).getD 0
    match k.s.fetch c 8 with
    | .instr i s1 => match kernelExec c base i { k with s := { s1 with cur := (c, 8) } } with
      | .go k1 => kernelLoop c base n k1
      | .fin k1 => .ok k1
      | .fail => .error (pc, k)
    | _ => .error (pc, k)

/-- Runs the kernel of a gather job on one line: its new bytes, or the PC at the failure, and the state with the counters it
added to (R179). -/
def State.runKernel (s : State) (j : Job) (pos : Nat) (line : List Byte) : State × Except Pc (List Byte) :=
  let base := Config.stagedAt s.tick % 0x800 * 128
  let kpc : Pc := BitVec.ofNat 32 (j.n 9)
  let sl := freshSlot 0 0 kpc [w64 base, w64 pos, w64 (line.length / 4)] 0 0
  match kernelLoop j.core base 256 { s := s.setSlot j.core 8 (some sl), line := line } with
  | .error e => ({ s with counters := e.2.s.counters }, .error e.1)
  | .ok k => ({ s with counters := k.s.counters }, .ok k.line)

/-- The index-list lines of a gather job, 32 indices each (R178). -/
def Job.lineCount (j : Job) : Nat := (j.n 4 + 31) / 32

/-- GATHER_KERNEL (R178, R179): the kernel runs on the next line of the index list, whose ranges the job has pinned. -/
def execGatherKernel (die n : Nat) (s : State) : Out :=
  .next (match s.workable die n with
    | none => s
    | some j =>
      if j.eng ≠ 4 ∨ j.n 9 = 0 ∨ j.lineCount ≤ j.lines then s else
      let s1 := s.flushCluster j.core
      let va := j.n 3 + 128 * j.lines
      let len := 4 * min 32 (j.n 4 - 32 * j.lines)
      match s1.jobAsks die n j 0 j.runs with
      | some t => t
      | none => match s1.engFault j.ctx j.core j.runs with
      | some f => s1.jobFault die n j (w64 f)
      | none => match s1.engRead j.ctx j.core va len with
        | .error p => s1.jobPoison die n j p
        | .ok bs =>
          let r := s1.runKernel j (32 * j.lines) bs
          match r.2 with
          | .error pc => r.1.jobFail die n j 0xA4 .gathKernel (w64 (j.lines * 2 ^ 32 + pc.toNat)) (j.w 1)
          | .ok line => r.1.putJob die n { j with
              pins := s1.pinsOf j j.runs, lines := j.lines + 1, idx := j.idx ++ (words32 line (len / 4)).map (BitVec.ofNat 32) })

/-! ## Gather and scatter (R178) -/

/-- The (source, destination) of lane `i` with index `x`. -/
def Job.lanePair (j : Job) (i x : Nat) : Nat × Nat :=
  let far := j.n 6 + x * j.n 7
  let near := j.n 8 + i * j.n 7
  if j.opc = 0 then (far, near) else (near, far)

/-- The probe and the move of a gather or scatter job on its final index list; the pins of its lanes' ranges wait for a
compaction (Table 15.4), and hold with those of its index list until it ends (R172). Every source is read before any destination
is written, which shows where the elements at TB overlap POOL (log 125). -/
def State.gatherMove (s : State) (die n : Nat) (j : Job) (idx : List Nat) : State :=
  match idx.zipIdx.find? (fun e => decide (j.n 5 ≤ e.1)) with
  | some e => s.jobFail die n j 0xA1 .gathBound (w64 e.2) (w64 e.1)
  | none =>
    let pairs := idx.zipIdx.map (fun e => j.lanePair e.2 e.1)
    let es := j.n 7
    let runs := pairs.flatMap (fun p => [(p.1, es, permR), (p.2, es, permW)])
    if s.moves j.ctx j.core runs then s
    else match s.jobAsks die n j 1 runs with
    | some t => t
    | none => match s.engFault j.ctx j.core runs with
    | some va => s.jobFault die n j (w64 va)
    | none =>
      let out := pairs.flatMap (fun p => (List.range es).map (fun b => (p.2 + b, s.engByte j.ctx j.core (p.1 + b) permR)))
      match pairs.findSome? (fun p => match s.engRead j.ctx j.core p.1 es with
          | .error va => some va
          | .ok _ => none) with
      | some va => s.jobStops die n j (j.runs ++ runs) out va
      | none => s.jobWrites die n j (j.runs ++ runs) (out.map (fun b => (b.1, b.2.1))) (Config.jobResult s.tick) none

/-- GATHER_JOB_COMPLETE (R178): with every kernel run, or none to run. -/
def execGatherJobComplete (die n : Nat) (s : State) : Out :=
  .next (match s.workable die n with
    | none => s
    | some j =>
      if j.eng ≠ 4 then s
      else match j.sent with
      | some x => s.jobReturns die n j x
      | none =>
        let s1 := s.flushCluster j.core
        if j.n 9 ≠ 0 then
          (if j.lines < j.lineCount then s else s1.gatherMove die n j (j.idx.map (fun x => x.toNat)))
        else match s1.jobAsks die n j 0 j.runs with
          | some t => t
          | none => match s1.engFault j.ctx j.core j.runs with
          | some va => s1.jobFault die n j (w64 va)
          | none => match s1.engRead j.ctx j.core (j.n 3) (4 * j.n 4) with
            | .error va => s1.jobPoison die n j va
            | .ok bs => s1.gatherMove die n j (words32 bs (j.n 4)))

end Sys2Proof.Machine
end

