-- ==== Sys2Proof/Machine/System.lean ====
section
/-! DEFINITION. System instructions (09_isa_index_range_system R202 to R206): CSRs, supervisor return, halting, saving and
loading a core, budget, priority, scrubbing, error records, the capability list (17 R326). -/

namespace Sys2Proof.Machine

/-! ## CSRs (R202, Table 9.13) -/

/-- The context CSRs. -/
def csrIsCtx (n : Nat) : Bool := decide (n ≤ 4) || [6, 7, 8].contains n
/-- The numbers that Table 9.13 lists. -/
def csrListed (n : Nat) : Bool := decide (n ≤ 9) || (decide (0x100 ≤ n) && decide (n ≤ 0x17F))
/-- The read-only ones. -/
def csrReadOnly (n : Nat) : Bool := decide (n = 6) || decide (n = 9)
/-- Whether only a supervisor reads it. -/
def csrSupRead (n : Nat) : Bool := decide (0x100 ≤ n)
/-- Whether only a supervisor writes it. -/
def csrSupWrite (n : Nat) : Bool := decide (n ≠ 0)

/-- The value of a context CSR. -/
def State.ctxCsr (s : State) (k n : Nat) : Word :=
  let x := s.ctx k
  match n with
  | 0 => x.flagsNow.setWidth 64
  | 1 => x.oobaddr
  | 2 => x.dbg.setWidth 64
  | 3 => x.gangTo.setWidth 64
  | 4 => x.grpTo.setWidth 64
  | 6 => w64 (x.sup * 2 ^ 16 + k)
  | 7 => x.parcBase
  | _ => x.parcSize

/-- Writes a context CSR. -/
def State.setCtxCsr (s : State) (k n : Nat) (v : Word) : State :=
  s.modCtx k (fun x => match n with
    | 0 => { x with flags := v.setWidth 7, folded := x.folded.map (fun f => { f with shadow := { f.shadow with flags := 0 } }) }
    | 1 => { x with oobaddr := v }
    | 2 => { x with dbg := v.setWidth 1 }
    | 3 => { x with gangTo := v.setWidth 32 }
    | 4 => { x with grpTo := v.setWidth 32 }
    | 7 => { x with parcBase := v }
    | 8 => { x with parcSize := v }
    | _ => x)

/-- Whether a value lies in the bits and the range of its row (R202). -/
def csrFits (n : Nat) (v : Word) : Bool :=
  match n with
  | 0 => decide (v.toNat < 2 ^ 7)
  | 1 => decide (bits v 23 28 = 0)
  | 2 => decide (v.toNat < 2)
  | 3 | 4 => decide (256 ≤ v.toNat) && decide (v.toNat < 2 ^ 32)
  | 5 => decide (1 ≤ v.toNat) && decide (v.toNat ≤ 255)
  | 7 | 8 => decide (bits v 0 8 = 0) && decide (bits v 52 12 = 0)
  | _ => true

/-- The value of a core or slot CSR. -/
def State.localCsr (s : State) (sl : Slot) (n : Nat) : Word :=
  match n with
  | 5 => s.curCore.selAge.setWidth 64
  | 9 => match sl.budget with
    | some b => w64 b
    | none => BitVec.allOnes 64
  | _ => let h := s.hte s.cur.1 ((n - 0x100) / 2)
    if n % 2 = 0 then h.extractLsb' 0 64 else h.extractLsb' 64 64

/-- `csrr` (R202): a context CSR is read on arrival at the supervisor core, on that core itself at issue. -/
def execCsrr (u : Ctl) (d : Reg) (csr : BitVec 12) (s : State) : Out :=
  .next (s.issue (.csrr u d csr) u .scalar false fun sl =>
    let n := csr.toNat
    let c := s.cur.1
    if !csrListed n then s.trap0 sl .csrNum
    else if csrSupRead n && !s.prv sl then s.trap0 sl .privInstr
    else if !csrIsCtx n then s.retire (.csrr u d csr) u (some { d := d, x := s.localCsr sl n }) sl
    else if (s.ctx (s.coreCtx c)).sup = c then
      s.retire (.csrr u d csr) u (some { d := d, x := s.ctxCsr (s.coreCtx c) n }) sl
    else
      let s1 := s.launch (.csrr u d csr) u sl d (.csr n) 0 0xFFFF false []
      s1.modCtx (s.coreCtx c) (fun x => { x with csrs := x.csrs ++ [.read c s.cur.2 sl.act s1.lastId] }))

/-- Writes a handler entry as a whole; clearing MSK lets parked activations come back (R27, R294). -/
def State.putHte (s : State) (c ch : Nat) (h : Hte) : State :=
  let s1 := (s.setHte c ch h).modCore c Core.settle
  if h.msk then s1 else s1.unpark c ch

/-- A write to an `hte` CSR (R202, R22): an even number stages its half, an odd one writes the whole entry. -/
def State.writeHte (s : State) (i : Instr) (u : Ctl) (sl : Slot) (n : Nat) (v : Word) : State :=
  let ch := (n - 0x100) / 2
  if n % 2 = 0 then s.retire i u none { sl with halfHte := some (ch, v) }
  else
    let staged := sl.halfHte.filter (fun h => decide (h.1 = ch))
    let low := (staged.map Prod.snd).getD ((s.hte s.cur.1 ch).extractLsb' 0 64)
    let h : Hte := v ++ low
    if !Hte.ok ch h then s.trap0 sl .instrOperand
    else (s.retire i u none { sl with halfHte := if staged.isSome then none else sl.halfHte }).putHte s.cur.1 ch h

/-- `csrw` (R202): a context CSR is written on arrival at the supervisor core; nothing of it is undone by an abort. -/
def execCsrw (u : Ctl) (a : Reg) (csr : BitVec 12) (s : State) : Out :=
  .next (s.issue (.csrw u a csr) u .scalar false fun sl =>
    let n := csr.toNat
    let c := s.cur.1
    let k := s.coreCtx c
    let v := sl.getX a
    if !csrListed n || csrReadOnly n then s.trap0 sl .csrNum
    else if csrSupWrite n && !s.prv sl then s.trap0 sl .privInstr
    else if !csrFits n v then s.trap0 sl .instrOperand
    else if 0x100 ≤ n then s.writeHte (.csrw u a csr) u sl n v
    else if n = 5 then (s.modCore c (fun co => { co with selAge := v.setWidth 8 })).retire (.csrw u a csr) u none sl
    else if (s.ctx k).sup = c then (s.setCtxCsr k n v).retire (.csrw u a csr) u none sl
    else (s.modCtx k (fun x => { x with csrs := x.csrs ++ [.write c n v] })).retire (.csrw u a csr) u none sl)

/-- The core that a context CSR access comes from. -/
def CsrReq.from_ : CsrReq → Nat
  | .read c .. => c
  | .write c .. => c

/-- CONTEXT_CSR_ARRIVAL (R202): an access reaches the supervisor core; a read whose activation has ended answers nothing. -/
def execContextCsrArrival (ctx : Nat) (s : State) : Out :=
  .next (match arriving s.tick CsrReq.from_ (s.ctx ctx).csrs with
    | none => s
    | some (r, rs) =>
      let s1 := s.modCtx ctx (fun x => { x with csrs := rs })
      match r with
      | .write _ n v => s1.setCtxCsr ctx n v
      | .read c k act id => match (s.slot c k).bind (fun sl =>
          if sl.act = act then sl.loads.find? (fun l => decide (l.id = id)) else none) with
        | some l => match l.op with
          | .csr n => s1.setRes c k id (.ready (l.value (s.ctxCsr ctx n)))
          | _ => s1
        | none => s1)

/-! ## Returning to a channel, halting (R203) -/

/-- Checks that X[A] is a core of the context (R203). -/
def State.onCore (s : State) (sl : Slot) (a : Reg) (go : Nat → State) : State :=
  let c := (sl.getX a).toNat
  if s.inSet (s.coreCtx s.cur.1) c then go c else s.trap sl .msgDest (sl.getX a)

/-- `sret` (R203): waits in the store buffer; SRET_PERFORMED acts. -/
def execSret (u : Ctl) (a b c : Reg) (s : State) : Out :=
  .next (s.issue (.sret u a b c) u .scalar false fun sl =>
    if !s.prv sl then s.trap0 sl .privInstr
    else s.onCore sl a fun t =>
      s.pushDir (.sret u a b c) u sl (.sret t ((sl.getX b).setWidth 6) (sl.getX c)) none)

/-- `halt` (R203): waits in the store buffer; HALT_PERFORMED acts. -/
def execHalt (u : Ctl) (a : Reg) (op : BitVec 1) (s : State) : Out :=
  .next (s.issue (.halt u a op) u .scalar false fun sl =>
    if !s.prv sl then s.trap0 sl .privInstr
    else s.onCore sl a fun t => s.pushDir (.halt u a op) u sl (.halt t (decide (op = 1))) none)

/-- RETURN FROM A MASKING TRAP: the next binding of the channel enters at a PC, and MSK is cleared (R203, R294). -/
def State.returnTo (s : State) (t : Nat) (ch : BitVec 6) (pc : Word) : State :=
  let n := ch.toNat
  (if pc = 0 then s else s.modCore t (fun co => { co with
    resume := co.resume.filter (fun e => decide (e.1 ≠ n)) ++ [(n, pc)] })).maskChan t n false

/-- Performs the released entry at place `n` of core `core` when it may be performed. -/
def State.performing (s : State) (core n : Nat) (go : Rel → State → Option State) : State :=
  match s.performable core n with
  | none => s
  | some r => match go r (((s.leftBefore core n r.act).takeReleased core n).dropMarkers core) with
    | some t => t
    | none => s

/-- SRET_PERFORMED (R203). -/
def execSretPerformed (core n : Nat) (s : State) : Out :=
  .next (s.performing core n fun r t => match r.e.op with
    | .sret c ch pc => some (t.returnTo c ch pc)
    | _ => none)

/-- HALT_PERFORMED (R203, R37). -/
def execHaltPerformed (core n : Nat) (s : State) : Out :=
  .next (s.performing core n fun r t => match r.e.op with
    | .halt c w => some (t.modCore c (fun co => { co with
        preempt := !w, quietSent := if w then false else co.quietSent && co.preempt }))
    | _ => none)

/-! ## Saving and loading a core (R204, R317) -/

/-- `ctxsave` (R204). A save address that is not 64-aligned traps `mem.align`. -/
def execCtxsave (u : Ctl) (a b : Reg) (ctr : BitVec 18) (s : State) : Out :=
  .next (s.issue (.ctxsave u a b ctr) u .scalar false fun sl =>
    if !s.prv sl then s.trap0 sl .privInstr
    else s.onCore sl a fun t =>
      if (sl.getX b).toNat % 64 ≠ 0 then s.trap sl .memAlign (sl.getX b)
      else s.ctrArg sl ctr
        (s.pushDir (.ctxsave u a b ctr) u sl (.ctxsave t (sl.getX b).toNat ctr.toNat) none))

/-- `ctxload` (R204). -/
def execCtxload (u : Ctl) (a b : Reg) (ctr : BitVec 18) (s : State) : Out :=
  .next (s.issue (.ctxload u a b ctr) u .scalar false fun sl =>
    if !s.prv sl then s.trap0 sl .privInstr
    else s.onCore sl a fun t =>
      if (sl.getX b).toNat % 64 ≠ 0 then s.trap sl .memAlign (sl.getX b)
      else s.ctrArg sl ctr
        (s.pushDir (.ctxload u a b ctr) u sl (.ctxload t (sl.getX b).toNat ctr.toNat) none))

/-- Whether a core is quiescent under a pre-emption request (R37). -/
def Core.quiescent (co : Core) : Bool := co.preempt && decide (co.occupied = 0) && decide (co.spawns = [])

/-- A message as 64 bytes: its header and seven payload words. -/
def msgBytes (m : Msg) : List Byte :=
  leBytes 8 (msgHeader m).toNat ++ (List.range 7).flatMap (fun i => leBytes 8 (m.body.getD i 0).toNat)
/-- `n` 64-byte entries, the messages first, zeros after them. -/
def msgArea (ms : List Msg) (n : Nat) : List Byte :=
  (ms.take n).flatMap msgBytes ++ List.replicate (64 * (n - ms.length)) 0

/-- The messages of an inbox area, oldest first. -/
def Core.areaMsgs (co : Core) (p : Nat → Bool) : List Msg := co.inbox.filter (fun m => p m.area)
/-- The word of `sel.age` and LAST (Table 9.15). -/
def Core.selWord (co : Core) : Word :=
  w64 (co.selAge.toNat + ((List.range 8).map (fun p => co.lastOf p % 64 * 2 ^ (8 + 6 * p))).sum)

/-- The place of the emergency area in the pool (R12). -/
def emergencyOff : Nat := 63 * 4096 + 3584

/-- Byte `i` of the pool of core `c` below unit 63 as an image takes it: a slot unit in which an activation has run holds its
registers, checkpoint and journal, whose bytes are free values; the last 496 B of a slot unit are reserved (R2, R12; log 112). -/
def State.poolImageByte (s : State) (c i : Nat) : Byte :=
  let scr := (partScr (s.core c).part + partA (s.core c).part) * 4096
  if i < scr then s.byte (poolKey c i)
  else if 3600 ≤ (i - scr) % 4096 then 0
  else if (i - scr) / 4096 ∈ (s.core c).used then Config.slotByte s.tick i
  else s.byte (poolKey c i)
/-- The pool of core `c` below unit 63 as an image takes it (Table 9.15). -/
def State.poolImage (s : State) (c : Nat) : List Byte := (List.range (63 * 4096)).map (s.poolImageByte c)

/-- The save image of core `c` (Table 9.15). -/
def State.saveImage (s : State) (c : Nat) : List Byte :=
  let co := s.core c
  let inbox := co.areaMsgs (fun a => decide (a ≤ 1))
  let tasks := co.areaMsgs (fun a => decide (a = 3))
  [0x4B580001, c, s.coreCtx c, co.part.toNat, inbox.length, tasks.length, 0, 0].flatMap (leBytes 8) ++
  s.poolImage c ++
  (List.range 64).flatMap (fun ch => leBytes 16 (co.entryOf ch).toNat) ++
  msgArea (co.areaMsgs (fun a => decide (a = 2))) 40 ++ s.bytes (poolKey c emergencyOff) 512 ++
  msgArea inbox 64 ++ msgArea tasks 2 ++ leBytes 8 co.selWord.toNat ++ List.replicate 56 0

/-- The size of a save image. -/
def imageSize : Nat := 266496

/-- Where an address of a save area of context `k` leads: through the directory, and through an aperture (R204, R322). -/
def State.areaReach (s : State) (k va : Nat) (need : BitVec 8) : Reach :=
  match s.dirTranslate k va need with
  | .ok pa => s.reach k pa need
  | .fault e => .fault e
  | .miss => .fault .rangeMiss

/-- Where translating a save area of context `k` first fails: the offset and the cause. -/
def State.areaFault (s : State) (k va n : Nat) (need : BitVec 8) : Option (Nat × Cause) :=
  (List.range (n / 64)).findSome? (fun i => match s.areaReach k (va + 64 * i) need with
    | .fault e => some (64 * i, e)
    | _ => none)

/-- The first poisoned word of a core's pool, as an offset in the image. -/
def State.poolPoison (s : State) (c : Nat) : Option Nat :=
  (s.poison.find? (fun e => e.2 && decide (poolKey c 0 ≤ e.1) && decide (e.1 < poolKey c 0 + 2 ^ 18))).map
    (fun e => 64 + (e.1 - poolKey c 0))

/-- What stops a save first. -/
def State.saveFault (s : State) (k c va : Nat) : Option (Nat × Cause) :=
  match s.areaFault k va imageSize permW, s.poolPoison c with
  | some a, some p => if a.1 ≤ p then some a else some (p, .memPoison)
  | some a, none => some a
  | none, some p => some (p, .memPoison)
  | none, none => none

/-- Writes bytes from a translated address up; what leads to a peer device leaves in cells, one for each 64 bytes (R322,
R330). -/
def State.writeArea (s : State) (k c va : Nat) (bs : List Byte) : State :=
  let away := (List.range ((bs.length + 63) / 64)).filterMap (fun i => match s.areaReach k (va + 64 * i) permW with
    | .away dev => some (dev, va + 64 * i)
    | _ => none)
  away.foldl (fun t e => t.sendCell e.1 (t.reqCell c 0 e.1 e.2 true))
    (s.writeMem c (bs.zipIdx.filterMap (fun b => match s.areaReach k (va + b.2) permW with
      | .mem pa => some (va + b.2, pa, b.1)
      | _ => none)))

/-- The emergency summary (Table 16.6). -/
def State.summary (s : State) (c va off : Nat) (cause : Cause) : List Byte :=
  let co := s.core c
  let unbound := co.inbox
  let msk := ((List.range 64).map (fun ch => (co.entryOf ch).msk.toNat * 2 ^ ch)).sum
  ([0x4B5800E1, c, s.coreCtx c, co.part.toNat, cause.code, va + off, off, va, msk,
    (co.areaMsgs (fun a => decide (a ≤ 1))).length + (co.areaMsgs (fun a => decide (a = 2))).length * 256,
    co.selWord.toNat, 0, 0, 0, 0, 0].flatMap (leBytes 8)) ++
  (List.range 48).flatMap (fun i => leBytes 8 ((unbound[i]?.map (fun m => (msgHeader m).toNat)).getD 0))

/-- The counter of a save or a load takes its code. -/
def State.coreDone (s : State) (k ctr : Nat) (code : BitVec 8) : State := s.complete (s.dirCounter k ctr) code

/-- Writes the emergency area of a core, which clears what was poisoned there. -/
def State.setEmergency (s : State) (c : Nat) (bs : List Byte) : State :=
  let lo := poolKey c emergencyOff
  let s1 := { s with poison := s.poison.filter (fun e => !(decide (lo ≤ e.1) && decide (e.1 < lo + 512))) }
  s1.setBytes ((bs.take 512).zipIdx.map (fun b => (lo + b.2, b.1)))

/-- A save or a load has succeeded: an earlier summary is gone (R317; log 113: zeros stand there). -/
def State.dropSummary (s : State) (c : Nat) : State := s.setEmergency c (List.replicate 512 0)

/-- Saves core `c` at an address (R204, R317). -/
def State.saveCore (s : State) (k by_ c va ctr : Nat) : State :=
  if s.coreCtx c ≠ k ∨ (s.core c).quiescent = false then s.coreDone k ctr 0xB9
  else
    let s1 := s.bankFlush c
    match s1.saveFault k c va with
    | none => ((s1.writeArea k by_ va (s1.saveImage c)).dropSummary c).coreDone k ctr 0
    | some (off, cause) =>
      let part := s1.writeArea k by_ va ((s1.saveImage c).take off)
      (part.setEmergency c (s1.summary c va off cause)).coreDone k ctr 0xBA

/-- CTXSAVE_PERFORMED (R204). -/
def execCtxsavePerformed (core n : Nat) (s : State) : Out :=
  .next (s.performing core n fun r t => match r.e.op with
    | .ctxsave c va ctr => some (t.saveCore (s.coreCtx core) core c va ctr)
    | _ => none)

/-- One byte of a load area, and whether it is poisoned. -/
def State.areaByte (s : State) (k va : Nat) : Byte × Bool :=
  match s.areaReach k va permR with
  | .mem pa => (s.byte pa, s.poisoned pa)
  | .away _ => (Config.peerByte s.tick va, false)
  | .fault _ => (0, false)

/-- The message that 64 bytes hold, placed in an area; `none` for zeros. -/
def msgOf (att area : Nat) (bs : List Byte) : Option Msg :=
  let h := w64 (leNat (bs.take 8))
  if bs.all (fun b => decide (b = 0)) then none
  else some { dst := h.extractLsb' 51 13, chan := h.extractLsb' 45 6, cls := h.getLsbD 44, ctx := h.extractLsb' 33 8,
              src := h.extractLsb' 20 13, mid := h.extractLsb' 4 16, err := h.getLsbD 3, wake := h.getLsbD 2,
              task := h.getLsbD 1, host := h.getLsbD 0, att := att, area := area,
              body := (List.range (bits h 41 3)).map (fun i => w64 (leNat ((bs.drop (8 + 8 * i)).take 8))) }

/-- `n` messages from 64-byte entries. -/
def msgsOf (att area n : Nat) (bs : List Byte) : List Msg :=
  (List.range n).filterMap (fun i => msgOf att area ((bs.drop (64 * i)).take 64))

/-- Puts restored inbox messages into entries: reply-class ones into 56 to 63 while these have room (R26). -/
def placeAll : List Msg → Core → Core
  | [], co => co
  | m :: ms, co => placeAll ms { co with inbox := co.inbox ++ [{ m with area := if m.cls ∧ co.areaUsed 1 < 8 then 1 else 0 }] }

/-- The core that an image describes, over the core as it stands (R204): pool and unit 63, inbox, prefetch entries,
`sel.age`, LAST; pins and the pre-emption request are dropped. -/
def Core.restore (co : Core) (att : Nat) (img : List Byte) : Core :=
  let w (off : Nat) : Nat := leNat ((img.drop off).take 8)
  let u63 := img.drop (64 + 63 * 4096)
  let c1 := placeAll (msgsOf att 0 (min 64 (w 32)) (img.drop 262208)) { co with
    hte := (List.range 64).foldl (fun t ch => Sparse.set 0 t ch (BitVec.ofNat 128 (leNat ((u63.drop (16 * ch)).take 16)))) []
    inbox := [], resume := [], ages := [], order := [], room := [], preempt := false, quietSent := false, used := []
    rtab := co.rtab.map (fun e => { e with pins := 0 })
    selAge := BitVec.ofNat 8 (w 266432)
    last := (List.range 8).foldl (fun t p => Sparse.set 63 t p (w 266432 / 2 ^ (8 + 6 * p) % 64)) [] }
  { c1 with inbox := c1.inbox ++ msgsOf att 2 40 (u63.drop 1024) ++ msgsOf att 3 (min 2 (w 40)) (img.drop 266304) }

/-- The pool bytes and poison that an image restores. -/
def State.loadPool (s : State) (c : Nat) (img : List (Byte × Bool)) : State :=
  let pool := ((img.drop 64).take (2 ^ 18)).zipIdx.filter (fun b => decide (b.2 < 63 * 4096) || decide (emergencyOff ≤ b.2))
  let s1 := s.setBytes (pool.map (fun b => (poolKey c b.2, b.1.1)))
  let s2 := { s1 with poison := s1.poison.filter (fun e =>
    !(decide (poolKey c 0 ≤ e.1) && decide (e.1 < poolKey c 0 + 2 ^ 18))) }
  pool.foldl (fun t b => if b.1.2 then t.setPoison (poolKey c b.2) true else t) s2

/-- The blocks of a load area that stand in other devices: the device and the address (R322). -/
def State.areaAway (s : State) (k va : Nat) : List (Nat × Nat) :=
  (List.range (imageSize / 64)).filterMap (fun i => match s.areaReach k (va + 64 * i) permR with
    | .away dev => some (dev, va + 64 * i)
    | _ => none)

/-- Loads core `c` from an image (R204). Another device may answer a request with a fault, which is free (R289; log 130). -/
def State.loadCore (s : State) (k c va ctr : Nat) : State :=
  if s.coreCtx c ≠ k ∨ (s.core c).quiescent = false then s.coreDone k ctr 0xB9
  else if (s.areaFault k va imageSize permR).isSome ∨ (s.areaAway k va).any (fun e => Config.peerFaults s.tick e.2) then
    s.coreDone k ctr 0xBB
  else
    let img := (List.range imageSize).map (fun i => s.areaByte k (va + i))
    let w (off : Nat) : Nat := leNat (((img.drop off).take 8).map Prod.fst)
    if (img.take 32).any Prod.snd ∨ w 0 ≠ 0x4B580001 ∨ w 8 ≠ c ∨ w 24 ≠ (s.core c).part.toNat then s.coreDone k ctr 0xBB
    else ((((s.bankFlush c).loadPool c img).modCore c (fun co =>
      (co.restore (Config.loadedAtt s.tick % 4) (img.map Prod.fst)).settle)).dropSummary c).coreDone k ctr 0

/-- What a `ctxload` whose image stands partly in other devices does first: it asks them, and waits until its requests have been
performed there (R204, R322, R331). -/
def State.loadAsks (s : State) (core n : Nat) : Option State :=
  match s.performable core n with
  | none => none
  | some r => match r.e.op, r.asked with
    | .ctxload .., some id => if s.engOut core id then some s else none
    | .ctxload c va _, none =>
      let away := s.areaAway (s.coreCtx core) va
      if away = [] ∨ s.coreCtx c ≠ s.coreCtx core ∨ (s.core c).quiescent = false ∨
          (s.areaFault (s.coreCtx core) va imageSize permR).isSome then none
      else some ((away.foldl (fun t e => t.sendCell e.1 { t.reqCell core 0 e.1 e.2 false with ent := s.tick }) s).modCore core
        (fun co => { co with released := co.released.set n { r with asked := some s.tick } }))
    | _, _ => none

/-- CTXLOAD_PERFORMED (R204). -/
def execCtxloadPerformed (core n : Nat) (s : State) : Out :=
  .next ((s.loadAsks core n).getD (s.performing core n fun r t => match r.e.op with
    | .ctxload c va ctr => some (t.loadCore (s.coreCtx core) c va ctr)
    | _ => none))

/-! ## Budget, priority, scrubbing, error records, capabilities -/

/-- The budget that `wdset` leaves (R205). -/
def newBudget (prv : Bool) (old : Option Nat) (v : Nat) : Option Nat :=
  if prv then (if v = 0 then none else some v)
  else match old with
    | some b => some (min b v)
    | none => some v

/-- `wdset` (R205). -/
def execWdset (u : Ctl) (a : Reg) (s : State) : Out :=
  .next (s.issue (.wdset u a) u .scalar false fun sl =>
    s.retire (.wdset u a) u none { sl with budget := newBudget (s.prv sl) sl.budget (sl.getX a).toNat })

/-- `prio` (Table 9.14): the priority of one of the core's own channels. -/
def execPrio (u : Ctl) (a : Reg) (ch : BitVec 6) (s : State) : Out :=
  .next (s.issue (.prio u a ch) u .scalar false fun sl =>
    if !s.prv sl then s.trap0 sl .privInstr
    else if 7 < (sl.getX a).toNat then s.trap0 sl .instrOperand
    else ((s.setHte s.cur.1 ch.toNat ((s.hte s.cur.1 ch.toNat).setPri (sl.getX a).toNat)).modCore s.cur.1
      Core.settle).retire (.prio u a ch) u none sl)

/-- `scrub` (Table 9.14, R314): 0 restores the default interval. -/
def execScrub (u : Ctl) (a b : Reg) (s : State) : Out :=
  .next (s.issue (.scrub u a b) u .scalar false fun sl =>
    let n := (sl.getX a).toNat
    let v := (sl.getX b).toNat
    if !s.prv sl then s.trap0 sl .privInstr
    else if 2 < n ∨ (v ≠ 0 ∧ (v < 65536 ∨ 2 ^ 32 < v)) then s.trap0 sl .instrOperand
    else (s.modCtx (s.coreCtx s.cur.1) (fun x => { x with sweep := Sparse.set 0 x.sweep n v })).retire
      (.scrub u a b) u none sl)

/-- The ring of a context for a level. -/
def Ctx.ring (x : Ctx) (level : Nat) : Ring := Sparse.get {} x.rings level

/-- `errpop` (R206): the oldest record, written at issue and not journalled. -/
def execErrpop (u : Ctl) (d a b : Reg) (s : State) : Out :=
  .next (s.issue (.errpop u d a b) u .scalar false fun sl =>
    let n := (sl.getX a).toNat
    let va := (sl.getX b).toNat
    let c := s.cur.1
    let k := s.coreCtx c
    if !s.prv sl then s.trap0 sl .privInstr
    else if 5 < n then s.trap0 sl .instrOperand
    else if va % 64 ≠ 0 ∨ s.scrBytes c ≤ va then s.trap sl .memWindow (sl.getX b)
    else match ((s.ctx k).ring n).recs with
      | [] => s.retire (.errpop u d a b) u (some { d := d, x := BitVec.allOnes 64 }) sl
      | r :: rs =>
        let bs := (List.range 8).flatMap (fun i => storeBytes (va + 8 * i) (poolKey c (va + 8 * i)) 8 (r.getD i 0))
        let s1 := s.modCtx k (fun x => { x with rings := Sparse.modify {} x.rings n (fun y => { y with recs := rs }) })
        (s1.accept c sl.act bs).retire (.errpop u d a b) u (some { d := d, x := w64 rs.length }) sl)

/-- The bodies of the capability records, by ID (R326; log 14). -/
def State.capBody (s : State) (id : Nat) : List Word :=
  match id with
  | 1 => [w64 (0x4B580384 * 2 ^ 32 + 0xB1 * 2 ^ 8 + 1)]
  | 2 => Config.capBody 2 ([8, 1024] ++ (List.range 8).map (fun d => (s.die d).spares.length) ++ [8, 16])
  | 3 => [w64 ((if s.mgmt.leaf < 2 ^ 20 then 0 else 1) + (2 ^ 20 - s.mgmt.leaf) * 2)]
  | 5 => Config.capBody 5 [s.mgmt.devnum.toNat, 32, 31, 32]
  | 6 => Config.capBody 6 (s.mgmt.hostLinks.flatMap (fun l => [l.1, l.2]))
  | n => Config.capBody n []

/-- The records from ID `id` on, `n` of them, standing at a byte offset (R326). -/
def State.capRecs (s : State) : Nat → Nat → Nat → List Word
  | 0, _, _ => []
  | n + 1, id, off =>
    let body := s.capBody id
    let len := 8 * (1 + body.length)
    let next := if n = 0 then 0 else off + len
    w64 (id * 2 ^ 48 + (Config.capVer id).toNat * 2 ^ 40 + len % 2 ^ 16 * 2 ^ 24 + next % 2 ^ 24) :: body ++
      s.capRecs n (id + 1) (off + len)

/-- The capability list (R326). -/
def State.capList (s : State) : List Word := s.capRecs 6 1 0

/-- `cap` (Table 9.14). -/
def execCap (u : Ctl) (d a : Reg) (s : State) : Out :=
  .next (s.issue (.cap u d a) u .scalar false fun sl =>
    if (sl.getX a).toNat % 8 ≠ 0 then s.trap0 sl .instrOperand
    else s.retire (.cap u d a) u (some { d := d, x := s.capList.getD ((sl.getX a).toNat / 8) 0 }) sl)

end Sys2Proof.Machine
end

