-- ==== Sys2Proof/Machine/Deliver.lean ====
section
/-! DEFINITION. The events that move messages, tasks and records, bind activations and end their budgets (02_activations R23
to R41; 07 R145 to R149; 14 R276 to R278; 16 R309, R312, R313). -/

namespace Sys2Proof.Machine

/-! ## Leaving the core (R136, R145, R277) -/

/-- Where an injection entry goes: (kind, place); entries with one destination on one network keep their order (R277). -/
def InjOp.dest (op : InjOp) : Nat × Nat :=
  match op with
  | .msg m => (m.cls.toNat, m.dst.toNat)
  | .mcast g .. => (2, g)
  | .fork _ die bank => (3, die * 16 + bank)
  | .job j => (4, j.die)
  | .index _ die => (5, die)

/-- The cores to which an entry of core `c` still sends on the request network: for a multicast the members of its group that
have no message of it yet (R181, R277). -/
def State.sendsTo (s : State) (c : Nat) (op : InjOp) : List Nat :=
  match op with
  | .msg m => if m.cls then [] else [m.dst.toNat]
  | .mcast g _ done => (s.groupMembers (s.coreCtx c) g).filter (fun d => !done.contains d)
  | _ => []

/-- Whether one entry waits behind an earlier one: they share a destination on one network (R277). -/
def State.behindInj (s : State) (c : Nat) (a b : InjOp) : Bool :=
  match a, b with
  | .mcast .., .msg m => !m.cls && (s.sendsTo c a).contains m.dst.toNat
  | _, _ => decide (a.dest = b.dest)

/-- The members to which the multicast at place `n` may send: not behind an earlier released message to that member, and with
credit; each member waits for itself (R181, R277). -/
def State.castReady (s : State) (c n : Nat) (op : InjOp) : List Nat :=
  (s.sendsTo c op).filter (fun d => !(s.core d).withholds false &&
    !((s.core c).inj.take n).any (fun x => x.released && (s.sendsTo c x.op).contains d))

/-- Whether the entry at place `n` is not behind an earlier released one to its destination and has credit on its own network:
its destination does not withhold that network's credits (R26, R276, R277; log 34). A multicast goes with one member ready. -/
def State.wayFree (s : State) (c n : Nat) (op : InjOp) : Bool :=
  match op with
  | .mcast .. => (s.sendsTo c op).isEmpty || !(s.castReady c n op).isEmpty
  | .msg m => !(s.core m.dst.toNat).withholds m.cls &&
      !((s.core c).inj.take n).any (fun x => x.released && s.behindInj c x.op op)
  | _ => !((s.core c).inj.take n).any (fun x => x.released && s.behindInj c x.op op)

/-- The injection entry at place `n` of a core, if it may leave: released, past its marker and the loads before it, and with
its way free (R34, R136, R277). -/
def State.mayInject (s : State) (c n : Nat) : Option Inj :=
  match (s.core c).inj[n]? with
  | none => none
  | some e =>
    if e.released && (match e.behind with | some id => s.markerPassed c id | none => true) && !s.loadsOut c e.act e.upto &&
        s.wayFree c n e.op
    then some e else none

/-- Takes an entry out of the injection queue; its room is free, unless its activation still holds it in reserve (R28). -/
def State.takeInj (s : State) (c n : Nat) : State :=
  s.modCore c (fun co =>
    let c1 := { co with inj := co.inj.eraseIdx n }
    c1.freeEntries (c1.injFree - co.injFree))

/-- Core `c` injects messages: each takes the core's next MID (R25). -/
def State.injectMsgs (s : State) (c act : Nat) (ms : List Msg) : State :=
  ms.foldl (fun t m =>
    let f : Flight := { src := c, act := act, op := .msg { m with mid := (t.core c).mid } }
    { t.modCore c (fun co => { co with mid := co.mid + 1 }) with flight := t.flight ++ [f] }) s

/-- The jobs at a front-end and on their way to it. -/
def State.jobLoad (s : State) (die : Nat) : Nat :=
  (s.die die).jobs.length + s.flight.countP (fun f => match f.op with | .job j => decide (j.die = die) | _ => false)

/-- The multicast at place `n` sends to the members that are ready; it leaves the queue once every member has its message
(R181, R277). -/
def State.castOn (s : State) (c n : Nat) (e : Inj) (g : Nat) (m : Msg) (done : List Nat) : State :=
  let ready := s.castReady c n e.op
  let s1 := if (s.sendsTo c e.op).all ready.contains then s.takeInj c n
    else s.modCore c (fun co => { co with inj := co.inj.set n { e with op := .mcast g m (done ++ ready) } })
  s1.injectMsgs c e.act (ready.map (fun d => { m with dst := BitVec.ofNat 13 d }))

/-- INJECTION_FORWARD (R145, R181, R277): the entry at place `n` of a core's queue leaves over the mesh. -/
def execInjectionForward (core n : Nat) (s : State) : Out :=
  .next (match s.mayInject core n with
    | none => s
    | some e =>
      let s1 := s.takeInj core n
      match e.op with
      | .msg m => s1.injectMsgs core e.act [m]
      | .mcast g m done => s.castOn core n e g m done
      | .fork _ _ _ => s
      | .job j => if s.jobLoad j.die < 512 then
            { s1 with flight := s1.flight ++ [{ src := core, act := e.act, op := e.op, after := e.behind }] }
          else s
      | .index _ _ => { s1 with flight := s1.flight ++
          [{ src := core, act := e.act, op := e.op, ent := e.ent, upto := e.upto }] })

/-- FORK_ENTER_BANK (R40, R278): a released fork enters its bank when that holds fewer than 4,096 tasks. -/
def execForkEnterBank (core n : Nat) (s : State) : Out :=
  .next (match s.mayInject core n with
    | none => s
    | some e => match e.op with
      | .fork t die b =>
        if (s.bank die b).tasks.length < 4096 then
          (s.takeInj core n).modBank die b (fun x => { x with
            tasks := x.tasks ++ [{ t with seq := x.nextSeq }], nextSeq := (x.nextSeq + 1) % 2 ^ 48 })
        else s
      | _ => s)

/-! ## Tasks (R38, R40) -/

/-- The cores a task may go to, in the order in which its bank tries them (R40). -/
def State.taskTargets (s : State) (die b : Nat) (t : Task) : List Nat :=
  if t.target.getLsbD 16 then
    let g := bits t.target 0 8
    let last := Sparse.get 0 (s.bank die b).last (t.ctx * 256 + g)
    let ms := s.groupOnDie t.ctx g die
    ms.filter (fun c => decide (last ≤ c)) ++ ms.filter (fun c => decide (c < last))
  else [t.target.toNat]

/-- The first target of a task with a free prefetch entry. -/
def State.taskCore (s : State) (die b : Nat) (t : Task) : Option Nat :=
  (s.taskTargets die b t).find? (fun c => decide ((s.core c).prefetched < 2) && !(s.core c).lost &&
    decide ((s.core c).ctx = some t.ctx))

/-- Whether task `a` comes before task `b`: by priority, then by age (R40). -/
def Task.before (a b : Task) : Bool := decide (b.prio < a.prio) || (decide (a.prio = b.prio) && decide (a.seq < b.seq))

/-- The task a bank dispatches next, with its target (R40). -/
def State.nextTask (s : State) (die b : Nat) : Option (Task × Nat) :=
  (s.bank die b).tasks.foldl (fun best t => match s.taskCore die b t with
    | none => best
    | some c => match best with
      | none => some (t, c)
      | some (x, d) => if t.before x then some (t, c) else some (x, d)) none

/-- The message of a task (Table 2.5). -/
def Task.msg (t : Task) (c : Nat) : Msg :=
  { dst := BitVec.ofNat 13 c, chan := 0, ctx := BitVec.ofNat 8 t.ctx, src := BitVec.ofNat 13 t.src, task := true, area := 3,
    body := [t.pc, t.args.getD 0 0, t.args.getD 1 0, t.args.getD 2 0, t.args.getD 3 0, t.cnt,
      w64 (t.prio % 8 * 2 ^ 48 + t.seq % 2 ^ 48)] }

/-- The event record of a discarded message (R23). -/
def State.discard (s : State) (c : Nat) (cause : Cause) (m : Msg) : State :=
  s.record c { cause := cause, kind := 4, info := msgHeader m, who := msgWho m }

/-- QUINCE_DISPATCH (R40): the first task in order whose target has a free prefetch entry enters it. A channel 0 without
V = 1 discards it (R23). -/
def execQuinceDispatch (die bank : Nat) (s : State) : Out :=
  .next (match s.nextTask die bank with
    | none => s
    | some (t, c) =>
      let s1 := s.modBank die bank (fun x => { x with
        tasks := x.tasks.filter (fun y => decide (y.seq ≠ t.seq)),
        last := if t.target.getLsbD 16 then Sparse.set 0 x.last (t.ctx * 256 + bits t.target 0 8) (c + 1) else x.last })
      let r := s1.unitMid die (unitQuince bank)
      let m := { t.msg c with mid := r.1 }
      if (s.hte c 0).v then r.2.modCore c (fun co => Core.settle { co with inbox := co.inbox ++ [m] })
      else r.2.discard c .msgNohandler m)

/-- SPAWN_REQUEST_ARRIVAL (R41, R148): the target reserves a slot or refuses. -/
def execSpawnRequestArrival (core slot id : Nat) (s : State) : Out :=
  .next (match s.slot core slot with
    | none => s
    | some sl => match sl.loads.find? (fun l => decide (l.id = id)) with
      | none => s
      | some l => match l.op with
        | .spawn t pc args cnt =>
          if l.res.isSome then s
          else
            let co := s.core t
            if coreDie t = coreDie core ∧ s.inSet (s.coreCtx core) t ∧ co.ctx = some (s.coreCtx core) ∧ co.lost = false ∧ co.failed = false ∧
                co.hasFree ∧ co.runnables = [] ∧ co.open_ then
              let ch : Child := { pc := pc, args := args, cnt := cnt }
              let s1 := if sl.irrev then s.startChild t ch
                else s.modCore t (fun co => { co with spawns := co.spawns ++ [{ core := core, act := sl.act, child := ch }] })
              s1.setRes core slot id (.ready (l.value (allOrNone true)))
            else s.setRes core slot id (.ready (l.value (allOrNone false)))
        | _ => s)

/-! ## Arriving (R23, R26, R146) -/

/-- Whether another reply to a core was held back before this one; those held back enter in that order (R275). -/
def State.behindBack (s : State) (f : Flight) (m : Msg) : Bool :=
  m.cls && s.flight.any (fun g => match g.op, g.back with
    | .msg q, some k => q.cls && decide (q.dst = m.dst) && (match f.back with | some j => decide (k < j) | none => true)
    | _, _ => false)

/-- Whether the flight at place `n` is behind an earlier message of its sender to its destination on its network (R146). -/
def State.behindFlight (s : State) (n : Nat) (f : Flight) (m : Msg) : Bool :=
  decide (f.src < 8192) && (s.flight.take n).any (fun g => decide (g.src = f.src) && decide (g.act = f.act) && (match g.op with
    | .msg q => decide (q.dst = m.dst) && decide (q.cls = m.cls)
    | _ => false))

/-- The cause for which an arriving message is discarded, if any (R23, R146, R286). -/
def State.refusal (s : State) (c : Nat) (m : Msg) : Option Cause :=
  let h := s.hte c m.chan.toNat
  if !h.v then some .msgNohandler
  else if m.ctx.toNat ≠ s.coreCtx c ∧ !(h.gw && decide (m.ctx.toNat < 64) && h.ctxs.getLsbD m.ctx.toNat) then some .msgContext
  else if m.cls ≠ h.cls then some .msgClass
  else none

/-- A message is accepted into an area of the inbox (R26). A core that has room for requests again has ended its withholding,
be it for less than a cycle (R276). -/
def State.acceptMsg (s : State) (c area : Nat) (m : Msg) : State :=
  s.modCore c (fun co => Core.settle { co with
    inbox := co.inbox ++ [{ m with area := area }]
    stallSince := if co.withholds false then co.stallSince else none
    stallSent := if m.cls then co.stallSent else false })

/-- A message reaches core `c`: discarded, accepted, or held back while the core withholds credits (R23, R26, R276, R318).
The flag says whether it has left the mesh. -/
def State.arriveMsg (s : State) (c : Nat) (m : Msg) : State × Bool :=
  if (s.core c).lost then (s.record m.src.toNat { cause := .msgDest, kind := 4, info := msgHeader m, who := msgWho m }, true)
  else if (s.core c).ctx = none then (s, true)
  else match s.refusal c m with
    | some cause => (s.discard c cause m, true)
    | none => match (s.core c).roomFor m.cls with
      | some a => (s.acceptMsg c a m, true)
      | none => (s, false)

/-- The flight at place `n` is held back: a reply takes its number among those that wait for its core (R275). -/
def State.holdBack (s : State) (n : Nat) (f : Flight) (m : Msg) : State :=
  if m.cls && f.back.isNone then
    { s.modCore m.dst.toNat (fun co => { co with nextBack := co.nextBack + 1 }) with
      flight := s.flight.set n { f with back := some (s.core m.dst.toNat).nextBack } }
  else s

/-- A wake has left the mesh: its wait-table entry is free (R273). -/
def State.wakeTaken (s : State) (w : Option (Nat × Nat)) : State :=
  match w with
  | none => s
  | some (cl, ent) => s.modCluster cl (fun x => { x with waits := x.waits.filter (fun y => decide (y.ent ≠ ent)) })

/-- MESSAGE_ARRIVAL: the message at place `n` of those on their way reaches its core. -/
def execMessageArrival (n : Nat) (s : State) : Out :=
  .next (match s.flight[n]? with
    | none => s
    | some f => match f.op with
      | .msg m =>
        if s.behindFlight n f m then s
        else if s.behindBack f m then s.holdBack n f m
        else
          let r := s.arriveMsg m.dst.toNat m
          if r.2 then State.wakeTaken { r.1 with flight := s.flight.eraseIdx n } f.wait else s.holdBack n f m
      | _ => s)

/-- The channels that hold messages in the inbox or overflow, as a map (R276). -/
def Core.chanMap (co : Core) : Word :=
  w64 (((List.range 64).filter (fun ch => co.inbox.any (fun m => decide (m.chan.toNat = ch) && decide (m.area ≤ 2)))).map
    (2 ^ ·)).sum

/-- MSG_STALL (R276): a core has withheld request-network credits for 2^20 consecutive cycles. -/
def execMsgStall (core : Nat) (s : State) : Out :=
  .next (match (s.core core).stallSince with
    | none => s
    | some t =>
      if (s.core core).stallSent ∨ (s.core core).withholds false = false ∨ s.cycle < t + 2 ^ 20 then s
      else (s.record core { cause := .msgStall, kind := 4, info := (s.core core).chanMap }).modCore core (fun co =>
        { co with stallSent := true }))

/-! ## Records (R312, R313) -/

/-- RECORD_BUFFER_SEND (R313): the oldest record of a core, or of a die's units, leaves. -/
def execRecordBufferSend (fromDie : Bool) (n : Nat) (s : State) : Out :=
  .next (if fromDie then
      (match (s.die n).recs with
       | [] => s
       | (u, m) :: rs => (s.modDie n (fun x => { x with recs := rs })).unitSend n u m)
    else match (s.core n).recs with
      | [] => s
      | m :: rs => (s.modCore n (fun co => { co with recs := rs })).injectMsgs n 0 [m])

/-! ## Binding, budgets, quiescence (R29, R30, R36, R37) -/

/-- ACTIVATION_BIND (R29, R30): the selector's choice binds. -/
def execActivationBind (core : Nat) (s : State) : Out :=
  .next (if (s.core core).mayBind then
      (match (s.core core).select with
       | some (ch, aged) => s.bindChan core ch aged
       | none => s)
    else s)

/-- BUDGET_EXPIRED (R36, R362): the span aborts; a `commit` whose drain has ended comes first. -/
def execBudgetExpired (core slot : Nat) (s : State) : Out :=
  .next (match s.slot core slot with
    | none => s
    | some sl =>
      if sl.budget ≠ some 0 ∨ sl.hold = .parked ∨ (sl.hold = .drain ∧ s.drainOver core sl) then s
      else if sl.irrev || sl.ckpt.isSome || s.journalBad core slot sl.journal.length then
        s.takeTrap core slot sl.pc { cause := .budgetExpired, info := Config.openInfo s.tick }
      else
        let r : Rec := { cause := .budgetExpired, kind := 1, att := sl.att, commits := sl.commits, slot := slot,
                         pc := sl.pc.setWidth 64, info := Config.openInfo s.tick, who := (sl.held.head?.map msgWho).getD 0 }
        ((s.abortSpan core slot).record core r).maskAndWait core slot)

/-- CORE_QUIESCENT (R37, R203). -/
def execCoreQuiescent (core : Nat) (s : State) : Out :=
  .next (if (s.core core).quiescent && !(s.core core).quietSent then
      (s.record core { cause := .coreQuiet, kind := 4, info := Config.openInfo s.tick }).modCore core (fun co =>
        { co with quietSent := true })
    else s)

/-! ## Failed checks (R308, R309, R318) -/

/-- An abort that no instruction of the span asked for: the record names the cause, ATT stays, and an irrevocable span, or one
with an uncorrectable journal entry, ends its activation (R34, R311, R318). -/
def State.abortFor (s : State) (c k : Nat) (cause : Cause) : State :=
  match s.slot c k with
  | none => s
  | some sl =>
    if sl.hold = .parked then s
    else
      let bad := !sl.irrev && s.journalBad c k sl.journal.length
      let over_ := sl.irrev || bad
      let r : Rec := { cause := if bad then .journalUe else cause, kind := if over_ then 2 else 0, att := sl.att,
                       commits := sl.commits, slot := k, pc := sl.pc.setWidth 64, info := Config.openInfo s.tick,
                       who := (sl.held.head?.map msgWho).getD 0 }
      let s1 := (s.abortSpan c k).record c r
      if over_ then s1.endActivation c k else s1.again c k sl.att

/-- One more `pipe.error` or `reg.ue` abort of a core; the last eight count, and with them the core fails: the spans of its
other slots abort, with records that name the same cause (R318; log 109). -/
def State.countFail (s : State) (c k : Nat) (cause : Cause) : State :=
  let s1 := s.modCore c (fun co => { co with failTimes := ((co.failTimes ++ [s.cycle]).reverse.take 8).reverse })
  if (s1.core c).failed then ((List.range 8).filter (fun j => decide (j ≠ k))).foldl (fun t j => t.abortFor c j cause) s1 else s1

/-- The error record of a core's own structure: registers, UNIT 1, queues, UNIT 8, or the replays of a pipeline, KIND 3
(Table 16.5; log 110: level 0). -/
def State.coreError (s : State) (c k unit kind : Nat) (cause : Cause) : State :=
  s.errBad (s.coreOwner c) { ErrRec.seenBy { level := 0, cause := cause.code, unit := unit, die := coreDie c, idx := c } s
    (some (c, k, 0)) with kind := kind }

/-- PIPELINE_CHECK_FAILURE (R308, R309): the instruction is replayed, and at its third failure in a row the span aborts; an
uncorrectable register or queue word aborts it at once; the words of a release are checked before its first entry leaves, so that
none fails while it drains. A failed core runs nothing (R318). -/
def execPipelineCheckFailure (core slot : Nat) (k : CheckKind) (s : State) : Out :=
  .next (match s.slot core slot with
    | none => s
    | some sl =>
      if sl.hold = .parked ∨ (s.core core).failed then s
      else
        let trap (unit kind : Nat) (c : Cause) : State :=
          (s.coreError core slot unit kind c).takeTrap core slot sl.pc { cause := c, info := Config.openInfo s.tick }
        match k with
        | .queue => if sl.hold = .drain then s else trap 8 1 .queueUe
        | .reg => (trap 1 1 .regUe).countFail core slot .regUe
        | .pipe =>
          if sl.fails < 2 then s.modSlot core slot (fun sl => { sl with fails := sl.fails + 1 })
          else (trap 1 3 .pipeError).countFail core slot .pipeError)

end Sys2Proof.Machine
end

