-- ==== Sys2Proof/Machine/Perform.lean ====
section
/-! DEFINITION. The events in which memory and counter operations are performed: load replies, released store entries, bank
writes, range walks, folds, counters and their waits (07_isa_memory_sync R122 to R144; 11 R227; 12 R236 to R240; 15
R292). -/

namespace Sys2Proof.Machine

/-! ## When an outstanding access may be performed (R122, R136, R236) -/

/-- The keys a load reads from memory: those that forwarding does not supply. -/
def Load.keys (l : Load) : List Nat := (l.bytes.filter (fun b => b.2.isNone)).map Prod.fst
/-- Whether a store-buffer entry writes a line that a load reads. -/
def SOp.meets (op : SOp) (l : Load) : Bool :=
  match op.key? with
  | none => false
  | some key => l.keys.any (fun x => decide (x / 128 = key / 128))

/-- Whether a cell that holds a posted access writes a line that a load reads. -/
def Kept.meets (x : Kept) (l : Load) : Bool := x.bytes.any (fun b => l.keys.any (fun k => decide (k / 128 = b.1 / 128)))

/-- Whether a store of the activation that stands before the load and writes a line it reads is on its way: released, or gone
to another device and not acknowledged (R225). -/
def State.ownBefore (s : State) (c act : Nat) (l : Load) : Bool :=
  (s.core c).released.any (fun r => decide (r.act = act) && decide (r.e.upto ≤ l.id) && r.e.op.meets l) ||
  s.fab.peers.any (fun p => (p.2.kept ++ p.2.waiting).any (fun x =>
    x.posted && decide (x.core = c) && decide (x.act = act) && x.meets l))
/-- Whether an earlier load of the slot to one of the same bytes, or an earlier `cread` of the same counter, is still out;
values never move backwards (R236). -/
def Slot.loadBefore (sl : Slot) (l : Load) : Bool :=
  sl.loads.any (fun x => decide (x.id < l.id) && (x.keys.any l.keys.contains ||
    (match x.op, l.op with | .counter _ a, .counter _ b => decide (a = b) | _, _ => false)))
/-- Whether store-buffer entry `id` of core `o` is on its way and writes a line that a load reads. -/
def State.flightMeets (s : State) (o id : Nat) (l : Load) : Bool :=
  (s.core o).released.any (fun r => decide (r.e.id = id) && r.e.op.meets l) ||
  s.fab.peers.any (fun p => (p.2.kept ++ p.2.waiting).any (fun x =>
    x.posted && decide (x.core = o) && decide (x.ent = id) && x.meets l))
/-- Whether a store in flight that answered the activation before is still to be performed on a line the load reads. -/
def State.answeredOn (s : State) (c act : Nat) (l : Load) : Bool :=
  (s.core c).answered.any (fun a => decide (a.1 = act) && s.flightMeets a.2.1 a.2.2 l)

/-- Whether outstanding load `l` may be performed at its performing point. -/
def State.loadMay (s : State) (c : Nat) (sl : Slot) (l : Load) : Bool :=
  !s.ownBefore c sl.act l && !sl.loadBefore l && !s.answeredOn c sl.act l

/-- What an atomic or a region waits for beyond that: markers before it, and, as a release, acknowledgement (R130, R136). -/
def State.atomMay (s : State) (c : Nat) (sl : Slot) (l : Load) : Bool :=
  let before := (s.core c).released.filter (fun r => decide (r.e.upto ≤ l.id) && decide (r.e.id < l.ent))
  (List.range (s.core c).released.length).all (fun i => match (s.core c).released[i]? with
    | some r => decide (r.act ≠ sl.act) || decide (r.e.op ≠ .marker) || decide (l.ent ≤ r.e.id) || s.passed c i r
    | none => true) &&
  (!l.rel || (s.acked c sl.act before l.ent l.id l.sc && !s.folding c sl.act))

/-! ## Performing loads -/

/-- The fault of byte `i` of an access; a vector access names the lane (R121). -/
def byteTrap (vec : Bool) (c : Cause) (va i : Nat) : Trap :=
  if vec then { cause := c, info := w64 (va + i / 4 * 4), lane := some (i / 4) } else { cause := c, info := w64 va }

/-- One byte of a load as its performing point holds it: its value, or a fault; `none` when another device holds it. -/
def State.loadByte (s : State) (k : Nat) (b : Nat × Option Byte) : Option (Except Cause Byte) :=
  match b.2 with
  | some x => some (.ok x)
  | none => match s.reach k b.1 permR with
    | .away _ => none
    | .fault c => some (.error c)
    | .mem key => some (if s.poisoned key then .error .memPoison else .ok (s.byte key))

/-- The bytes of a load read at home, or the first fault. -/
def State.readBytes (s : State) (k : Nat) (vec : Bool) (va : Nat) : Nat → List (Nat × Option Byte) →
    Option (Except Trap (List Byte))
  | _, [] => some (.ok [])
  | i, b :: bs =>
    match s.loadByte k b with
    | none => none
    | some (.error c) => some (.error (byteTrap vec c va i))
    | some (.ok x) => match s.readBytes k vec va (i + 1) bs with
      | some (.ok xs) => some (.ok (x :: xs))
      | r => r

/-- Whether a load is a vector load. -/
def Load.isVec (l : Load) : Bool := match l.op with | .vec => true | _ => false
/-- Whether a load is a plain load of memory. -/
def Load.isPlain (l : Load) : Bool := match l.op with | .mem _ => true | .vec => true | .ptr .. => true | _ => false

/-- A plain load delivers its bytes. -/
def State.landBytes (s : State) (c k : Nat) (l : Load) (bs : List Byte) : State :=
  s.deliver c k l (loadResult l.op l.d l.mask l.va bs)

/-- An atomic performed on memory of this module: the old value goes to the slot, the new one to memory (R131 to R134). -/
def State.atomHome (s : State) (c k : Nat) (l : Load) (key : Nat) : State :=
  if (List.range l.op.size).any (fun j => s.poisoned (key + j)) then s.deliver c k l (.error (poisonTrap false l.va l.va))
  else
    let old := w64 (leNat (s.bytes key l.op.size))
    let s1 := match l.op.newValue c old with
      | none => s
      | some v => s.writeMem c (storeBytes l.va key l.op.size v)
    s1.deliver c k l (.ok (l.value old))

/-- Performs the accesses of a region on the line at `key`, in program order (R135). -/
def State.regionHome (s : State) (c key line : Nat) (ids : List Nat) : List RegionAcc →
    State × List (Nat × Except Trap RegWrite)
  | [] => (s, [])
  | .load kd d _ _ va :: as =>
    let rs := (List.range (ldSize kd)).map (fun j => (s.byte (key + (va - line) + j), s.poisoned (key + (va - line) + j), false))
    let rest := s.regionHome c key line ids.tail as
    (rest.1, (ids.headD 0, regionResult kd d va rs) :: rest.2)
  | .store va bs :: as =>
    (s.writeMem c (bs.zipIdx.map (fun b => (va + b.2, key + (va - line) + b.2, b.1)))).regionHome c key line ids as

/-- A region that another device performed, from the bytes of the line before it. -/
def regionAway (line : Nat) (ids : List Nat) (bs : List Byte) : List RegionAcc → List (Nat × Except Trap RegWrite)
  | [] => []
  | .load kd d _ _ va :: as =>
    (ids.headD 0, .ok { d := d, x := ldValue kd ((bs.drop (va - line)).take (ldSize kd)) }) :: regionAway line ids.tail bs as
  | .store va xs :: as =>
    regionAway line ids (bs.take (va - line) ++ xs ++ bs.drop (va - line + xs.length)) as

/-- The results of a region reach their landing entries. -/
def State.deliverRegion (s : State) (c k : Nat) (l : Load) (rs : List (Nat × Except Trap RegWrite)) : State :=
  s.modSlot c k (fun sl => { sl with loads := sl.loads.filter (fun x => decide (x.id ≠ l.id)), landing := landAll sl.landing rs })

/-- A region's fault: every load of it takes it. -/
def regionFault (t : Trap) (ids : List Nat) : List (Nat × Except Trap RegWrite) := ids.map (fun i => (i, .error t))

/-- The permission an atomic or a region needs. -/
def permAtom : BitVec 8 := permR ||| permW ||| permA

/-- An outstanding access is performed at its performing point on this module. -/
def State.replyHome (s : State) (c k : Nat) (sl : Slot) (l : Load) : State :=
  let x := s.coreCtx c
  match l.op with
  | .mem _ | .vec | .ptr .. =>
    if !s.loadMay c sl l then s
    else match s.readBytes x l.isVec l.va 0 l.bytes with
      | none => s
      | some (.error t) => s.deliver c k l (.error t)
      | some (.ok bs) => s.landBytes c k l bs
  | .atom .. | .cas .. =>
    if !s.loadMay c sl l || !s.atomMay c sl l then s
    else match s.reach x (l.keys.headD 0) permAtom with
      | .mem key => s.atomHome c k l key
      | .fault e => s.deliver c k l (.error { cause := e, info := w64 l.va })
      | .away _ => s
  | .region r ids =>
    if !s.loadMay c sl l || !s.atomMay c sl l then s
    else match s.reach x r.key permAtom with
      | .mem key =>
        let p := s.regionHome c key r.line ids r.accs
        p.1.deliverRegion c k l p.2
      | .fault e => s.deliverRegion c k l (regionFault { cause := e, info := w64 r.line } ids)
      | .away _ => s
  | .counter code h =>
    if sl.loadBefore l then s
    else s.deliver c k l (.ok (l.value (if code then (s.counter h).code.setWidth 64 else (s.counter h).val)))
  | .wptr die ch => s.deliver c k l (.ok (l.value (w64 (s.pos die ch))))
  | _ => s

/-! ## Stores in flight (R240) -/

/-- The byte that a released store entry writes at a key. -/
def SOp.byteAt (op : SOp) (key : Nat) : Option Byte :=
  match op with
  | .store bs => (bs.find? (fun e => decide (e.2.1 = key))).map (fun e => e.2.2)
  | _ => none

/-- Whether entry `r` of core `o` is the youngest store to its line in the queue where it stands. -/
def State.youngest (s : State) (o : Nat) (r : Rel) (q : Nat × Nat) : Bool :=
  s.allReleased.all (fun x => decide (x = (o, r)) || !x.2.e.op.sameTarget r.e.op || decide (x.2.inQueue x.1 ≠ some q) || x.2.aheadIn x.1 r o q)

/-- Whether every store of the activation that stands before the load and writes its line is entry `r` of core `o` or before it
in the queue: the load returns a write that is later than its own (R225). -/
def State.ownAhead (s : State) (c act : Nat) (l : Load) (o : Nat) (r : Rel) (q : Nat × Nat) : Bool :=
  (s.core c).released.all (fun x => decide (x.act ≠ act) || !decide (x.e.upto ≤ l.id) || !x.e.op.meets l || decide ((c, x) = (o, r)) ||
    x.aheadIn c r o q)

/-- Whether every store in flight that answered the activation before on a line the load reads is entry `r` of core `o` or
before it in the queue: the load's value does not move backwards (R236). -/
def State.answersOn (s : State) (c act o : Nat) (r : Rel) (q : Nat × Nat) (l : Load) : Bool :=
  (s.core c).answered.all (fun a => decide (a.1 ≠ act) || (s.core a.2.1).released.all (fun x => decide (x.e.id ≠ a.2.2) || !x.e.op.meets l ||
    decide ((a.2.1, x) = (o, r)) || x.aheadIn a.2.1 r o q))

/-- A store in flight answers: the load has its bytes, and the slot keeps which store that was (R240). -/
def State.answerFrom (s : State) (c k act o id : Nat) (l : Load) (byte : Nat → Option Byte) : State :=
  let bs := l.bytes.map (fun b => b.2.getD ((byte b.1).getD 0))
  (s.modCore c (fun co => { co with answered := (co.answered.filter (fun a => s.inFlight a.2.1 a.2.2)) ++ [(act, o, id)] })).landBytes
    c k l bs

/-- A load answered from a store in flight: it meets the store in an outbound queue on its own way, where that is the youngest
to its line and writes every byte of the load (R240). -/
def State.replyFlight (s : State) (c k : Nat) (sl : Slot) (l : Load) (o i : Nat) : State :=
  match (s.core o).released[i]? with
  | none => s
  | some r => match r.inQueue o with
    | none => s
    | some q =>
      if l.isPlain && l.keys.all (fun key => (pathQueues c key).contains q && (r.e.op.byteAt key).isSome) && s.youngest o r q &&
          !sl.loadBefore l && s.answersOn c sl.act o r q l && s.ownAhead c sl.act l o r q then
        s.answerFrom c k sl.act o r.e.id l r.e.op.byteAt
      else s

/-- Whether the stores in flight that answered the activation before on a line the load reads are among the first `i` + 1 cells
to a device, or are performed (R236). -/
def State.answersPort (s : State) (c act dev i : Nat) (l : Load) : Bool :=
  (s.core c).answered.all (fun a => decide (a.1 ≠ act) || !s.flightMeets a.2.1 a.2.2 l ||
    ((s.peer dev).kept.take (i + 1)).any (fun y => decide (y.core = a.2.1) && decide (y.ent = a.2.2)))

/-- A load answered from a store in the outbound queue of a fabric port: its cell has not left yet, and no later store to the
line stands behind it (R240). -/
def State.replyPort (s : State) (c k : Nat) (sl : Slot) (l : Load) (dev i : Nat) : State :=
  match (s.peer dev).kept[i]? with
  | none => s
  | some x =>
    let byte (key : Nat) : Option Byte := (x.bytes.find? (fun b => decide (b.1 = key))).map Prod.snd
    let later := (s.peer dev).kept.drop (i + 1) ++ (s.peer dev).waiting
    if x.posted && s.fab.out.any (fun e => decide (e.2 = x.cell)) && l.isPlain && l.keys.all (fun key => (byte key).isSome) &&
        !later.any (fun y => y.meets l) && !sl.loadBefore l && s.answersPort c sl.act dev i l &&
        !(s.core c).released.any (fun r => decide (r.act = sl.act) && decide (r.e.upto ≤ l.id) && r.e.op.meets l) then
      s.answerFrom c k sl.act x.core x.ent l byte
    else s

/-! ## LOAD_REPLY (R58, R77, R122, R131) -/

/-- The cause of a fault reply from its code (Table 16.2). -/
def Cause.ofCode (n : Nat) : Cause :=
  ([Cause.rangePerm, .rangePartial, .parcelAbsent, .memPoison, .msgDest].find? (fun c => decide (c.code = n))).getD .rangeMiss

/-- Whether another device holds what an access reads. -/
def State.awaits (s : State) (k dev : Nat) (l : Load) : Bool :=
  let keys := match l.op with | .region r _ => [r.key] | _ => l.keys
  l.res.isNone && keys.any (fun key => match s.reach k key 0 with | .away d => decide (d = dev) | _ => false)

/-- Whether bytes from another device answer an access. -/
def State.peerAnswers (s : State) (c : Nat) (sl : Slot) (l : Load) (bs : List Byte) : Bool :=
  s.loadMay c sl l && match l.op with
    | .mem _ | .vec | .ptr .. => decide (bs.length = l.bytes.length)
    | .atom .. | .cas .. => decide (bs.length = l.op.size) && s.atomMay c sl l
    | .region .. => decide (bs.length = 128) && s.atomMay c sl l
    | _ => false

/-- The bytes of a plain load after device `dev` has answered: those that it holds have come. -/
def State.filled (s : State) (k dev : Nat) (bytes : List (Nat × Option Byte)) (bs : List Byte) : List (Nat × Option Byte) :=
  (bytes.zip bs).map (fun e => match e.1.2, s.reach k e.1.1 permR with
    | none, .away d => (e.1.1, if d = dev then some e.2 else none)
    | b, _ => (e.1.1, b))

/-- The answer of another device: the bytes an access read there. A load that reads bytes elsewhere too still waits for those,
each of which its own performing point gives (R236). -/
def State.replyPeer (s : State) (c k dev : Nat) (l : Load) (bs : List Byte) : State :=
  match l.op with
  | .mem _ | .vec | .ptr .. =>
    let got := s.filled (s.coreCtx c) dev l.bytes bs
    if allForwarded got then s.landBytes c k l (got.map (fun e => e.2.getD 0))
    else s.modSlot c k (fun sl => { sl with loads := sl.loads.map (fun x => if x.id = l.id then { x with bytes := got } else x) })
  | .atom .. | .cas .. => s.deliver c k l (.ok (l.value (w64 (leNat bs))))
  | .region r ids => s.deliverRegion c k l (regionAway r.line ids bs r.accs)
  | _ => s

/-- The fault of another device. -/
def State.replyFault (s : State) (c k : Nat) (l : Load) (code : BitVec 16) (info : Word) : State :=
  let t : Trap := { cause := Cause.ofCode code.toNat, info := info }
  match l.op with
  | .region _ ids => s.deliverRegion c k l (regionFault t ids)
  | _ => s.deliver c k l (.error t)

/-- A reply cell of device `dev` reaches the load tracking that waits for it, and is then performed (R289, R331). -/
def State.takeReply (s : State) (c dev eseq : Nat) (l : Load) (may : Bool) (go : State) : State :=
  if (s.peer dev).holds eseq 2 && s.awaits (s.coreCtx c) dev l && may then go.performed dev eseq 2 else s

/-- A store that faults at another unit: the supervisor's record carries the address. -/
def State.storeFault (s : State) (c va : Nat) (cause : Cause) : State :=
  s.record c { cause := cause, kind := 4, info := w64 va }

/-- A reply cell that no load awaits is taken all the same (R331): a fault for `slot` 8, which names no slot, is that of a posted
store or atomic of the core, and its supervisor hears of it (R289; log 61); any other is the late reply of an aborted load, and
is discarded (R207). -/
def State.lateReply (s : State) (c slot : Nat) : ReplyFrom → State
  | .peer dev e _ => if (s.peer dev).holds e 2 then s.performed dev e 2 else s
  | .peerFault dev e code info =>
    if (s.peer dev).holds e 2 = false then s
    else (if slot = 8 then s.storeFault c info.toNat (Cause.ofCode code.toNat) else s).performed dev e 2
  | _ => s

/-- LOAD_REPLY: an outstanding result comes back to its slot, from where the access is performed. -/
def execLoadReply (core slot id : Nat) (src : ReplyFrom) (s : State) : Out :=
  .next (match s.slot core slot with
    | none => s.lateReply core slot src
    | some sl => match sl.loads.find? (fun l => decide (l.id = id)) with
      | none => s.lateReply core slot src
      | some l => (match l.res with
        | some (.ready w) => s.deliver core slot l (.ok w)
        | some (.fault t) => s.deliver core slot l (.error t)
        | some (.wait _) => s
        | none => match src with
          | .home => s.replyHome core slot sl l
          | .inFlight o i => s.replyFlight core slot sl l o i
          | .port dev i => s.replyPort core slot sl l dev i
          | .peer dev e bs => s.takeReply core dev e l (s.peerAnswers core sl l bs) (s.replyPeer core slot dev l bs)
          | .peerFault dev e c i => s.takeReply core dev e l true (s.replyFault core slot l c i)).dropMarkers core)

/-! ## RANGE_WALK (R292) -/

/-- What follows a walk that found a descriptor. -/
def State.walkHit (s : State) (m : Miss) (sl : Slot) (d : Desc) : State :=
  let s1 := s.modCore m.core (fun co => { co with rtab := rtabInsert co.rtab d })
  match m.probe with
  | some id =>
    let p := s1.probe m.core m.va
    p.2.modSlot m.core m.slot (fun sl => { sl with loads := sl.loads.map (fun l =>
      if l.id = id then { l with res := some (.ready (l.value p.1)) } else l) })
  | none => if m.waits ∧ sl.hold = .walk then s1.modSlot m.core m.slot (fun sl => { sl with hold := .ready }) else s1

/-- What follows a walk that found none: a waiting access traps `range.miss`, `rprobe` reads 0, `pref` does nothing. -/
def State.walkMiss (s : State) (m : Miss) (sl : Slot) : State :=
  match m.probe with
  | some id => s.modSlot m.core m.slot (fun sl => { sl with loads := sl.loads.map (fun l =>
      if l.id = id then { l with res := some (.ready (l.value 0)) } else l) })
  | none =>
    if m.waits ∧ sl.hold = .walk then
      s.takeTrap m.core m.slot sl.pc { cause := .rangeMiss, info := w64 m.va, lane := m.lane }
    else s

/-- RANGE_WALK: a walker of a die completes the miss at place `n`; a descriptor it finds enters the core's table even when
the activation that asked has ended. -/
def execRangeWalk (die n : Nat) (s : State) : Out :=
  .next (match (s.die die).misses[n]? with
    | none => s
    | some m =>
      let s1 := s.modDie die (fun x => { x with misses := x.misses.eraseIdx n })
      let d := s1.descOf (s1.coreCtx m.core) m.va
      match (s1.slot m.core m.slot).filter (fun sl => decide (sl.act = m.act)), d with
      | some sl, some d => s1.walkHit m sl d
      | some sl, none => s1.walkMiss m sl
      | none, some d => s1.modCore m.core (fun co => { co with rtab := rtabInsert co.rtab d })
      | none, none => s1)

/-! ## Released store entries (R126, R237, R239) -/

/-- A posted access that a released entry of core `c` makes leaves for another device, with the bytes it writes at their
keys (R289, R330). -/
def State.sendPosted (s : State) (c : Nat) (r : Rel) (dev va : Nat) (bytes : List (Nat × Byte)) : State :=
  s.sendCell dev { s.reqCell c r.act dev va true with ent := r.e.id, bytes := bytes }

/-- Performs bytes of one line for core `c` of context `k`. -/
def State.storeLine (s : State) (k c : Nat) (r : Rel) (bs : List (Nat × Nat × Byte)) : State :=
  match bs with
  | [] => s
  | (va, key, _) :: _ =>
    match s.reach k key permW with
    | .mem p => (s.writeMem c (bs.map (fun b => (b.1, p + b.2.1 - key, b.2.2)))).carried c r.act r.e.id p
    | .away dev => s.sendPosted c r dev va (bs.map Prod.snd)
    | .fault e => s.storeFault c va e

/-- What a posted atomic does that meets poison: it writes nothing; what still waits behind it of its release is discarded; a
`commit`'s span aborts, after `done` the supervisor gets a context error (R133, R239). -/
def State.postedPoison (s : State) (c : Nat) (r : Rel) (va : Nat) : State :=
  let behind := (s.core c).released.filter (fun x => decide (x.act = r.act) && decide (r.e.id < x.e.id) && x.left.isNone)
  let h := ((behind.find? (fun x => x.e.completion)).bind (fun x => x.e.op.counter?)).map handleOf
  let s1 := s.dropWaiting c r.act r.e.id
  let t : Trap := { cause := .memPoison, info := w64 va }
  match s1.slot c r.slot with
  | some sl =>
    if r.byDone = false ∧ sl.act = r.act then s1.takeTrap c r.slot sl.pc t
    else s1.record c { cause := .memPoison, kind := 2, slot := r.slot, info := w64 va, info2 := h.getD 0 }
  | none => s1.record c { cause := .memPoison, kind := 2, slot := r.slot, info := w64 va, info2 := h.getD 0 }

/-- Performs a posted atomic (R132, R133). -/
def State.postedAtom (s : State) (k c : Nat) (r : Rel) (va key : Nat) (op : AtomOp) (n : Nat) (b : Word) : State :=
  match s.reach k key permAtom with
  | .away dev => s.sendPosted c r dev va []
  | .fault e => s.storeFault c va e
  | .mem p =>
    if (List.range n).any (fun j => s.poisoned (p + j)) then s.postedPoison c r va
    else (s.writeMem c (storeBytes va p n (atomNew op c n (w64 (leNat (s.bytes p n))) (narrow n b)))).carried c r.act r.e.id p

/-- Performs a store-only region on a translated line (R135). -/
def State.regionStores (s : State) (k c : Nat) (r : Rel) (g : Region) : State :=
  match s.reach k g.key permAtom with
  | .away dev => s.sendPosted c r dev g.line (g.accs.flatMap (fun a => match a with
      | .store va bs => bs.zipIdx.map (fun b => (g.key + (va - g.line) + b.2, b.1))
      | .load .. => []))
  | .fault e => s.storeFault c g.line e
  | .mem p => (s.regionHome c p g.line [] g.accs).1.carried c r.act r.e.id p

/-- STORE_ENTRY_PERFORMED: the released entry at place `n` of a core is performed, or a directory request reaches walker
0 (R191, R193). -/
def execStoreEntryPerformed (core n : Nat) (s : State) : Out :=
  let k := s.coreCtx core
  .next (s.performing core n fun r t => match r.e.op with
    | .store bs =>
      match bs with
      | [] => some t
      | (_, key, _) :: _ => some (if keyIsPool key then t.acceptAt core r.act r.e.id bs else t.storeLine k core r bs)
    | .posted va key op m b => some (t.postedAtom k core r va key op m b)
    | .region g => some (t.regionStores k core r g)
    | .dir op ctr => some (t.modCtx k (fun x => { x with dirq := x.dirq ++ [{ core := core, op := op, ctr := ctr }] }))
    | .purge reach vb ctr => some (t.modCtx k (fun x => { x with
        purges := x.purges ++ [{ core := core, reach := reach, vbase := vb, ctr := ctr }] }))
    | _ => none)

/-- POOL_BANK_WRITE (R227): the oldest store in a port's write stage reaches the bank. -/
def execPoolBankWrite (core : Nat) (s : State) : Out :=
  .next (match (s.core core).stage with
    | [] => s
    | e :: _ => (s.bankPop core).dropMarkers e.core)

/-! ## At the supervisor core -/

/-- Whether the `commit` that sent a fold still drains. -/
def State.foldDrains (s : State) (f : Fold) : Bool :=
  (s.core f.core).slots.any (fun e => match e.2 with
    | some sl => decide (sl.act = f.act) && decide (sl.hold = .drain) && decide (sl.commits = f.commits)
    | none => false)

/-- Whether a fold waits for the end of its `commit`'s drain, since an abort in it still clears the shadow (R102, R221): not
once an entry with release order waits for nothing else, since that one must follow the fold (R222; log 108). The fold then
counts for the span's end only (`Ctx.folded`). -/
def State.foldWaits (s : State) (f : Fold) : Bool :=
  s.foldDrains f && !(s.core f.core).released.zipIdx.any (fun r => decide (r.1.act = f.act) && (r.1.e.rel || decide (r.1.e.op = .marker)) &&
    s.acked f.core f.act ((s.core f.core).released.take r.2) r.1.e.id r.1.e.upto r.1.e.sc)

/-- SHADOW_FOLD (R107, R222): the oldest fold that may reaches context state; while its `commit` drains it counts there for as
long as no abort of the span takes it back (R221). -/
def execShadowFold (ctx : Nat) (s : State) : Out :=
  .next (match (s.ctx ctx).folds.find? (fun f => !s.foldWaits f) with
    | none => s
    | some f => s.modCtx ctx (fun x => if s.foldDrains f then { x with folds := x.folds.erase f, folded := x.folded ++ [f] }
        else { x.fold f.shadow with folds := x.folds.erase f }))

/-- OOB_EVENT (R14): an event arrives; the first that finds `ctx.oob` clear latches. -/
def execOobEvent (ctx : Nat) (s : State) : Out :=
  .next (match arriving s.tick Prod.fst (s.ctx ctx).oobs with
    | none => s
    | some ((c, a), es) => s.modCtx ctx (fun x =>
        if x.flags.getLsbD 0 then { x with oobs := es }
        else { x with oobs := es, flags := x.flags ||| oobFlag, oobaddr := w64 (c * 2 ^ 51 + a) }))

/-! ## Counters (R140 to R144) -/

/-- CADD_PERFORMED (R142). -/
def execCaddPerformed (core n : Nat) (s : State) : Out :=
  .next (s.performing core n fun r t => match r.e.op with
    | .cadd h a => some (t.bump h a)
    | _ => none)

/-- CERR_PERFORMED (R144). -/
def execCerrPerformed (core n : Nat) (s : State) : Out :=
  .next (s.performing core n fun r t => match r.e.op with
    | .cerr h code => some (t.setCounter h ((t.counter h).err code))
    | _ => none)

/-- Whether a wait's condition holds (R143). -/
def Wait.holds (w : Wait) (c : Counter) : Bool := decide (w.value.toNat ≤ c.val.toNat) || decide (c.code ≠ 0)

/-- Every armed wait on a counter fires: with the counter as it stands where its condition holds already, else with a
code (R143, R144, R308). -/
def State.fireWaits (s : State) (h : Nat) (code : BitVec 8) : State :=
  let c := s.counter h
  if (s.cluster (h / 256)).waits.any (fun w => decide (w.ctr = h) && w.armed && w.fired.isNone && !w.sent) then
    s.modCluster (h / 256) (fun x => { x with waits := x.waits.map (fun w =>
      if w.ctr = h ∧ w.armed ∧ w.fired = none ∧ w.sent = false then
        { w with fired := some (c.val, if w.holds c then c.code else code) }
      else w) })
  else s

/-- CINIT_PERFORMED (R144): the armed waits wake first, then the counter takes its new value. -/
def execCinitPerformed (core n : Nat) (s : State) : Out :=
  .next (s.performing core n fun r t => match r.e.op with
    | .cinit h v code => some ((t.fireWaits h 0xFE).setCounter h { val := v, code := code })
    | _ => none)

/-- The lowest free entry of a wait table. -/
def Cluster.freeWait (x : Cluster) : Nat :=
  ((List.range 1024).find? (fun i => !x.waits.any (fun w => decide (w.ent = i)))).getD 0

/-- CWAIT_RESERVATION (R143): the bank reserves an entry, or refuses; in an irrevocable span the wait is armed at once
(R34). -/
def execCwaitReservation (core slot id : Nat) (s : State) : Out :=
  .next (match s.slot core slot with
    | none => s
    | some sl => match sl.loads.find? (fun l => decide (l.id = id)) with
      | none => s
      | some l => match l.op with
        | .cwait h v ch word =>
          if l.res.isSome then s
          else if (s.cluster (h / 256)).waits.length < 1024 then
            let w : Wait := { ent := (s.cluster (h / 256)).freeWait, ctr := h, value := v, core := core, act := sl.act,
                              chan := ch, word := word, armed := sl.irrev }
            (s.modCluster (h / 256) (fun x => { x with waits := x.waits ++ [w] })).setRes core slot id
              (.ready (l.value (allOrNone true)))
          else s.setRes core slot id (.ready (l.value (allOrNone false)))
        | _ => s)

/-- The wake of a wait (R42, R143, Table 2.6). -/
def State.wakeMsg (s : State) (w : Wait) (val : Word) (code : BitVec 8) : Msg :=
  { dst := BitVec.ofNat 13 w.core, chan := w.chan, ctx := BitVec.ofNat 8 (s.coreCtx w.core), src := BitVec.ofNat 13 w.core,
    err := decide (code ≠ 0), wake := true, body := [val, w.word.setWidth 64, code.setWidth 64] }

/-- A wake leaves the bank of its cluster; the entry stays until the wake is accepted (R25, R273). -/
def State.sendWake (s : State) (cluster ent : Nat) (m : Msg) : State :=
  let r := s.unitMid (cluster / 64) (unitBank cluster)
  { r.2 with flight := r.2.flight ++ [{ src := 8192, op := .msg { m with mid := r.1 }, wait := some (cluster, ent) }] }

/-- COUNTER_WAKE (R143, R273): an armed wait whose condition holds, or that fired, sends its wake, once. -/
def execCounterWake (cluster n : Nat) (s : State) : Out :=
  .next (match (s.cluster cluster).waits[n]? with
    | none => s
    | some w =>
      if !w.armed || w.sent then s
      else
        let c := s.counter w.ctr
        let f := if w.fired.isSome then w.fired else if w.holds c then some (c.val, c.code) else none
        match f with
        | none => s
        | some (v, code) =>
          (s.modCluster cluster (fun x => { x with waits := x.waits.set n { w with sent := true } })).sendWake cluster w.ent
            (s.wakeMsg w v code))

end Sys2Proof.Machine
end

