-- ==== Sys2Proof/Machine/Launch.lean ====
section
/-! DEFINITION. The launch of a context (02_activations R43, R44, Table 2.8; 15_isolation R285, R291; 16 R312, R318; 17
R322): what step 1 validates, and steps 2 to 5. -/

namespace Sys2Proof.Machine

/-! ## The block (R44) -/

/-- The clusters of a block's core set. -/
def setClusters (b : LaunchBlock) : List Nat := (List.range 512).filter (fun k => b.coreSet.getLsbD (clusterCore k 0))
/-- Whether the core set is a union of whole clusters (R285). -/
def wholeClusters (b : LaunchBlock) : Bool :=
  (List.range 512).all (fun k => (List.range 16).all (fun m =>
    b.coreSet.getLsbD (clusterCore k m) == b.coreSet.getLsbD (clusterCore k 0)))
/-- The cores of a block's core set. -/
def setCores (b : LaunchBlock) : List Nat := (setClusters b).flatMap (fun k => (List.range 16).map (clusterCore k))

/-- Entry `ch` of the all-core image. -/
def hteAllOf (b : LaunchBlock) (ch : Nat) : Hte := Sparse.get 0 b.hteAll ch
/-- Entry `ch` of the supervisor core's image. -/
def hteSupOf (b : LaunchBlock) (ch : Nat) : Hte := Sparse.get 0 b.hteSup ch
/-- Entry `ch` of the merged table (R44). -/
def hteMerged (b : LaunchBlock) (ch : Nat) : Hte := if Hte.v (hteSupOf b ch) then hteSupOf b ch else hteAllOf b ch
/-- R22 on both images and the merged table, and the supervisor's channel 1 (R312). -/
def htesOk (b : LaunchBlock) : Bool :=
  (List.range 64).all (fun ch => Hte.ok ch (hteAllOf b ch) && Hte.ok ch (hteSupOf b ch) && Hte.ok ch (hteMerged b ch)) &&
  Hte.v (hteMerged b 1) && !Hte.cls (hteMerged b 1)
/-- A table image as handler-table entries. -/
def hteTable (f : Nat → Hte) : List (Nat × BitVec 128) :=
  (List.range 64).foldl (fun t ch => Sparse.set 0 t ch (f ch)) []

/-! ## Step 1: what the launch reads (R44) -/

/-- A byte of HBM as step 1 reads it: the latest preload entry that supplies it, else HBM as it stands. -/
def State.launchByte (s : State) (b : LaunchBlock) (pa : Nat) : Byte :=
  match b.preload.reverse.find? (fun e => decide (e.2.1 ≤ pa) && decide (pa < e.2.1 + e.2.2)) with
  | some e => s.byte (hostKey (e.1 + (pa - e.2.1)))
  | none => s.byte pa
/-- The descriptors of the current directory buffer as step 1 reads them (R291). -/
def State.launchDir (s : State) (b : LaunchBlock) : List Desc :=
  (List.range (s.dirN b.ctx)).map (fun i => descAt (s.launchByte b) (s.dirBase b.ctx + 32 * i))

/-- Whether descriptors ascend and do not overlap (R291). -/
def ascending : List Desc → Bool
  | d :: e :: ds => decide (d.limit ≤ e.vbase) && decide (d.vbase < e.vbase) && ascending (e :: ds)
  | _ => true
/-- Whether a descriptor's backing lies where it may (R291, R322). -/
def State.backingOk (s : State) (k : Nat) (d : Desc) : Bool :=
  let lo := d.pa d.vbase
  let hi := lo + 256 * d.size
  if lo < hbmEnd then decide (s.phLo k ≤ lo) && decide (hi ≤ s.phHi k) else decide (0x010000000000 ≤ lo)
/-- Whether [PHLO, PHHI) meets that of no other valid entry (R291). -/
def State.phAlone (s : State) (k : Nat) : Bool :=
  (List.range 64).all (fun j => decide (j = k) || !s.ctxValid j || decide (s.phHi k ≤ s.phLo j) || decide (s.phHi j ≤ s.phLo k) ||
    decide (s.phHi k ≤ s.phLo k) || decide (s.phHi j ≤ s.phLo j))
/-- The context-table entry and the directory (R289, R291, R322). -/
def State.dirOk (s : State) (b : LaunchBlock) (ds : List Desc) : Bool :=
  let k := b.ctx
  s.ctxValid k && decide (1 ≤ s.dirN k) && decide (s.dirN k ≤ 65536) && ascending ds && s.phAlone k &&
  ds.all (fun d => d.valid && decide (d.ctx = k) && s.backingOk k d) &&
  ds.any (fun d => decide (d.vbase = b.prog) && d.has (permR ||| permX))

/-- Whether a preload entry lies in the context's backing or in a directory buffer (Table 2.8, R291). -/
def State.preloadOk (s : State) (k : Nat) (e : Nat × Nat × Nat) : Bool :=
  let lo := e.2.1
  let hi := e.2.1 + e.2.2
  let inBuf (b : Nat) : Bool := decide (s.dirBuf k b ≤ lo) && decide (hi ≤ s.dirBuf k b + 2 ^ 21)
  decide (e.2.2 % 256 = 0) && ((decide (s.phLo k ≤ lo) && decide (hi ≤ s.phHi k)) || inBuf 0 || inBuf 1)

/-- The members of a group entry as step 1 reads them: the rectangle, or the bitmap in the program range (R43). -/
def State.launchMembers (s : State) (b : LaunchBlock) (prog : Desc) (g : BitVec 128) : List Nat :=
  if Group.rc g then Group.rect g
  else (List.range 8192).filter (fun c => (s.launchByte b (prog.pa (prog.vbase + Group.map g) + c / 8)).getLsbD (c % 8))
/-- Whether a valid group entry may be launched (R43). A bitmap without members and MCNT = 0 agree, so it is accepted, though
Table 2.7 lets MCNT run from 1: R43 lists no refusal for it (log 101). -/
def State.groupOk (s : State) (b : LaunchBlock) (prog : Desc) (g : BitVec 128) : Bool :=
  (if Group.rc g then decide (Group.y0 g + Group.ht g ≤ 31) && decide (Group.x0 g + Group.wd g ≤ 31)
    else decide (Group.map g % 1024 = 0) && decide (Group.map g + 1024 ≤ 256 * prog.size)) &&
  decide (Group.mcnt g = (s.launchMembers b prog g).length) &&
  (s.launchMembers b prog g).all (fun c => b.coreSet.getLsbD c)
/-- The valid group entries of a block. -/
def validGroups (b : LaunchBlock) : List (BitVec 128) :=
  ((List.range 256).map (fun g => Sparse.get 0 b.groups g)).filter Group.v
/-- The group table (R43): every valid entry, and at most four groups for a core. -/
def State.groupsOk (s : State) (b : LaunchBlock) (prog : Desc) : Bool :=
  let gs := validGroups b
  let ms := gs.map (s.launchMembers b prog)
  gs.all (s.groupOk b prog) &&
  (decide (ms.length ≤ 4) || (setCores b).all (fun c => decide (ms.countP (fun m => m.contains c) ≤ 4)))

/-- Whether a counter entry's handle names a counter of the set (R139). -/
def counterEntryOk (b : LaunchBlock) (e : Word × Word × BitVec 8) : Bool :=
  decide (e.1.toNat / 2 ^ 17 = 1) && (setClusters b).contains (bits e.1 8 9)

/-- The die of an initial task, if its target is one (R44). -/
def State.taskDie (s : State) (b : LaunchBlock) (prog : Desc) (t : LaunchTask) : Option Nat :=
  let n := t.target.toNat
  if n < 8192 then (if b.coreSet.getLsbD n then some (coreDie n) else none)
  else if n / 65536 = 1 ∧ n % 65536 < 256 then
    let g := Sparse.get 0 b.groups (n % 256)
    if Group.v g then (s.launchMembers b prog g).head?.map coreDie else none
  else none

/-- The tasks in the banks of a die. -/
def State.dieTasks (s : State) (d : Nat) : Nat := ((List.range 16).map (fun n => (s.bank d n).tasks.length)).sum

/-- Step 1 of a launch but for "the context is in use" (Table 2.8). A die's tasks count with those of other contexts that
its banks hold, since the banks hold 65,536 in all (Table 1.6; log 102). -/
def State.launchOk (s : State) (b : LaunchBlock) : Bool :=
  let ds := s.launchDir b
  let prog := (ds.find? (fun d => decide (d.vbase = b.prog))).getD {}
  let dies := b.tasks.map (s.taskDie b prog)
  decide (b.ctx < 64) && partOk b.part && htesOk b && wholeClusters b && decide (b.sup < 8192) && b.coreSet.getLsbD b.sup &&
  (setCores b).all (fun c => decide ((s.core c).ctx = none) && !(s.core c).lost) &&
  s.dirOk b ds && b.preload.all (s.preloadOk b.ctx) && s.groupsOk b prog && b.counters.all (counterEntryOk b) &&
  dies.all Option.isSome && (List.range 8).all (fun d =>
    decide (dies.countP (fun x => decide (x = some d)) = 0) ||
    decide (dies.countP (fun x => decide (x = some d)) + s.dieTasks d ≤ 65536))

/-! ## Steps 2 to 5 -/

/-- Whether a memory key is a byte that step 2 zeroes: the pools of the set, but for the emergency areas (R317). -/
def zeroed (b : LaunchBlock) (key : Nat) : Bool :=
  keyIsPool key && b.coreSet.getLsbD (keyCore key) && decide ((key - 2 ^ 48) % 2 ^ 18 < emergencyOff)

/-- Copies one preload entry from host memory to HBM. -/
def State.preload (s : State) (e : Nat × Nat × Nat) : State :=
  let s1 := (s.dropCode ((List.range e.2.2).map (e.2.1 + ·))).setBytes ((List.range e.2.2).map (fun i => (e.2.1 + i, s.byte (hostKey (e.1 + i)))))
  { s1 with poison := s1.poison.filter (fun w => !(decide (e.2.1 ≤ w.1) && decide (w.1 < e.2.1 + e.2.2))) }

/-- A core of the set as steps 2 and 3 leave it. -/
def Core.launched (co : Core) (b : LaunchBlock) (c : Nat) : Core :=
  { co with
    ctx := some b.ctx, part := b.part, hte := hteTable (if c = b.sup then hteMerged b else hteAllOf b), slots := [], inbox := []
    seq := 0, last := [], selAge := 16, ages := [], order := [], room := [], spawns := [], resume := [], preempt := false
    quietSent := false, matq := [], gbars := [], gangFail := 0, deadMat := [], rtab := [], stallSince := none
    stallSent := false, used := [] }

/-- The context as steps 2 and 3 leave it. -/
def Ctx.launched (x : Ctx) (b : LaunchBlock) : Ctx :=
  { live := true, sup := b.sup, clusters := setClusters b, part := b.part, prog := b.prog, launches := x.launches + 1
    groups := (List.range 256).foldl (fun t g => Sparse.set 0 t g (Sparse.get 0 b.groups g)) []
    rings := x.rings, sweep := x.sweep }

/-- Whether another live context has cores on a die. -/
def State.shared (s : State) (k die : Nat) : Bool :=
  s.ctxs.any (fun e => decide (e.1 ≠ k) && e.2.live && e.2.clusters.any (fun cl => decide (cl / 64 = die)))

/-- Step 2. POS of a die's copy channels counts from the launch of the only context there (R174; log 20). -/
def State.launch2 (s : State) (b : LaunchBlock) : State :=
  let s1 := { s with mem := s.mem.filter (fun e => !zeroed b e.1), poison := s.poison.filter (fun e => !zeroed b e.1) }
  let s2 := b.preload.foldl State.preload s1
  (((setClusters b).map (· / 64)).eraseDups.filter (fun d => !s.shared b.ctx d)).foldl
    (fun t d => t.modDie d (fun x => { x with pos := [] })) s2

/-- Step 3. -/
def State.launch3 (s : State) (b : LaunchBlock) : State :=
  ((setCores b).foldl (fun t c => t.modCore c (fun co => co.launched b c)) s).modCtx b.ctx (fun x => x.launched b)

/-- Step 4: the counters, wait tables and gangs of the set's clusters start afresh. -/
def State.launch4 (s : State) (b : LaunchBlock) : State :=
  let cl := setClusters b
  let s1 := { s with
    counters := s.counters.filter (fun e => !cl.contains (e.1 / 256)), clusters := s.clusters.filter (fun e => !cl.contains e.1)
    gangs := s.gangs.filter (fun e => !cl.contains (coreCluster e.1)) }
  b.counters.foldl (fun t e => t.setCounter (e.1.toNat % 2 ^ 17) { val := e.2.1, code := e.2.2 }) s1

/-- An initial task enters the first bank of its die that has room, which step 1 has seen to, with the tasks of
other contexts counted in (R16, R44; log 102). -/
def State.placeTask (s : State) (b : LaunchBlock) (die : Nat) (t : LaunchTask) : State :=
  let n := ((List.range 16).find? (fun n => decide ((s.bank die n).tasks.length < 4096))).getD 15
  s.modBank die n (fun x => { x with
    tasks := x.tasks ++ [{ target := t.target, pc := t.pc, args := t.args, cnt := t.cnt, prio := t.prio, seq := x.nextSeq,
                           src := b.sup, ctx := b.ctx }]
    nextSeq := (x.nextSeq + 1) % 2 ^ 48 })

/-- Step 5. -/
def State.launch5 (s : State) (b : LaunchBlock) : State :=
  let prog := ((s.dir b.ctx).find? (fun d => decide (d.vbase = b.prog))).getD {}
  b.tasks.foldl (fun t x => match s.taskDie b prog x with
    | some die => t.placeTask b die x
    | none => t) s

/-- Steps 2 to 5 of a launch that step 1 accepts. -/
def State.applyLaunch (s : State) (b : LaunchBlock) : State := (((s.launch2 b).launch3 b).launch4 b).launch5 b

end Sys2Proof.Machine
end

