-- ==== Sys2Proof/Machine/Xmss.lean ====
section
/-! DEFINITION. Verifying a signature of XMSS-SHAKE256_20_256 (15_isolation R305, R307). The spec names the scheme and does not
write it out: this is the one of NIST SP 800-208 and RFC 8391 with n = 32, w = 16 and h = 20 (PRESUMED; log 114). -/

namespace Sys2Proof.Machine

/-- A number as `n` bytes, highest first. -/
def toByte (n v : Nat) : List Byte := (leBytes n v).reverse

/-- The keyed hash of the scheme with 32 bytes of output: 0 for F, 1 for H, 2 for the message, 3 for the pseudorandom function. -/
def xmssHash (pad : Nat) (key m : List Byte) : List Byte := (shakeBytes (toByte 32 pad ++ key ++ m)).take 32

/-- Two byte strings added. -/
def addBytes (a b : List Byte) : List Byte := List.zipWith (· ^^^ ·) a b

/-- A hash address: its type, its three words behind the type, and the last, which selects key or mask. -/
def xmssAdrs (type a b c last : Nat) : List Byte :=
  List.replicate 12 0 ++ toByte 4 type ++ toByte 4 a ++ toByte 4 b ++ toByte 4 c ++ toByte 4 last

/-- The hash of two nodes at an address of a type. -/
def nodeHash (seed : List Byte) (type a b c : Nat) (l r : List Byte) : List Byte :=
  let p (last : Nat) : List Byte := xmssHash 3 seed (xmssAdrs type a b c last)
  xmssHash 1 (p 0) (addBytes l (p 1) ++ addBytes r (p 2))

/-- `n` steps of chain `i` of one-time key `ots`, from step `j` on. -/
def chain (seed : List Byte) (ots i : Nat) : Nat → Nat → List Byte → List Byte
  | 0, _, x => x
  | n + 1, j, x =>
    let p (last : Nat) : List Byte := xmssHash 3 seed (xmssAdrs 0 ots i j last)
    chain seed ots i n (j + 1) (xmssHash 0 (p 0) (addBytes x (p 1)))

/-- The 67 digits of a message of 32 bytes: its own, then those of its checksum. -/
def chainDigits (m : List Byte) : List Nat :=
  let own := m.flatMap (fun b => [b.toNat / 16, b.toNat % 16])
  let sum := (own.map (15 - ·)).sum
  own ++ [sum / 256 % 16, sum / 16 % 16, sum % 16]

/-- The nodes of the next level of the tree over a one-time public key. -/
def pairUp (seed : List Byte) (leaf height : Nat) : Nat → List (List Byte) → List (List Byte)
  | i, l :: r :: ns => nodeHash seed 1 leaf height i l r :: pairUp seed leaf height (i + 1) ns
  | _, ns => ns

/-- The leaf that a one-time public key of 67 parts comes to: at most 7 levels. -/
def leafOf (seed : List Byte) (leaf : Nat) (parts : List (List Byte)) : List Byte :=
  ((List.range 7).foldl (fun ns k => pairUp seed leaf k 0 ns) parts).headD []

/-- The root that a leaf and the 20 nodes beside its path come to. -/
def rootOf (seed : List Byte) (leaf : Nat) (path : List (List Byte)) (node : List Byte) : List Byte :=
  path.zipIdx.foldl (fun x a =>
    let at' := leaf / 2 ^ (a.2 + 1)
    if leaf / 2 ^ a.2 % 2 = 0 then nodeHash seed 2 0 a.2 at' x a.1 else nodeHash seed 2 0 a.2 at' a.1 x) node

/-- Part `i` of the signature's parts of 32 bytes that begin at an offset. -/
def sigPart (sig : List Byte) (off i : Nat) : List Byte := (sig.drop (off + 32 * i)).take 32

/-- Whether `sig`, 2,820 bytes, is a signature of `m` under a public key, root and seed of 32 bytes each. -/
def xmssVerify (key m sig : List Byte) : Bool :=
  let root := key.take 32
  let seed := key.drop 32
  let leaf := leNat (sig.take 4).reverse
  let digest := xmssHash 2 (sigPart sig 4 0 ++ root ++ toByte 32 leaf) m
  let parts := (chainDigits digest).zipIdx.map (fun d => chain seed leaf d.2 (15 - d.1) d.1 (sigPart sig 36 d.2))
  let path := (List.range 20).map (sigPart sig 2180)
  decide (sig.length = 2820) && decide (key.length = 64) && decide (leaf < 2 ^ 20) &&
    decide (rootOf seed leaf path (leafOf seed leaf parts) = root)

end Sys2Proof.Machine
end

