-- ==== Sys2Proof/Machine/Host.lean ====
section
/-! DEFINITION. The host's side (17_host_fabric R321 to R326, R334; 15_isolation R305 to R307; 16 R320): commands with their
completions, register writes, power-on. -/

namespace Sys2Proof.Machine

/-! ## Commands (R324, R325) -/

/-- A command ends: its result bytes go to the result buffer as far as that reaches, and its completion entry is written. -/
def State.cmdEnd (s : State) (h : HostCmd) (status : Nat) (res : List Byte) : State :=
  let out := res.take h.resLen
  let s1 := s.setBytes (out.zipIdx.map (fun b => (hostKey (h.resAddr + b.2), b.1)))
  (s1.modMgmt (fun m => { m with cqh := m.cqh + 1, waiting := none })).entry (w64 (status % 65536 * 2 ^ 48 + h.tag.toNat)) (w64 out.length)

/-- Takes a command `i` of the agenda, which stands for an entry that the host has just put into the command ring with its
doorbell: commands are performed one at a time and in ring order, so it waits for one that has begun and for the entries that
stand in the ring; a command that has begun goes on (R324, R325; log 27). -/
def State.command (s : State) (i : Instr) (go : State → State) : State :=
  match s.mgmt.waiting with
  | some j => if j = i then go s else s
  | none => if s.mgmt.cqh = s.mgmt.cqt then go (s.modMgmt (fun m => { m with cqt := m.cqt + 1 })) else s

/-- A command whose result buffer is no host memory ends with STATUS 3 (R325). -/
def State.buffered (s : State) (h : HostCmd) (go : State) : State :=
  if !hostOk h.resAddr h.resLen then s.cmdEnd { h with resLen := 0 } 3 [] else go

/-- A command that has begun waits (R325). -/
def State.cmdWaits (s : State) (i : Instr) : State := s.modMgmt (fun m => { m with waiting := some i })

/-- The bytes of words. -/
def wordsBytes (ws : List Word) : List Byte := ws.flatMap (fun w => leBytes 8 w.toNat)

/-- Whether the device is brought up (R334). -/
def Mgmt.up (m : Mgmt) : Bool := m.measured && m.tested && m.devWritten && m.linksUp

/-- `launch` (R44, R325, R334, Table 2.8): a device that is not brought up refuses it before anything else. -/
def launchCmd (h : HostCmd) (b : LaunchBlock) (s : State) : State :=
  if !s.mgmt.up then s.cmdEnd h 5 []
  else s.buffered h (
    if (s.ctx b.ctx).live then s.cmdEnd h 4 (leBytes 8 1)
    else if !b.preload.all (fun e => hostOk e.1 e.2.2) then s.cmdEnd h 3 []
    else if !s.launchOk b then s.cmdEnd h 2 (leBytes 8 1)
    else (s.applyLaunch b).cmdEnd h 0 (leBytes 8 0))

/-- LAUNCH. -/
def execLaunch (h : HostCmd) (b : LaunchBlock) (s : State) : Out := .next (s.command (.launch h b) (launchCmd h b))

/-! ### `resync` (R320, Table 16.9) -/

/-- The tasks of a context in Quince. -/
def State.tasksOf (s : State) (k : Nat) : Nat :=
  (s.dies.map (fun d => (d.2.banks.map (fun b => b.2.tasks.countP (fun t => decide (t.ctx = k)))).sum)).sum
/-- The cores of a context. -/
def State.coresOf (s : State) (k : Nat) : List Core := (s.cores.filter (fun e => decide (e.2.ctx = some k))).map Prod.snd

/-- The context entry of the summary. -/
def State.resyncCtx (s : State) (k : Nat) : List Word :=
  let x := s.ctx k
  let cs := s.coresOf k
  let bad := s.counters.countP (fun e => x.clusters.contains (e.1 / 256) && decide (e.2.code ≠ 0))
  [w64 ((if x.live then 2 ^ 63 else 0) + x.sup % 8192 * 2 ^ 16 + k), w64 x.launches,
   w64 (16 * x.clusters.length + cs.countP Core.quiescent * 2 ^ 16 + cs.countP Core.preempt * 2 ^ 32),
   w64 (s.tasksOf k + (cs.map (fun c => c.inbox.length)).sum * 2 ^ 32), w64 bad, x.flagsNow.setWidth 64, x.oobaddr,
   w64 ((List.range 6).map (fun l => min 255 (x.ring l).recs.length * 2 ^ (8 * l))).sum]

/-- The die entry of the summary. -/
def State.resyncDie (s : State) (d : Nat) : List Word :=
  let x := s.die d
  (List.range 4).map (fun i => w64 ((List.range 4).map (fun j => (s.bank d (4 * i + j)).tasks.length * 2 ^ (16 * j))).sum) ++
  [w64 (x.jobs.length + x.misses.length * 2 ^ 16), w64 (x.spares.length + x.lostCores * 2 ^ 8)] ++
  (List.range 6).map (fun l => w64 (Sparse.get 0 x.fixed l % 2 ^ 32 + Sparse.get 0 x.unfixed l % 2 ^ 32 * 2 ^ 32)) ++
  [w64 (s.poison.countP (fun e => e.2 && decide (e.1 < hbmEnd) && decide (homeDie e.1 = d))), w64 x.repaired, 0, 0]

/-- The link entry of the summary. -/
def State.resyncLink (s : State) (n : Nat) : List Word :=
  if 63 ≤ n then [0, 0] else
    let l := s.link n
    [w64 (l.st * 2 ^ 60 + l.mask.toNat * 2 ^ 32 + l.kg.toNat), w64 (l.replays % 2 ^ 32 + l.authFails % 2 ^ 32 * 2 ^ 32)]

/-- The part number code and stepping (R326 record 1). -/
def State.partWord (s : State) : Word := (s.capBody 1).headD 0

/-- The resync summary (Table 16.9). -/
def State.resyncBytes (s : State) : List Byte :=
  wordsBytes ([0x4B585253, s.partWord, w64 s.cycle, s.mgmt.health.setWidth 64,
    w64 ((List.range 8).map (fun d => (s.die d).spares.length * 2 ^ (8 * d))).sum, 0, 0, 0] ++
    (List.range 64).flatMap s.resyncCtx ++ (List.range 8).flatMap s.resyncDie ++ (List.range 64).flatMap s.resyncLink)

/-- `resync` (R320): the summary; PRM is cleared. -/
def resyncCmd (h : HostCmd) (s : State) : State :=
  s.buffered h ((s.modMgmt (fun m => { m with health := m.health &&& ~~~hPRM })).cmdEnd h 0 s.resyncBytes)

/-- RESYNC. -/
def execResync (h : HostCmd) (s : State) : Out := .next (s.command (.resync h) (resyncCmd h))

/-! ### `attest` (R306, R307, Table 15.7) -/

/-- One XMSS leaf is used; the last one sets IDX (R307, Table 16.8). -/
def State.useLeaf (s : State) : State :=
  let s1 := s.modMgmt (fun m => { m with leaf := m.leaf + 1 })
  if s1.mgmt.leaf < 2 ^ 20 then s1 else s1.health hIDX

/-- A measured register. -/
def State.mrOf (s : State) (i : Nat) : BitVec 512 := Sparse.get 0 s.mgmt.mr i

/-- The signed part of the attestation record (Table 15.7). -/
def State.attestHead (s : State) (nonce : BitVec 256) : List Byte :=
  leBytes 8 0x4B584154 ++ leBytes 8 s.partWord.toNat ++ leBytes 32 nonce.toNat ++
  (List.range 8).flatMap (fun i => leBytes 64 (s.mrOf i).toNat) ++ leBytes 8 s.mgmt.leaf ++ padTo 64 Config.identityKey

/-- `attest` (R306): the next leaf index is stored before the signature is released (R307). -/
def attestCmd (h : HostCmd) (nonce : BitVec 256) (s : State) : State :=
  s.buffered h (
    if 2 ^ 20 ≤ s.mgmt.leaf then s.cmdEnd h 2 []
    else
      let r := s.attestHead nonce
      s.useLeaf.cmdEnd h 0 (r ++ padTo 2820 (Config.signature s.mgmt.leaf r)))

/-- ATTEST. -/
def execAttest (h : HostCmd) (nonce : BitVec 256) (s : State) : Out := .next (s.command (.attest h nonce) (attestCmd h nonce))

/-! ### The other commands -/

/-- `capread` (R326, Table 17.4). -/
def capreadCmd (h : HostCmd) (off : Nat) (s : State) : State :=
  s.buffered h (if off % 8 ≠ 0 then s.cmdEnd h 1 [] else s.cmdEnd h 0 ((wordsBytes s.capList).drop off))

/-- CAPREAD. -/
def execCapread (h : HostCmd) (off : Nat) (s : State) : Out := .next (s.command (.capread h off) (capreadCmd h off))

/-- `errlog` (R315, Table 17.4): pops the oldest records of a ring, as many as asked for and as fit the result buffer. -/
def errlogCmd (h : HostCmd) (level ctx most : Nat) (s : State) : State :=
  s.buffered h (
    if 5 < level ∨ (64 ≤ ctx ∧ ctx ≠ 0xFF) then s.cmdEnd h 1 []
    else
      let k := if ctx = 0xFF then none else some ctx
      let ring := match k with
        | some k => (s.ctx k).ring level
        | none => Sparse.get {} s.mgmt.rings level
      let n := min most (h.resLen / 64)
      (s.modRing k level (fun r => { r with recs := r.recs.drop n })).cmdEnd h 0
        ((ring.recs.take n).flatMap (fun r => wordsBytes ((List.range 8).map (fun i => r.getD i 0)))))

/-- ERRLOG. -/
def execErrlog (h : HostCmd) (level ctx most : Nat) (s : State) : Out :=
  .next (s.command (.errlog h level ctx most) (errlogCmd h level ctx most))

/-- Whether a reservation table is accepted (R283, Table 14.5). -/
def tableOk (t : List (BitVec 32)) : Bool :=
  decide (t.countP (fun e => e.getLsbD 31) ≤ 48) &&
  t.all (fun e => decide (e.extractLsb' 29 2 ≠ 3) && decide (e.extractLsb' 0 8 = 0))

/-- A reservation table as a link holds it. -/
def slotTable (table : List (BitVec 32)) : List (Nat × BitVec 32) := table.zipIdx.foldl (fun t e => Sparse.set 0 t e.2 e.1) []

/-- `reserve` (R283): the table takes effect at the next frame boundary. -/
def reserveCmd (h : HostCmd) (link : Nat) (table : List (BitVec 32)) (s : State) : State :=
  s.buffered h (
    if 63 ≤ link ∨ table.length ≠ 64 then s.cmdEnd h 1 []
    else if !tableOk table then s.cmdEnd h 2 []
    else (s.modLink link (fun l => { l with newResv := some (slotTable table) })).cmdEnd h 0 [])

/-- RESERVE. -/
def execReserve (h : HostCmd) (link : Nat) (table : List (BitVec 32)) (s : State) : Out :=
  .next (s.command (.reserve h link table) (reserveCmd h link table))

/-- `hbmscrub` (R314). -/
def hbmscrubCmd (h : HostCmd) (hours : Nat) (s : State) : State :=
  s.buffered h (
    if hours < 1 ∨ 48 < hours then s.cmdEnd h 2 []
    else (s.modMgmt (fun m => { m with hbmHours := hours })).cmdEnd h 0 [])

/-- HBMSCRUB. -/
def execHbmscrub (h : HostCmd) (hours : Nat) (s : State) : Out := .next (s.command (.hbmscrub h hours) (hbmscrubCmd h hours))

/-- `rekey` (R302): asks for a key change, which KEY_CHANGE_START begins when R303 allows it. -/
def rekeyCmd (h : HostCmd) (link : Nat) (s : State) : State :=
  s.buffered h (
    if 63 ≤ link then s.cmdEnd h 1 []
    else if (s.link link).st = 0 then s.cmdEnd h 2 []
    else (s.modLink link (fun l => { l with rekey := true })).cmdEnd h 0 [])

/-- REKEY. -/
def execRekey (h : HostCmd) (link : Nat) (s : State) : Out := .next (s.command (.rekey h link) (rekeyCmd h link))

/-- `inject` (R325): the message is accepted, or discarded under R23, before the command completes; while the core has no
room for it the command waits. -/
def injectCmd (h : HostCmd) (core chan : Nat) (cls : Bool) (ctx : Nat) (words : List Word) (s : State) : State :=
  s.buffered h (
    if 7 < words.length ∨ 8192 ≤ core ∨ 64 ≤ chan then s.cmdEnd h 1 []
    else if (s.core core).ctx ≠ some ctx then s.cmdEnd h 2 []
    else
      let m : Msg := { dst := BitVec.ofNat 13 core, chan := BitVec.ofNat 6 chan, cls := cls, ctx := BitVec.ofNat 8 ctx,
                       src := BitVec.ofNat 13 core, mid := s.mgmt.mid, host := true, body := words }
      let r := s.arriveMsg core m
      if r.2 then (r.1.modMgmt (fun m => { m with mid := m.mid + 1 })).cmdEnd h 0 []
      else r.1.cmdWaits (.inject h core chan cls ctx words))

/-- INJECT. -/
def execInject (h : HostCmd) (core chan : Nat) (cls : Bool) (ctx : Nat) (words : List Word) (s : State) : Out :=
  .next (s.command (.inject h core chan cls ctx words) (injectCmd h core chan cls ctx words))

/-! ### `endctx` (R325) -/

/-- Whether an injection entry or something on its way is a job or an index request of the cores of a context. -/
def InjOp.unitWork (op : InjOp) (k : Nat) : Bool :=
  match op with
  | .job j => decide (j.ctx = k)
  | .index r _ => decide (r.ctx = k)
  | _ => false

/-- Whether every core of a context is quiescent and every released job, matrix operation and index request of it has
completed (R325 step 2). -/
def State.ctxIdle (s : State) (k : Nat) : Bool :=
  (s.coresOf k).all (fun c => c.quiescent && decide (c.matq = []) && !c.inj.any (fun e => e.op.unitWork k)) &&
  !s.flight.any (fun f => f.op.unitWork k) &&
  s.dies.all (fun d => !d.2.jobs.any (fun j => decide (j.ctx = k)) && !d.2.works.any (fun r => decide (r.ctx = k))) &&
  s.gangs.all (fun g => decide (s.coreCtx g.1 ≠ k) || decide (g.2.step = none))

/-- Applies `f` to every core of a context. -/
def State.eachCore (s : State) (k : Nat) (f : Core → Core) : State :=
  s.cores.foldl (fun t e => if e.2.ctx = some k then t.modCore e.1 f else t) s

/-- The tasks of a context leave a die's banks. -/
def Die.dropTasks (d : Die) (k : Nat) : Die :=
  { d with banks := d.banks.map (fun b => (b.1, { b.2 with tasks := b.2.tasks.filter (fun t => decide (t.ctx ≠ k)) })) }

/-- Step 3 of `endctx`: tasks and inboxes are discarded, holds released, the context is free. -/
def State.freeCtx (s : State) (k : Nat) : State :=
  let s1 := s.eachCore k (fun co => { co with ctx := none, inbox := [], preempt := false, quietSent := false })
  let dies := s1.dies.map (fun d => (d.1, d.2.dropTasks k))
  let ixs := s1.indexes.map (fun x => if x.ctx = k then { x with holds := [] } else x)
  { s1 with dies := dies, indexes := ixs }.modCtx k (fun x => { x with live := false, ending := false })

/-- Step 1 of `endctx`: every core of the context is pre-empted. -/
def State.startEnd (s : State) (k : Nat) : State :=
  (s.eachCore k (fun co => { co with preempt := true })).modCtx k (fun x => { x with ending := true })

/-- `endctx` (R325): it starts, and taken again it completes once the context is idle. A context not in use is done at
once. -/
def endctxCmd (h : HostCmd) (ctx : Nat) (s : State) : State :=
  s.buffered h (
    if 64 ≤ ctx then s.cmdEnd h 1 []
    else if !(s.ctx ctx).live then s.cmdEnd h 0 []
    else if !(s.ctx ctx).ending then (s.startEnd ctx).cmdWaits (.endctx h ctx)
    else if s.ctxIdle ctx then (s.freeCtx ctx).cmdEnd h 0 []
    else s.cmdWaits (.endctx h ctx))

/-- ENDCTX. -/
def execEndctx (h : HostCmd) (ctx : Nat) (s : State) : Out := .next (s.command (.endctx h ctx) (endctxCmd h ctx))

/-! ### The command ring (R324, R325) -/

/-- What a command that has been taken from the ring does. -/
def ringCmd (i : Instr) (s : State) : State :=
  match i with
  | .launch h b => launchCmd h b s
  | .resync h => resyncCmd h s
  | .attest h nonce => attestCmd h nonce s
  | .capread h off => capreadCmd h off s
  | .errlog h level ctx most => errlogCmd h level ctx most s
  | .reserve h link table => reserveCmd h link table s
  | .hbmscrub h hours => hbmscrubCmd h hours s
  | .rekey h link => rekeyCmd h link s
  | .inject h core chan cls ctx words => injectCmd h core chan cls ctx words s
  | .endctx h ctx => endctxCmd h ctx s
  | _ => s

/-- The 64-bit words that bytes hold. -/
def bytesWords (bs : List Byte) : List Word := (List.range (bs.length / 8)).map (fun i => w64 (leNat ((bs.drop (8 * i)).take 8)))

/-- The command that an entry's words hold, or the STATUS with which it ends: 1 for an unknown CODE or an operand block of the
wrong length, 3 for an operand block that is no host memory, before these 5 for a `launch` to a device that is not brought up (Table
17.4, R334; log 27). -/
def State.entryCmd (s : State) (w : Nat → Word) : Except Nat Instr :=
  let h : HostCmd := { tag := (w 0).setWidth 32, resAddr := (w 3).toNat, resLen := (w 4).toNat }
  let addr := (w 1).toNat
  let len := (w 2).toNat
  let bs := s.bytes (hostKey addr) len
  let operand (ok : Bool) (i : Instr) : Except Nat Instr :=
    if !ok then .error 1 else if !hostOk addr len then .error 3 else .ok i
  match bits (w 0) 56 8 with
  | 1 => if !s.mgmt.up then .error 5 else operand true (.launch h (Config.launchBlock bs))
  | 2 => .ok (.resync h)
  | 3 => operand (decide (len = 32)) (.attest h (BitVec.ofNat 256 (leNat bs)))
  | 4 => .ok (.capread h (w 5).toNat)
  | 5 => .ok (.errlog h (bits (w 5) 0 8) (bits (w 5) 8 8) (bits (w 5) 16 16))
  | 6 => operand (decide (len = 256))
      (.reserve h (w 5).toNat ((List.range 64).map (fun i => BitVec.ofNat 32 (leNat ((bs.drop (4 * i)).take 4)))))
  | 7 => .ok (.hbmscrub h (w 5).toNat)
  | 8 => .ok (.rekey h (w 5).toNat)
  | 9 => operand (decide (len % 8 = 0) && decide (len ≤ 56))
      (.inject h (bits (w 5) 0 13) (bits (w 5) 13 6) ((w 5).getLsbD 19) (bits (w 5) 20 8) (bytesWords bs))
  | 10 => .ok (.endctx h (w 5).toNat)
  | _ => .error 1

/-- The device performs the command at the head of the ring, or goes on with one that waits (R324). -/
def ringStep (s : State) : State :=
  match s.mgmt.waiting with
  | some i => ringCmd i s
  | none =>
    let at_ := s.mgmt.cqb.toNat + 64 * (s.mgmt.cqh.toNat % s.mgmt.cqn.toNat)
    if s.mgmt.cqh = s.mgmt.cqt ∨ s.mgmt.cqn = 0 ∨ !hostOk at_ 64 then s
    else
      let w (i : Nat) : Word := w64 (leNat (s.bytes (hostKey (at_ + 8 * i)) 8))
      match s.entryCmd w with
      | .ok i => ringCmd i s
      | .error st => s.cmdEnd { tag := (w 0).setWidth 32 } st []

/-! ## Registers (R321, Table 17.2) -/

/-- DEVNUM_WRITE (R334): DEVNUM is written once after reset. -/
def execDevnumWrite (n : BitVec 15) (s : State) : Out :=
  .next (if s.mgmt.devWritten then s else s.modMgmt (fun m => { m with devnum := n, devWritten := true }))

/-- The bits of a context-table word that Table 15.3 names. -/
def ctxWordMask (w : Nat) : Word :=
  match w with
  | 0 => 0xC000FFFFFFFFFFFF
  | 2 => 0x1FFFF
  | 1 | 3 | 4 | 5 => 0xFFFFFFFFFFFF
  | _ => 0

/-- A write to a command register (Table 17.3); writing RQH lets held entries go. -/
def State.cmdReg (s : State) (off : Nat) (v : Word) : State :=
  match off with
  | 0 => s.modMgmt (fun m => { m with cqb := v &&& ~~~0xFFF })
  | 8 => if (List.range 9).any (fun i => decide (v.toNat = 2 ^ (i + 4))) then (s.modMgmt (fun m => { m with cqn := v })).drain else s
  | 16 => s.modMgmt (fun m => { m with cqt := v })
  | 32 => s.modMgmt (fun m => { m with rqb := v &&& ~~~0xFFF })
  | 48 => (s.modMgmt (fun m => { m with rqh := v })).drain
  | _ => s

/-- The routing word that a write leaves (R328): a group entry has V, VIA, LINK, a local entry V and the port. -/
def routeMask (i : Nat) : Word := if i < 1024 then 0xC00000000000001F else 0x800000000000001F

/-- HOST_REGISTER_WRITE (R291, R321, R324, R328): reserved bits stay zero, read-only registers keep their value, and the
context table is written only while the context is not in use. -/
def execHostRegisterWrite (off : Nat) (v : Word) (s : State) : Out :=
  if off % 8 ≠ 0 then .fault .noRegister
  else if off < 0x10000 then .next s
  else if off < 0x11000 then
    .next (let k := (off - 0x10000) / 64
      let w := (off - 0x10000) / 8 % 8
      if (s.ctx k).live then s
      else s.modMgmt (fun m => { m with ctxTab := Sparse.set 0 m.ctxTab (8 * k + w) (v &&& ctxWordMask w) }))
  else if 0x20000 ≤ off ∧ off < 0x20040 then .next (s.cmdReg (off - 0x20000) v)
  else if 0x30000 ≤ off ∧ off < 0x30000 + 8448 then
    .next (let i := (off - 0x30000) / 8
      s.modMgmt (fun m => { m with route := Sparse.set 0 m.route i (v &&& routeMask i) }))
  else if 0x40000 ≤ off ∧ off < 0x40800 then
    .next (let i := (off - 0x40000) / 8
      let mask : Word := if i % 2 = 0 then 0x8000000000007FFF else 0xFFF0000000000
      s.modMgmt (fun m => { m with apert := Sparse.set 0 m.apert i (v &&& mask) }))
  else if off = 0x50000 then
    .next (if s.mgmt.devWritten then s
      else s.modMgmt (fun m => { m with devnum := v.setWidth 15, devWritten := true }))
  else if off = 0x50008 ∨ (0x60000 ≤ off ∧ off < 0x64000) then .next s
  else .fault .noRegister

/-! ## Power-on (R305, R334) -/

/-- MR := SHAKE256(MR ‖ SHAKE256(image)) (R305). -/
def extend (mr : BitVec 512) (image : List Byte) : BitVec 512 :=
  shake256 (leBytes 64 mr.toNat ++ leBytes 64 (shake256 image).toNat)

/-- The register that the `n`-th image extends: the controller firmware MR0, the die firmware of die 0 to 7 MR1, the SerDes and
optics firmware MR2, the configuration image MR3 (R305). -/
def imageMr (n : Nat) : Nat := if n = 0 then 0 else if n ≤ 8 then 1 else if n = 9 then 2 else 3

/-- Whether an image verifies against the vendor key (R305; log 128: for all eleven images). -/
def Image.verifies (i : Image) : Bool := xmssVerify Config.vendorKey i.bytes i.sig

/-- The eleven images are verified and measured in order; the first that is missing or whose signature fails stops the bring-up
(R305). -/
def measure : Nat → List Image → Mgmt → Mgmt
  | n, [], m => if n = 11 then { m with measured := true, tested := true } else { m with badImage := some n }
  | n, i :: is, m =>
    if n = 11 then { m with measured := true, tested := true }
    else if !Image.verifies i then { m with badImage := some n }
    else measure (n + 1) is { m with mr := Sparse.modify 0 m.mr (imageMr n) (fun r => extend r i.bytes) }

/-- Whether a host link may have trained so (R321). -/
def hostLinkOk (l : Nat × Nat) : Bool := [4, 8, 16].contains l.1 && [32, 64, 128].contains l.2

/-- What the configuration image sets, as far as it is in the ranges that the spec gives: 1 to 48 hours (R314), 5 to 500 µs at
1.75 GHz (R330), the two host links' widths and rates (R321). -/
def Mgmt.configured (m : Mgmt) (c : DevConfig) : Mgmt :=
  { m with
    hbmHours := if 1 ≤ c.hbmHours ∧ c.hbmHours ≤ 48 then c.hbmHours else 6
    e2e := if 8750 ≤ c.e2e ∧ c.e2e ≤ 875000 then c.e2e else 35000
    hostLinks := if c.hostLinks.length = 2 ∧ c.hostLinks.all hostLinkOk then c.hostLinks else [(16, 128), (16, 128)] }

/-- The links with the reservations that the configuration image gives them (R305, R283). -/
def configLinks (c : DevConfig) : List (Nat × Link) :=
  (c.resv.filter (fun e => decide (e.1 < 63) && decide (e.2.length = 64) && tableOk e.2)).foldl (fun ls e =>
    Sparse.modify {} ls e.1 (fun l => { l with resv := slotTable e.2 })) []

/-- POWER_ON (R305, R334 steps 1 and 2): the machine at its reset state, host memory and the XMSS leaf index as they were,
the firmware measured. The identity stays exhausted once it is (R307). -/
def execPowerOn (images : Firmware) (s : State) : Out :=
  .next (
    let m := measure 0 images.images { leaf := s.mgmt.leaf, health := if s.mgmt.leaf < 2 ^ 20 then 0 else hIDX }
    { State.reset with
      agenda := s.agenda, tick := s.tick, mem := s.mem.filter (fun e => decide (paClass e.1 = .host) && !keyIsPool e.1)
      mgmt := if m.measured then m.configured images.config else m
      fab := if m.measured then { links := configLinks images.config } else {} })

end Sys2Proof.Machine
end

