-- ==== Sys2Proof/Machine/Parcel.lean ====
section
/-! DEFINITION. Parcels (09_isa_index_range_system R196 to R201; 15_isolation R298 to R301; 12 R249): making, posting,
status, freeing, and the path of a posted parcel. `ldp` and `stp` stand with the loads and stores. -/

namespace Sys2Proof.Machine

/-! ## Instructions -/

/-- `pmake` (R197, R298): the handle at issue, the marking at release. -/
def execPmake (u : Ctl) (d a : Reg) (ctr : BitVec 18) (s : State) : Out :=
  .next (s.issue (.pmake u d a ctr) u .scalar false fun sl =>
    let va := sl.getX a
    s.covered sl va 0 fun r =>
      if !r.pcl && !r.has (permP ||| permM) then s.trap sl .rangePerm va
      else if !r.pcl && !r.fit then s.trap sl .parcelState va
      else s.ctrArg sl ctr (s.pushDir (.pmake u d a ctr) u sl (.dir (.make va.toNat) ctr.toNat)
        (some { d := d, x := w64 r.vbase })))

/-- Whether a handle is the vbase of a parcel in state normal or returned (R199). -/
def State.postable (s : State) (k : Nat) (h : Word) : Bool :=
  match s.descOf k h.toNat with
  | none => false
  | some d => decide (d.vbase = h.toNat) && d.pcl && (decide (d.st = 0) || decide (d.st = 5))

/-- `post` (R199, R249): a `.sys` release that stands alone; from here on the activation's accesses to the parcel trap. -/
def execPost (u : Ctl) (a b : Reg) (ch : BitVec 6) (ctr : BitVec 18) (s : State) : Out :=
  .next (s.issue (.post u a b ch ctr) u .scalar false fun sl =>
    let h := sl.getX a
    let dest := sl.getX b
    if !s.postable (s.coreCtx s.cur.1) h then s.trap sl .parcelState h
    else if bits dest 28 36 ≠ 0 then s.trap sl .msgDest dest
    else s.ctrArg sl ctr
      (let r := s.pushStore sl (.dir (.post h.toNat dest ch) ctr.toNat) true 4
       r.1.retire (.post u a b ch ctr) u none { r.2 with posted := r.2.posted ++ [h.toNat] }))

/-- `pstat` (R201): walker 0 of the supervisor core's die is asked; PSTAT_ARRIVAL answers. -/
def execPstat (u : Ctl) (d a : Reg) (s : State) : Out :=
  .next (s.issue (.pstat u d a) u .scalar false fun sl =>
    s.launch (.pstat u d a) u sl d (.pstat (sl.getX a).toNat) (sl.getX a).toNat 0xFFFF false [])

/-- `pfree` (R201): W, and M unless the range is a parcel. -/
def execPfree (u : Ctl) (a : Reg) (ctr : BitVec 18) (s : State) : Out :=
  .next (s.issue (.pfree u a ctr) u .scalar false fun sl =>
    let va := sl.getX a
    s.covered sl va permW fun r =>
      if !r.pcl && !r.has permM then s.trap sl .rangePerm va
      else s.ctrArg sl ctr (s.pushDir (.pfree u a ctr) u sl (.dir (.free va.toNat) ctr.toNat) none))

/-- The word of `pstat` (R201). -/
def State.pstatWord (s : State) (k va : Nat) : Word :=
  match s.descOf k va with
  | none => 0
  | some d => probeWord d va false ||| w64 (d.size * 2 ^ 20)

/-- PSTAT_ARRIVAL (R201): the request reaches walker 0, which reads the directory. -/
def execPstatArrival (core slot id : Nat) (s : State) : Out :=
  .next (match (s.slot core slot).bind (fun sl => sl.loads.find? (fun l => decide (l.id = id))) with
    | some l => match l.op with
      | .pstat va =>
        if l.res.isSome then s
        else s.setRes core slot id (.ready (l.value (s.pstatWord (s.coreCtx core) va)))
      | _ => s
    | none => s)

/-! ## The sending side (Table 9.11) -/

/-- Whether a job of the context still names a range (R199). -/
def State.jobsOn (s : State) (k : Nat) (d : Desc) : Bool :=
  s.dies.any (fun e => e.2.jobs.any (fun j => decide (j.ctx = k) && j.footprint.any (fun f =>
    decide (f.1 = 0) && decide (f.2.1 < d.limit) && decide (d.vbase < f.2.2.1))))

/-- The destination device of a transfer (R199). -/
def Xfer.dev (x : Xfer) : Nat := bits x.dest 13 15

/-- Puts the transfer at place `n` back. -/
def State.modXfer (s : State) (n : Nat) (f : Xfer → Xfer) : State := { s with xfers := s.xfers.modify n f }

/-- The stream cells of a parcel that leaves for another device, one for each 96 bytes of its resident extent (Tables 14.3,
17.6). -/
def State.streamParcel (s : State) (x : Xfer) (d : Desc) (dev : Nat) : State :=
  if dev = s.mgmt.devnum.toNat then s
  else (List.range ((256 * (d.rhi - d.rlo) + 95) / 96)).foldl (fun t i =>
    let c := t.reqCell x.core 0 dev (d.vbase + 256 * d.rlo + 96 * i) false
    t.sendCell dev { c with cell := { c.cell with kind := 3, vc := 2 } }) s

/-- PARCEL_PURGE_COMPLETE (R199 step 1, R248, R249): unpinned, its jobs done, every translated access performed; the parcel's
own state speaks now, for the activation that posted it too. -/
def execParcelPurgeComplete (n : Nat) (s : State) : Out :=
  .next (match s.xfers[n]? with
    | none => s
    | some x => match s.descOf x.ctx x.vbase with
      | none => s
      | some d =>
        if x.inTransit ∨ s.pinned x.ctx d ∨ s.jobsOn x.ctx d ∨ s.quiet x.ctx d = false then s
        else (((s.unmark x.core x.vbase).dirSwap x.ctx [d.vbase] [{ d with st := 3 }]).modXfer n (fun x =>
          { x with inTransit := true })).streamParcel x d x.dev)

/-- The parcel that a transfer streams: its resident extent, poison with it (R199, R300). -/
def State.parcelOut (s : State) (x : Xfer) : ParcelIn :=
  let d := (s.descOf x.ctx x.vbase).getD {}
  let lo := 256 * d.rlo
  let n := 256 * (d.rhi - d.rlo)
  let base := d.pa d.vbase
  { srcDev := s.mgmt.devnum, srcCore := x.core, srcCtx := x.ctx, core := bits x.dest 0 13, chan := x.chan.toNat,
    dstWord := x.dest, oldHandle := x.vbase, units := d.size, perm := d.perm, fmt := d.fmt, geo := d.geo, lo := lo,
    body := s.bytes (base + lo) n,
    poison := ((List.range (n / 8)).map (fun i => lo + 8 * i)).filter (fun o => s.poisoned (base + o)) }

/-- A transfer ends: step 3, the sender's descriptor is deleted, or step 3', the range is returned (Table 9.11). -/
def State.endXfer (s : State) (n : Nat) (x : Xfer) (ok : Bool) : State :=
  let s1 := { s with xfers := s.xfers.eraseIdx n }
  match s.descOf x.ctx x.vbase with
  | none => s1
  | some d =>
    if ok then (s1.dirSwap x.ctx [d.vbase] []).complete (s.dirCounter x.ctx x.ctr) 0
    else (s1.dirSwap x.ctx [d.vbase] [{ d with st := 5 }]).complete (s.dirCounter x.ctx x.ctr) 0xB8

/-- PARCEL_ACCEPTED (R199 step 3): another device accepts when it will; this one when it has placed the parcel. -/
def execParcelAccepted (n : Nat) (s : State) : Out :=
  .next (match s.xfers[n]? with
    | some x =>
      if x.inTransit && (decide (x.dev ≠ s.mgmt.devnum.toNat) || decide (x.answer = 1)) then s.endXfer n x true else s
    | none => s)

/-- PARCEL_RETURNED (R199 step 3', R300): the destination refuses, or is lost. -/
def execParcelReturned (n : Nat) (s : State) : Out :=
  .next (match s.xfers[n]? with
    | some x =>
      if x.inTransit && (decide (x.dev ≠ s.mgmt.devnum.toNat) || decide (x.answer = 2)) then s.endXfer n x false else s
    | none => s)

/-! ## The receiving side (R200, R301) -/

/-- The lowest address from `a` on at which `n` bytes are covered by no descriptor of an ascending list. -/
def lowestFree (n : Nat) : Nat → List Desc → Nat
  | a, [] => a
  | a, d :: ds => if d.limit ≤ a then lowestFree n a ds else if a + n ≤ d.vbase then a else lowestFree n d.limit ds

/-- The address at which this device accepts a parcel, or none when it refuses (R200, R301). -/
def State.placeFor (s : State) (p : ParcelIn) : Option Nat :=
  match (s.core p.core).ctx with
  | none => none
  | some k =>
    let h := s.hte p.core p.chan
    let base := (s.ctx k).parcBase.toNat
    let size := (s.ctx k).parcSize.toNat
    let n := 256 * p.units
    let a := lowestFree n base (s.dir k)
    if p.core < 8192 ∧ h.v ∧ h.cls = false ∧ ((h.gw ∧ h.ctxs.getLsbD p.srcCtx) ∨ k = p.srcCtx) ∧ s.dirN k < 65536 ∧
        size ≠ 0 ∧ s.phLo k ≤ s.arrPa k ∧ s.arrPa k + size ≤ s.phHi k ∧ a + n ≤ base + size then some a
    else none

/-- Places an accepted parcel at an address: its range is arriving (R200, R301). -/
def State.place (s : State) (p : ParcelIn) (a : Nat) : State :=
  let k := s.coreCtx p.core
  let d : Desc := { vbase := a, perm := p.perm, size := p.units, ctx := k, st := 4, pcl := true, fmt := p.fmt,
                    geo := p.geo, off := offFor a (s.arrPa k + (a - (s.ctx k).parcBase.toNat)), rhi := p.units, rlo := 0 }
  let x : Arrival := { ctx := k, vbase := a, p := p }
  { s.dirPut k [] [d] with arrivals := s.arrivals ++ [x] }

/-- PARCEL_PLACEMENT (R200): a parcel from another device, or one that this device streams to itself. -/
def execParcelPlacement (p : ParcelIn) (s : State) : Out :=
  .next (if p.srcDev ≠ s.mgmt.devnum then
      (match s.placeFor p with
       | some a => s.place p a
       | none => s)
    else match s.xfers.findIdx? (fun x => x.inTransit && decide (x.answer = 0) && decide (x.dev = s.mgmt.devnum.toNat) &&
        decide (s.parcelOut x = p)) with
      | none => s
      | some n => match s.placeFor p with
        | some a => (s.place p a).modXfer n (fun x => { x with answer := 1 })
        | none => s.modXfer n (fun x => { x with answer := 2 }))

/-- The bytes of an arrived parcel, at its backing (R300: poison arrives as poison). -/
def State.landParcel (s : State) (base : Nat) (p : ParcelIn) : State :=
  let s1 := (s.dropCode ((List.range p.body.length).map (base + p.lo + ·))).setBytes (p.body.zipIdx.map (fun b => (base + p.lo + b.2, b.1)))
  (List.range (p.body.length / 8)).foldl (fun t i =>
    t.setPoison (base + p.lo + 8 * i) (p.poison.contains (p.lo + 8 * i))) s1

/-- The arrival message (R200). -/
def Arrival.msg (x : Arrival) : Msg :=
  { dst := BitVec.ofNat 13 x.p.core, chan := BitVec.ofNat 6 x.p.chan, ctx := BitVec.ofNat 8 x.ctx,
    src := BitVec.ofNat 13 x.p.srcCore,
    body := [w64 x.vbase, w64 (256 * x.p.units), w64 x.p.oldHandle,
      (x.p.dstWord &&& ~~~(0x7FFF#64 <<< 13)) ||| (x.p.srcDev.setWidth 64 <<< 13)] }

/-- PARCEL_ARRIVAL_COMPLETE (R200): the last byte is written, the range is normal, the message leaves. -/
def execParcelArrivalComplete (n : Nat) (s : State) : Out :=
  .next (match s.arrivals[n]? with
    | none => s
    | some x =>
      let s1 := { s with arrivals := s.arrivals.eraseIdx n }
      match s.descOf x.ctx x.vbase with
      | none => s1
      | some d =>
        ((s1.landParcel (d.pa d.vbase) x.p).dirSwap x.ctx [d.vbase] [{ d with st := 0 }]).unitSend
          (coreDie (s.ctx x.ctx).sup) unitWalker x.msg)

end Sys2Proof.Machine
end

