-- ==== Sys2Proof/Machine/Fabric.lean ====
section
/-! DEFINITION. The fabric (14_progress R279 to R284; 15_isolation R302 to R304; 17_host_fabric R327 to R333): training, frame
slots, credit, cells received and acknowledged, keys, paths, wavelengths. -/

namespace Sys2Proof.Machine

/-! ## Links -/

/-- The receive buffer of a link direction in cells (Table 14.3). -/
def bufOf (link : Nat) : Nat := if link < 31 then 512 else 1024
/-- Whether a link carries cells. -/
def Link.up (l : Link) : Bool := decide (l.st = 2) || decide (l.st = 3)
/-- Whether a link number names a link (Table 16.9). -/
def isLink (n : Nat) : Bool := decide (n < 63)
/-- Adds to entry `i` of a list of four counts. -/
def addAt (l : List Nat) (i n : Nat) : List Nat := l.modify i (· + n)
/-- Takes 1 from entry `i` of a list of four counts. -/
def decAt (l : List Nat) (i : Nat) : List Nat := l.modify i (· - 1)

/-! ## Receive-buffer limits (R280, R281) -/

/-- The VCs in the order in which rounding leaves give them cells: most received first, the lower number at a tie. -/
def vcOrder (u : List Nat) : List Nat :=
  (List.range 4).foldl (fun o v =>
    o.filter (fun w => decide (u.getD v 0 ≤ u.getD w 0)) ++ v :: o.filter (fun w => decide (u.getD w 0 < u.getD v 0))) []

/-- The new limits of R280 for a buffer of `B` cells. -/
def newLimits (B : Nat) (u : List Nat) : List Nat :=
  let U := u.sum
  if U = 0 then List.replicate 4 (B / 4)
  else
    let base := (List.range 4).map (fun v => 2 + (B - 8) * u.getD v 0 / U)
    ((vcOrder u).take (B - base.sum)).foldl (fun l v => addAt l v 1) base

/-- What the receiver has promised: per VC, the larger of the limit and the cells held. -/
def promised (lim held : List Nat) : Nat := ((List.range 4).map (fun v => max (lim.getD v 0) (held.getD v 0))).sum

/-- The limit of one VC raised as far as cells are free and not promised to another (R281). -/
def raiseVc (B : Nat) (target held lim : List Nat) (v : Nat) : List Nat :=
  let others := promised lim held - max (lim.getD v 0) (held.getD v 0)
  lim.set v (max (lim.getD v 0) (min (target.getD v 0) (B - others)))

/-- The limits to announce: falling ones at once, rising ones as far as R281 allows, the lower VC first. -/
def announce (B : Nat) (target held lim : List Nat) : List Nat :=
  let fallen := (List.range 4).map (fun v => min (lim.getD v 0) (target.getD v 0))
  (List.range 4).foldl (raiseVc B target held) fallen

/-- The receiver announces what it can, with a control flit for each limit that changes (R281). -/
def Link.announced (l : Link) (link : Nat) : Link :=
  let new := announce (bufOf link) l.rxTarget l.rxHeld l.rxLimit
  { l with
    rxLimit := new
    flits := l.flits ++ ((List.range 4).filter (fun v => decide (new.getD v 0 ≠ l.rxLimit.getD v 0))).map (fun v =>
      .limit v (new.getD v 0)) }

/-- Whether a receiver's interval of 1,024 cycles has ended (R280). -/
def State.limitsDue (s : State) (link : Nat) : Bool :=
  isLink link && (s.link link).up && decide ((s.link link).rxSince + 1024 ≤ s.cycle)

/-- VC_LIMIT_RECOMPUTE (R280, R281). -/
def execVcLimitRecompute (link : Nat) (s : State) : Out :=
  .next (if s.limitsDue link then s.modLink link (fun l =>
      { l with rxTarget := newLimits (bufOf link) l.rxCount, rxCount := [0, 0, 0, 0], rxSince := s.cycle }.announced link)
    else s)

/-- Whether a control flit arrives whole on a link that is up: its CRC-16 and its GMAC are right (R327). -/
def State.flitOk (s : State) (link kind : Nat) (fields : List Nat) (f : FlitIn) : Bool :=
  isLink link && (s.link link).up && flitGood (s.rxKey link) kind fields f

/-- A control flit arrives: a whole one has its effect, and one that a link error has spoiled is asked for again (R281, R327;
log 127). -/
def State.takeFlit (s : State) (link kind : Nat) (fields : List Nat) (f : FlitIn) (go : State) : State :=
  if s.flitOk link kind fields f then go else if isLink link && (s.link link).up then s.modLink link Link.nak else s

/-- The control flits that a link error has lost, of those that no acknowledgement has covered. -/
def Link.lostFlits (l : Link) (tick : Nat) : List Flit :=
  (l.unsure.zipIdx.filter (fun f => Config.flitLost tick f.2)).map Prod.fst

/-- CREDIT_LIMIT_FLIT (R281): the sender applies an announced limit on receipt. -/
def execCreditLimitFlit (link vc : Nat) (limit : FlitIn) (s : State) : Out :=
  .next (s.takeFlit link 4 [vc] limit
    (if vc < 4 then s.modLink link (fun l => { l with limit := l.limit.set vc limit.val }) else s))

/-- FABRIC_CREDIT_RETURN (R279): a freed cell's credit lowers the count in flight. -/
def execFabricCreditReturn (link : Nat) (vc : FlitIn) (s : State) : Out :=
  .next (s.takeFlit link 3 [] vc
    (if vc.val < 4 then s.modLink link (fun l => { l with inFlight := decAt l.inFlight vc.val }) else s))

/-- A receiver frees a cell: one credit goes back to its VC (R279). -/
def Link.creditBack (l : Link) (vc : Nat) : Link := { l with flits := l.flits ++ [.credit vc] }

/-- A cell leaves the receive buffer of the link that brought it, which may raise limits (R279, R281). -/
def State.freeRx (s : State) (from_ vc : Nat) : State :=
  if isLink from_ then s.modLink from_ (fun l =>
    ({ l with rxHeld := decAt l.rxHeld vc }.creditBack vc).announced from_) else s

/-! ## Training and keys (R302 to R304, R307, R334) -/

/-- A link as training leaves it: a new key generation in each direction, every wavelength live, a quarter of the buffer for
each VC as the receiver's target, announced as far as the cells that it still holds allow (R281), the replay buffer sent again
from its oldest cell. The sender waits for the limits that the other end announces. -/
def Link.trained (l : Link) (link cycle : Nat) : Link :=
  let q := List.replicate 4 (bufOf link / 4)
  ({ l with
    st := 2, mask := 0xFFFF, kg := !l.kg, limit := [0, 0, 0, 0], resend := 0, gen := l.gen + 1, genCells := 0, rekey := false
    asked := false, agreed := false, newMask := none, rxLimit := [0, 0, 0, 0], rxTarget := q, rxCount := [0, 0, 0, 0]
    rxSince := cycle, rxKg := !l.rxKg, rxGen := l.rxGen + 1, rxPrev := none, rxNew := false, rxOwed := false, rxHello := true
    authLog := [], darkMask := 0 }).announced link

/-- A key-agreement cell waits for the other end of a link (KIND 6, VC 3: Tables 14.3, 17.6). -/
def State.sendKey (s : State) (link : Nat) : State :=
  s.modLink link (fun l => { l with own := l.own ++ [{ ddev := Config.neighbour link, sdev := s.mgmt.devnum, vc := 3, kind := 6,
                                                       body := Config.keyBody link s.mgmt.leaf }] })

/-- LINK_TRAINING (R302, R307, R334): a link that is down or training comes up with agreed keys; a key agreement uses one
XMSS leaf and is refused when none is left. This end's message of it goes over VC 3 (log 116). Step 4 of the bring-up is over when every link has trained (log 30). -/
def execLinkTraining (link : Nat) (s : State) : Out :=
  .next (if !isLink link ∨ (s.link link).up ∨ 2 ^ 20 ≤ s.mgmt.leaf ∨ !(s.mgmt.measured && s.mgmt.tested && s.mgmt.devWritten) then s
    else
      let s1 := (s.useLeaf.modLink link (fun l => l.trained link s.cycle)).sendKey link
      let s2 := if (List.range 63).all (fun n => (s1.link n).up) then s1.modMgmt (fun m => { m with linksUp := true }) else s1
      s2.hostEvent 0x8003 (w64 link))

/-- KEY_CHANGE_START (R302, R303): after 2^32 cells under one key, or as the host asked, the controller asks the other end for
the next key, with a message that uses one XMSS leaf; the other end answers once it has discarded the previous key. -/
def execKeyChangeStart (link : Nat) (s : State) : Out :=
  .next (
    let l := s.link link
    if !isLink link ∨ !l.up ∨ 2 ^ 20 ≤ s.mgmt.leaf ∨ (l.genCells < 2 ^ 32 ∧ l.rekey = false) ∨ l.asked ∨ l.agreed then s
    else (s.useLeaf.sendKey link).modLink link (fun l => { l with asked := true, rekey := false }))

/-- This end answers the other's request for a key: the next key is installed, with a message that uses one leaf (R303,
R307). -/
def State.answerKey (s : State) (link : Nat) : State :=
  if 2 ^ 20 ≤ s.mgmt.leaf then s.modLink link (fun l => { l with rxOwed := false })
  else (s.useLeaf.sendKey link).modLink link (fun l => { l with rxNew := true, rxOwed := false })

/-- A key-agreement cell has arrived: the first after a training is the other end's message of that; another answers this end's own
request, which installs the next key for what this end sends, or it asks; what it asks waits until the previous key is discarded
(R303; log 116). -/
def State.keyCell (s : State) (link : Nat) : State :=
  let l := s.link link
  if l.rxHello then s.modLink link (fun l => { l with rxHello := false })
  else if l.asked && Config.keyAnswers s.tick then s.modLink link (fun l => { l with asked := false, agreed := true })
  else if l.rxPrev.isSome ∨ l.rxNew then s.modLink link (fun l => { l with rxOwed := true })
  else s.answerKey link

/-- PREVIOUS_KEY_DISCARD (R303): 8,192 cells after the change the receiver discards the previous key; an agreement that waited
for that goes on. -/
def execPreviousKeyDiscard (link : Nat) (s : State) : Out :=
  .next (if (s.link link).rxPrev = some 0 then
      let s1 := s.modLink link (fun l => { l with rxPrev := none })
      if (s.link link).rxOwed then s1.answerKey link else s1
    else s)

/-- AUTH_FAILURE_RETRAIN (R304): 16 failures within 1,024 received cells; the link trains again with a new key exchange. -/
def execAuthFailureRetrain (link : Nat) (s : State) : Out :=
  .next (if (s.link link).up && decide (16 ≤ (s.link link).authLog.countP id) then
      s.modLink link (fun l => { l with st := 1, authLog := [] })
    else s)

/-! ## Sending (R282, R283, R327 to R330) -/

/-- Whether a cell is of KIND 1 to 3, which end-to-end sequences cover (R330). -/
def cellSeq (c : Cell) : Bool := decide (1 ≤ c.kind.toNat) && decide (c.kind.toNat ≤ 3)

/-- Whether a reserved slot's entry names a cell's flow (Table 14.5). -/
def slotTakes (e : BitVec 32) (c : Cell) : Bool :=
  e.getLsbD 31 && decide (e.extractLsb' 29 2 = c.vc) && decide (e.extractLsb' 23 6 = c.ctx) &&
  (decide (e.extractLsb' 8 15 = 0x7FFF) || decide (e.extractLsb' 8 15 = c.ddev))

/-- Whether the sender has credit on a VC (R279). -/
def Link.credit (l : Link) (vc : Nat) : Bool := decide (l.inFlight.getD vc 0 < l.limit.getD vc 0)

/-- The places of the waiting cells that go over a link with credit: those for its other end (64), and those that the routing
table, as it stands, sends over it (R328). -/
def State.readyCells (s : State) (link : Nat) : List (Nat × Nat × Cell) :=
  let own : List (Nat × Nat × Cell) := (s.link link).own.zipIdx.map (fun e => (e.2, 64, e.1))
  let out : List (Nat × Nat × Cell) :=
    (s.fab.out.zipIdx.filter (fun e => decide (s.routeOf e.1.2.ddev.toNat = some link))).map (fun e => (e.2, e.1))
  (own ++ out).filter (fun e => (s.link link).credit e.2.2.vc.toNat)

/-- The cell that a frame slot sends (R282): the reserved flow's, else the next VC's; the flag says that step 2 chose it. -/
def State.chooseCell (s : State) (link : Nat) : Option ((Nat × Nat × Cell) × Bool) :=
  let l := s.link link
  let r := s.readyCells link
  match r.find? (fun e => slotTakes (Sparse.get 0 l.resv l.frame) e.2.2) with
  | some e => some (e, false)
  | none => ((List.range 4).findSome? (fun i =>
      r.find? (fun e => decide (e.2.2.vc.toNat = (l.lastVc + 1 + i) % 4)))).map (fun e => (e, true))

/-- What takes effect at a frame boundary: a new reservation table (R283), a new live mask with the replay from the oldest
unacknowledged cell (R333). -/
def State.frameStart (s : State) (link : Nat) : State :=
  let l := s.link link
  let s1 := match l.newResv with
    | some t => s.modLink link (fun l => { l with resv := t, newResv := none })
    | none => s
  match l.newMask with
  | some m =>
    (((s1.modLink link (fun l => { l with mask := m, newMask := none, st := 3, resend := 0 })).health (hWLR ||| hRR)).hostEvent
      0x8001 (w64 (link + m.toNat * 2 ^ 16)))
  | none => s1

/-- The transmitter begins to use the key that the two ends have agreed, at the boundary of the next cell (R303 step 2). -/
def Link.rekeyed (l : Link) : Link :=
  if l.agreed then { l with agreed := false, kg := !l.kg, gen := l.gen + 1, genCells := 0 } else l

/-- One cell goes over a link under the current key and its transmit count: its 128 bytes stand on the wire (R302, R327). -/
def Link.sent (l : Link) (link : Nat) (c : Cell) : Link :=
  { l with
    txc := l.txc + 1, genCells := l.genCells + 1
    wire := cellBytes (linkKey link true l.gen) (linkNonce link true l.txc) { c with kg := l.kg, txc := BitVec.ofNat 16 l.txc } }

/-- A cell of this device's own of KIND 1 to 3 has been sent: its timer starts again (R330). -/
def State.markSent (s : State) (c : Cell) : State :=
  s.modPeer c.ddev.toNat (fun p => { p with kept := p.kept.map (fun x =>
    if x.cell.eseq = c.eseq then { x with sends := x.sends + 1, last := s.cycle } else x) })

/-- A new cell leaves over a link: it takes LSEQ, KG and TXC and is kept in the replay buffer (R302, R327, R329). -/
def State.sendNew (s : State) (link : Nat) (e : Nat × Nat × Cell) (byStep2 : Bool) : State :=
  let l := s.link link
  let c := { e.2.2 with lseq := BitVec.ofNat 12 l.lseq, kg := l.kg, txc := BitVec.ofNat 16 l.txc }
  let vc := c.vc.toNat
  let s1 := s.modLink link (fun l => { l.sent link c with
    lseq := (l.lseq + 1) % 4096, replay := l.replay ++ [c], resend := l.replay.length + 1, inFlight := addAt l.inFlight vc 1
    lastVc := if byStep2 then vc else l.lastVc })
  let s2 := if e.2.1 = 64 then s1.modLink link (fun l => { l with own := l.own.eraseIdx e.1 })
    else (s1.modFab (fun f => { f with out := f.out.eraseIdx e.1 })).freeRx e.2.1 vc
  if e.2.1 = 63 ∧ cellSeq c then s2.markSent c else s2

/-- A cell of the replay buffer is sent again, under the current key with a new transmit count (R303, R329). -/
def Link.replayed (l : Link) (link : Nat) : Link :=
  { l.sent link (l.replay.getD l.resend {}) with
    replay := l.replay.modify l.resend (fun c => { c with kg := l.kg, txc := BitVec.ofNat 16 l.txc })
    resend := l.resend + 1, replays := l.replays + 1 }

/-- The slot's cell (R282, R329): a cell to be sent again goes first; with 256 unacknowledged cells, or none ready, the slot
carries an idle cell. -/
def State.slotCell (s : State) (link : Nat) : State :=
  let l := s.link link
  let idle : Cell := { sdev := s.mgmt.devnum }
  if l.resend < l.replay.length then s.modLink link (fun l => l.replayed link)
  else if 256 ≤ l.replay.length then s.modLink link (fun l => l.sent link idle)
  else match s.chooseCell link with
    | some (e, byStep2) => s.sendNew link e byStep2
    | none => s.modLink link (fun l => l.sent link idle)

/-- FRAME_SLOT_SEND (R282, R327): one slot of a link's frame of 64, with the control flits that wait before its cell, each with its
check values under the current key. -/
def execFrameSlotSend (link : Nat) (s : State) : Out :=
  .next (if isLink link && (s.link link).up then
      let s1 := if (s.link link).frame = 0 then s.frameStart link else s
      let s2 := s1.modLink link (fun l => let k := l.rekeyed
        { k with sentFlits := l.flits.map (fun f => (f, f.made (linkKey link true k.gen))), unsure := l.unsure ++ l.flits, flits := [] })
      (s2.slotCell link).modLink link (fun l => { l with frame := (l.frame + 1) % 64 })
    else s)

/-! ## Receiving (R303, R304, R329, R331) -/

/-- The outcome of one authentication, among the last 1,024 (R304). -/
def Link.logAuth (l : Link) (failed : Bool) : Link :=
  { l with authLog := (l.authLog ++ [failed]).drop (l.authLog.length + 1 - 1024) }

/-- The key generation under which a received cell must be authentic: the current one, within its window the previous one, or,
with no previous one left, the next one that is installed; a cell of the previous KG after the window has none (R303, R304). -/
def Link.genOf (l : Link) (kg : Bool) : Option Nat :=
  if kg = l.rxKg then some l.rxGen
  else match l.rxPrev with
    | some n => if n = 0 then none else some (l.rxGen - 1)
    | none => if l.rxNew then some (l.rxGen + 1) else none

/-- Whether a received cell is authentic (R302, R304). -/
def Link.authentic (l : Link) (link : Nat) (head payload tail : List Byte) : Bool :=
  let c := headCell head
  match l.genOf c.kg with
  | none => false
  | some g => tagGood (linkKey link false g) (linkNonce link false (fullTxc l.rxTxc c.txc.toNat)) head payload tail

/-- The first authentic cell of the new KG makes the next key current and opens the window of 8,192 cells for the previous one
(R303 step 3). -/
def Link.keyed (l : Link) (c : Cell) : Link :=
  let l1 := { l with rxTxc := fullTxc l.rxTxc c.txc.toNat + 1 }
  if l.rxNew && l.rxPrev.isNone && c.kg != l.rxKg then
    { l1 with rxKg := c.kg, rxGen := l.rxGen + 1, rxNew := false, rxPrev := some 8192 }
  else l1

/-- Every cell received narrows the window of the previous key (R303 step 4). -/
def Link.counted (l : Link) : Link := { l with rxPrev := l.rxPrev.map (· - 1) }

/-- H and the marks after a number is marked: H advances over marked numbers (R331). -/
def Peer.advance (p : Peer) : Nat → Peer
  | 0 => p
  | n + 1 => if p.map.contains (p.h + 1) then
      { p with h := p.h + 1, map := p.map.filter (fun x => decide (x ≠ p.h + 1)) }.advance n
    else p

/-- A cell for this device (R331): a duplicate is acknowledged again once it has been performed, a new one within 4,096 of H is
marked and handed to its performing point in one step, one beyond is discarded. From the start of the source's path reset its
cells are discarded (R332). A management cell may start that (log 31). -/
def State.handCell (s : State) (c : Cell) : State :=
  let d := c.sdev.toNat
  let e := c.eseq.toNat
  let p := s.peer d
  if c.kind = 7 then (if Config.resetAsked s.tick then s.modPeer d (fun p => { p with resetting := true }) else s)
  else if !cellSeq c || p.resetting then s
  else if e ≤ p.h ∨ p.map.contains e then
    (if p.handed.any (fun x => decide (x.1 = e)) then s else s.ackTo d e)
  else if e ≤ p.h + 4096 then
    s.modPeer d (fun p => { p with map := p.map ++ [e], handed := p.handed ++ [(e, c.kind.toNat)] }.advance 4097)
  else s

/-- A cell is discarded and counted. -/
def State.dropCell (s : State) : State := s.modFab (fun f => { f with discarded := f.discarded + 1 })

/-- A cell that the link has passed on: for this end of the link, for this device, or to be forwarded with one more hop (R303,
R327, R328). One that is not forwarded leaves the receive buffer at once (R279). -/
def State.passCell (s : State) (link : Nat) (c : Cell) : State :=
  let freed := s.modLink link (fun l => l.creditBack c.vc.toNat)
  if 8 ≤ c.kind.toNat then freed.dropCell
  else if c.kind = 6 then freed.keyCell link
  else if c.ddev = s.mgmt.devnum then freed.handCell c
  else if c.hops = 3 ∨ (s.routeOf c.ddev.toNat).isNone then freed.dropCell
  else (s.modLink link (fun l => { l with rxHeld := addAt l.rxHeld c.vc.toNat 1 })).modFab (fun f =>
    { f with out := f.out ++ [(link, { c with hops := c.hops + 1 })] })

/-- A failed authentication counts on the link and in the device's level 5 ring, and the cell is asked for again (R304, R315,
R329). -/
def State.authFailed (s : State) (link : Nat) : State :=
  (s.modLink link (fun l => { (l.logAuth true).counted.nak with authFails := l.authFails + 1 })).modRing none 5 (fun r =>
    r.count (ErrRec.key { level := 5, unit := 10, idx := link }))

/-- The cell that 128 bytes carry, its payload decrypted (R302, R327). -/
def Link.opened (l : Link) (link : Nat) (head payload : List Byte) : Cell :=
  let c := headCell head
  let key := linkKey link false ((l.genOf c.kg).getD 0)
  { c with body := (cipher key (linkNonce link false (fullTxc l.rxTxc c.txc.toNat)) payload).take (headLen head) }

/-- CELL_RECEIVE (R303, R304, R329): CRC, then tag, then LSEQ; a cell that fails either of the first two is discarded and asked
for again with a NAK, one whose LSEQ is not the expected one is discarded; one that passes is acknowledged on the link. The
arguments are beat 0, beats 1 to 6 and beat 7. -/
def execCellReceive (link : Nat) (head payload tail : List Byte) (s : State) : Out :=
  .next (
    let l := s.link link
    if !isLink link ∨ !l.up then s
    else if !crcGood head payload tail then s.modLink link (fun l => (l.logAuth false).counted.nak)
    else if !l.authentic link head payload tail then s.authFailed link
    else
      let c := l.opened link head payload
      let s1 := s.modLink link (fun l => (l.counted.keyed c).logAuth false)
      if c.kind = 0 then s1
      else if c.lseq.toNat ≠ l.rxNext then s1
      else (s1.modLink link (fun l => { l with
        rxNext := (l.rxNext + 1) % 4096, rxCount := addAt l.rxCount c.vc.toNat 1, flits := l.flits ++ [.ack c.lseq.toNat] })).passCell
          link c)

/-- NAK_RECEIVE (R281, R329): the sender sends again from the named cell on, and the control flits that were lost. -/
def execNakReceive (link : Nat) (lseq : FlitIn) (s : State) : Out :=
  .next (s.takeFlit link 2 [] lseq (s.modLink link (fun l => { l with
    resend := (l.replay.findIdx? (fun c => decide (c.lseq.toNat = lseq.val))).getD l.resend
    flits := l.lostFlits s.tick ++ l.flits, unsure := [] })))

/-- LINK_ACK_RECEIVE (R329): the cells up to the named one leave the replay buffer, and the control flits sent so far are
covered (log 127). -/
def execLinkAckReceive (link : Nat) (lseq : FlitIn) (s : State) : Out :=
  .next (s.takeFlit link 1 [] lseq (s.modLink link (fun l =>
    let i := ((l.replay.findIdx? (fun c => decide (c.lseq.toNat = lseq.val))).map (· + 1)).getD 0
    { l with replay := l.replay.drop i, resend := l.resend - i, unsure := [] })))

/-! ### What no row of the table names -/

/-- A cell that waits with no valid route: a forwarded one is discarded and counted, one of this device's own is not sent, and of
KIND 1 to 3 counts as abandoned at once (R328). -/
def unrouted (s : State) : State :=
  match s.fab.out.findIdx? (fun e => (s.routeOf e.2.ddev.toNat).isNone) with
  | none => s
  | some i =>
    let e := s.fab.out.getD i (63, {})
    let s1 := s.modFab (fun f => { f with out := f.out.eraseIdx i })
    if isLink e.1 && decide (e.1 < 63) then (s1.freeRx e.1 e.2.vc.toNat).dropCell
    else if cellSeq e.2 then s1.modPeer e.2.ddev.toNat (fun p => { p with kept := p.kept.map (fun x =>
      if x.cell.eseq = e.2.eseq then { x with noRoute := true } else x) })
    else s1

/-- A reply that no outstanding access awaits, such as a unit's, has been performed where it was handed (R331). -/
def streamTaken (dev : Nat) (s : State) : State :=
  match (s.peer dev).handed.find? (fun x => decide (x.2 = 2) && !s.cores.any (fun e => e.2.slots.any (fun f =>
    (f.2.map (fun sl => sl.loads.any (s.awaits (s.coreCtx e.1) dev))).getD false))) with
  | some x => s.performed dev x.1 x.2
  | none => s

/-! ## Paths (R330 to R332) -/

/-- Release markers that are passed leave every core. -/
def State.dropAllMarkers (s : State) : State := s.cores.foldl (fun t e => t.dropMarkers e.1) s

/-- END_TO_END_ACK_RECEIVE (R330): the kept cell is released, and a waiting cell may take its place. -/
def execEndToEndAckReceive (dev eseq : Nat) (s : State) : Out :=
  .next (if (s.peer dev).kept.any (fun x => decide (x.cell.eseq.toNat = eseq)) then
      let s1 := s.modPeer dev (fun p => { p with kept := p.kept.filter (fun x => decide (x.cell.eseq.toNat ≠ eseq)) })
      (s1.takeSeqs dev (s1.peer dev).waiting).dropAllMarkers
    else s)

/-- Whether the link that the routing table gives a cell is down. -/
def State.linkDead (s : State) (c : Cell) : Bool :=
  match s.routeOf c.ddev.toNat with
  | some n => !(s.link n).up
  | none => true
/-- Whether a kept cell's timer has expired: it counts from the last send, or, with the link down, from the cell's queueing (R330,
R333). -/
def State.expired (s : State) (x : Kept) : Bool :=
  (decide (0 < x.sends) || s.linkDead x.cell) && decide (x.last + s.mgmt.e2e ≤ s.cycle)
/-- Whether a cell of this device's own waits to leave. -/
def State.leaving (s : State) (c : Cell) : Bool := s.fab.out.any (fun e => decide (e.1 = 63) && decide (e.2 = c))

/-- END_TO_END_TIMER (R330, R333): an expired cell that has been sent fewer than 8 times is sent again along the routing table,
with its SDEV and ESEQ; a link that is down takes it nowhere, and the resend counts. -/
def execEndToEndTimer (dev eseq : Nat) (s : State) : Out :=
  .next (match (s.peer dev).kept.find? (fun x => decide (x.cell.eseq.toNat = eseq)) with
    | some x =>
      if !s.expired x || decide (8 ≤ x.sends) || x.noRoute then s
      else if (s.routeOf dev).isNone then s.modPeer dev (fun p => { p with kept := p.kept.map (fun y =>
        if y.cell.eseq = x.cell.eseq then { y with noRoute := true } else y) })
      else if s.linkDead x.cell then s.markSent x.cell
      else if s.leaving x.cell then s
      else s.modFab (fun f => { f with out := f.out ++ [(63, x.cell)] })
    | none => s)

/-- The requests that await a device's reply give their tags the fault `msg.dest` (R332). -/
def State.failLoads (s : State) (dev : Nat) : State :=
  s.cores.foldl (fun t e => e.2.slots.foldl (fun t f => match f.2 with
    | none => t
    | some sl => (sl.loads.filter (s.awaits (s.coreCtx e.1) dev)).foldl (fun t l =>
        if (t.slot e.1 f.1).any (fun x => x.loads.contains l) then
          t.replyFault e.1 f.1 l (BitVec.ofNat 16 Cause.msgDest.code) (w64 l.va)
        else t) t) t) s

/-- The supervisor hears of the posted stores and atomics that are given up (R332). -/
def State.failPosted (s : State) (xs : List Kept) : State :=
  (xs.filter Kept.posted).foldl (fun t x => t.storeFault x.core x.va .msgDest) s

/-- The address of the first access of a job among the cells that are given up: a write, or a read that it has asked for. -/
def jobGone (gone : List Kept) (j : Job) : Option Nat :=
  (gone.find? (fun x => decide (x.core = j.core) && decide (x.act = 0) &&
    (j.sent.any (fun w => decide (w.1 = x.ent)) || j.asks.any (fun a => decide (a.2 = x.ent))))).map Kept.va

/-- The jobs whose cells are given up fail with code 0xA0, once what they have sent elsewhere is performed (R245, R332,
Table 8.5). -/
def State.failJobs (s : State) (gone : List Kept) : State :=
  (List.range 8).foldl (fun t d => (t.die d).jobs.zipIdx.reverse.foldl (fun t j => match jobGone gone j.1 with
    | some va =>
      if j.1.sent.any (fun w => t.engOut j.1.core w.1) then t.putJob d j.2 { j.1 with gone := some va }
      else t.jobFault d j.2 j.1 (w64 va)
    | none => t) t) s

/-- The loads of a core whose requests are given up end with 0xBB (R204, R332). -/
def State.failAreas (s : State) (gone : List Kept) : State :=
  s.cores.foldl (fun t e => e.2.released.zipIdx.reverse.foldl (fun t r => match r.1.asked, r.1.e.op with
    | some id, .ctxload _ _ ctr =>
      if gone.any (fun x => decide (x.core = e.1) && decide (x.act = 0) && decide (x.ent = id)) then
        (t.takeReleased e.1 r.2).coreDone (t.coreCtx e.1) ctr 0xBB
      else t
    | _, _ => t) t) s

/-- The parcels in transit to a device are returned (R300, R332). -/
def State.failParcels (s : State) (dev : Nat) : State :=
  (s.xfers.zipIdx.filter (fun x => x.1.inTransit && decide (x.1.dev = dev))).reverse.foldl (fun t x => t.endXfer x.2 x.1 false) s

/-- PATH_ABANDON (R332): a cell has been sent 8 times without an acknowledgement: every cell to the device is given up, with the
requests and stream cells that wait for an ESEQ, and this device's controller starts a path reset. -/
def execPathAbandon (dev : Nat) (s : State) : Out :=
  .next (if (s.peer dev).kept.any (fun x => x.noRoute || (decide (8 ≤ x.sends) && decide (x.last + s.mgmt.e2e ≤ s.cycle))) then
      let gone := (s.peer dev).kept ++ (s.peer dev).waiting.filter (fun x => !x.posted)
      let s1 := s.modPeer dev (fun p => { p with kept := [], waiting := p.waiting.filter Kept.posted, dead := true })
      let s2 := s1.modFab (fun f => { f with
        out := f.out.filter (fun e => !(decide (e.1 = 63) && cellSeq e.2 && decide (e.2.ddev.toNat = dev))) })
      ((((((s2.failLoads dev).failPosted gone).failJobs gone).failAreas gone).failParcels dev).sendMgmt dev |>.hostEvent 0x8004 (w64 dev)).dropAllMarkers
    else s)

/-- Whether no replay buffer holds a cell of a sequence from this device to another. -/
def State.drainedTo (s : State) (dev : Nat) : Bool :=
  s.fab.links.all (fun l => !l.2.replay.any (fun c =>
    cellSeq c && decide (c.sdev = s.mgmt.devnum) && decide (c.ddev.toNat = dev)))

/-- The source's sequence to a device starts again at 1, and waiting cells go (R330, R332). -/
def State.restartPath (s : State) (dev : Nat) : State :=
  let s1 := s.modPeer dev (fun p => { p with next := 1, dead := false })
  s1.takeSeqs dev (s1.peer dev).waiting

/-- The parcels that were arriving from a device never will: the destination frees their spans (R300). -/
def State.dropArrivals (s : State) (dev : Nat) : State :=
  (s.arrivals.filter (fun a => decide (a.p.srcDev.toNat = dev))).foldl (fun t a => t.dirSwap a.ctx [a.vbase] [])
    { s with arrivals := s.arrivals.filter (fun a => decide (a.p.srcDev.toNat ≠ dev)) }

/-- The destination's end of a path reset: H := 0, the map is clear, and the source's cells count again (R332). -/
def State.resetFrom (s : State) (dev : Nat) : State :=
  (s.modPeer dev (fun p => { p with h := 0, map := [], resetting := false })).dropArrivals dev

/-- PATH_RESET (R332): once this device's replay buffers towards the other are drained, the path that it has closed starts again
at 1, and the path whose reset the other has started starts again here. -/
def execPathReset (dev : Nat) (s : State) : Out :=
  .next (if !s.drainedTo dev then s
    else
      let s1 := if (s.peer dev).resetting then s.resetFrom dev else s
      if (s.peer dev).dead then s1.restartPath dev else s1)

/-- ESEQ_EXHAUSTED (R330): the sequence has reached 2^32 − 1 and every cell sent is acknowledged: the path closes and its reset
starts, with nothing abandoned and no event. -/
def execEseqExhausted (dev : Nat) (s : State) : Out :=
  .next (if 2 ^ 32 ≤ (s.peer dev).next ∧ (s.peer dev).kept = [] ∧ (s.peer dev).dead = false then
      (s.modPeer dev (fun p => { p with dead := true })).sendMgmt dev
    else s)

/-! ## Wavelengths (R333) -/

/-- Takes the cells of a replay buffer off the counts in flight. -/
def Link.lostCells (l : Link) : Link := { l with inFlight := l.replay.foldl (fun n c => decAt n c.vc.toNat) l.inFlight }

/-- A link goes down: what its replay buffer holds is lost to the link, and goes again by end-to-end resends (R330, R333). The
credits of freed cells that have not gone out, or were lost, go out after the next training (R279). -/
def State.takeDown (s : State) (link : Nat) : State :=
  ((s.modLink link (fun l => { l.lostCells with
    st := 0, replay := [], resend := 0, lseq := 0, rxNext := 0, newMask := none, frame := 0
    flits := (l.lostFlits s.tick ++ l.flits).filter Flit.isCredit, unsure := [] })).health hLKD).hostEvent 0x8002 (w64 link)

/-- WAVELENGTH_DARK (R333): the receiver of a global link finds a wavelength dark and sends a restripe flit that names the live
ones; with none live the link goes down. -/
def execWavelengthDark (link wave : Nat) (s : State) : Out :=
  .next (if 31 ≤ link ∧ isLink link ∧ wave < 16 ∧ (s.link link).up then
      let dark := (s.link link).darkMask ||| (1#16 <<< wave)
      let s1 := s.modLink link (fun l => { l with darkMask := dark, flits := l.flits ++ [.restripe (~~~dark)] })
      if dark = 0xFFFF#16 then s1.takeDown link else s1
    else s)

/-- RESTRIPE_FLIT (R333): the sender takes a new live mask at its next frame boundary; a wavelength that is out stays out until
the next training, and with no live one the link goes down. -/
def execRestripeFlit (link : Nat) (mask : FlitIn) (s : State) : Out :=
  .next (if link < 31 then s else s.takeFlit link 5 [] mask (
      let m := BitVec.ofNat 16 mask.val &&& (s.link link).mask
      if m = 0 then s.takeDown link else s.modLink link (fun l => { l with newMask := some m })))

/-- LINK_DOWN (R333): no wavelength is live, or the reverse direction cannot carry the restripe flit. -/
def execLinkDown (link : Nat) (s : State) : Out :=
  .next (if isLink link && decide ((s.link link).st ≠ 0) then s.takeDown link else s)

end Sys2Proof.Machine
end

