-- ==== Sys2Proof/Machine/FloatVec.lean ====
section
/-! DEFINITION. Floating-point and vector instructions (06_isa_float_vector R105 to R118). -/

namespace Sys2Proof.Machine

open Sys2Proof.Machine.Float

/-- What an element operation gives: the element's new 64 bits and its flags. -/
abbrev Elem := Word × BitVec 7

/-- A float result, the bits above its width zero (R105). -/
def elem (r : Res) : Elem := (w64 r.1, r.2)

/-- The shared form of the element-wise instructions (R106): a scalar works on X, a vector on each acting lane; only the
acting lanes contribute flags. `f idx` is the element operation on the sources; its index is that of R108. -/
def elementwise (i : Instr) (u : Ctl) (d : Reg) (srcs : List Reg) (f : Nat → List Word → Elem) (s : State) : Out :=
  .next (s.issue i u (under d) false fun sl =>
    if Reg.isV d then
      let out := (List.range 16).map (fun l => f l (srcs.map (fun r => (lane (sl.getV r) l).setWidth 64)))
      let m := sl.predMask u
      let fl := (List.range 16).foldl (fun a l => if m.getLsbD l then a ||| (out.getD l (0, 0)).2 else a) 0
      s.retire i u (some { d := d, lanes := out.map (fun e => e.1.setWidth 32), mask := m }) (sl.raise fl)
    else
      let r := f 0 (srcs.map sl.getX)
      s.retire i u (some { d := d, x := r.1 }) (sl.raise r.2))

/-- The k-th source. -/
def arg (xs : List Word) (k : Nat) : Nat := (xs.getD k 0).toNat
/-- The k-th source as a value of type `t`: its low w bits (R105). -/
def argF (t : FTy) (xs : List Word) (k : Nat) : Nat := arg xs k % 2 ^ width t
/-- Who generates a NaN (R108). -/
def State.gen (s : State) (idx : Nat) : Gen := { core := s.cur.1, idx := idx }

/-! ## Arithmetic (R110) -/

/-- `fadd` (Table 6.2). -/
def execFadd (u : Ctl) (ty : FTy) (rm : BitVec 2) (d a b : Reg) (s : State) : Out :=
  elementwise (.fadd u ty rm d a b) u d [a, b] (fun l xs => elem (add ty rm (s.gen l) (argF ty xs 0) (argF ty xs 1))) s
/-- `fsub` (Table 6.2). -/
def execFsub (u : Ctl) (ty : FTy) (rm : BitVec 2) (d a b : Reg) (s : State) : Out :=
  elementwise (.fsub u ty rm d a b) u d [a, b] (fun l xs => elem (sub ty rm (s.gen l) (argF ty xs 0) (argF ty xs 1))) s
/-- `fmul` (Table 6.2). -/
def execFmul (u : Ctl) (ty : FTy) (rm : BitVec 2) (d a b : Reg) (s : State) : Out :=
  elementwise (.fmul u ty rm d a b) u d [a, b] (fun l xs => elem (mul ty rm (s.gen l) (argF ty xs 0) (argF ty xs 1))) s
/-- `fdiv` (Table 6.2). -/
def execFdiv (u : Ctl) (ty : FTy) (rm : BitVec 2) (d a b : Reg) (s : State) : Out :=
  elementwise (.fdiv u ty rm d a b) u d [a, b] (fun l xs => elem (div ty rm (s.gen l) (argF ty xs 0) (argF ty xs 1))) s
/-- `fma` (Table 6.2). -/
def execFma (u : Ctl) (ty : FTy) (rm : BitVec 2) (d a b c : Reg) (s : State) : Out :=
  elementwise (.fma u ty rm d a b c) u d [a, b, c]
    (fun l xs => elem (fused ty rm false false (s.gen l) (argF ty xs 0) (argF ty xs 1) (argF ty xs 2))) s
/-- `fms` (Table 6.2). -/
def execFms (u : Ctl) (ty : FTy) (rm : BitVec 2) (d a b c : Reg) (s : State) : Out :=
  elementwise (.fms u ty rm d a b c) u d [a, b, c]
    (fun l xs => elem (fused ty rm false true (s.gen l) (argF ty xs 0) (argF ty xs 1) (argF ty xs 2))) s
/-- `fnma` (Table 6.2). -/
def execFnma (u : Ctl) (ty : FTy) (rm : BitVec 2) (d a b c : Reg) (s : State) : Out :=
  elementwise (.fnma u ty rm d a b c) u d [a, b, c]
    (fun l xs => elem (fused ty rm true false (s.gen l) (argF ty xs 0) (argF ty xs 1) (argF ty xs 2))) s
/-- `fsqrt` (Table 6.2). -/
def execFsqrt (u : Ctl) (ty : FTy) (rm : BitVec 2) (d a : Reg) (s : State) : Out :=
  elementwise (.fsqrt u ty rm d a) u d [a] (fun l xs => elem (sqrt ty rm (s.gen l) (argF ty xs 0))) s
/-- `frcp` (Table 6.2). -/
def execFrcp (u : Ctl) (ty : FTy) (rm : BitVec 2) (d a : Reg) (s : State) : Out :=
  elementwise (.frcp u ty rm d a) u d [a] (fun l xs => elem (rcp ty rm (s.gen l) (argF ty xs 0))) s
/-- `frsq` (Table 6.2). -/
def execFrsq (u : Ctl) (ty : FTy) (rm : BitVec 2) (d a : Reg) (s : State) : Out :=
  elementwise (.frsq u ty rm d a) u d [a] (fun l xs => elem (rsq ty rm (s.gen l) (argF ty xs 0))) s
/-- `frnd` (Table 6.2). -/
def execFrnd (u : Ctl) (ty : FTy) (rm : BitVec 2) (d a : Reg) (s : State) : Out :=
  elementwise (.frnd u ty rm d a) u d [a] (fun l xs => elem (rnd ty rm (s.gen l) (argF ty xs 0))) s

/-! ## Sign, minimum, maximum, class, scale, conversion (R111 to R114) -/

/-- `fmin` (Table 6.3). -/
def execFmin (u : Ctl) (ty : FTy) (d a b : Reg) (s : State) : Out :=
  elementwise (.fmin u ty d a b) u d [a, b] (fun _ xs => elem (minmax ty false (argF ty xs 0) (argF ty xs 1))) s
/-- `fmax` (Table 6.3). -/
def execFmax (u : Ctl) (ty : FTy) (d a b : Reg) (s : State) : Out :=
  elementwise (.fmax u ty d a b) u d [a, b] (fun _ xs => elem (minmax ty true (argF ty xs 0) (argF ty xs 1))) s
/-- `fabs` (Table 6.3). -/
def execFabs (u : Ctl) (ty : FTy) (d a : Reg) (s : State) : Out :=
  elementwise (.fabs u ty d a) u d [a] (fun _ xs => elem (abs ty (argF ty xs 0))) s
/-- `fneg` (Table 6.3). -/
def execFneg (u : Ctl) (ty : FTy) (d a : Reg) (s : State) : Out :=
  elementwise (.fneg u ty d a) u d [a] (fun _ xs => elem (neg ty (argF ty xs 0))) s
/-- `fclass` (R112). -/
def execFclass (u : Ctl) (ty : FTy) (d a : Reg) (s : State) : Out :=
  elementwise (.fclass u ty d a) u d [a] (fun _ xs => elem (fclass ty (argF ty xs 0))) s
/-- `fscale` (R112): n is X[B] as a signed 64-bit integer, or V[B][l] as a signed 32-bit one. -/
def execFscale (u : Ctl) (ty : FTy) (rm : BitVec 2) (d a b : Reg) (s : State) : Out :=
  elementwise (.fscale u ty rm d a b) u d [a, b] (fun l xs =>
    let n : Int := if Reg.isV d then ((xs.getD 1 0).extractLsb' 0 32).toInt else (xs.getD 1 0).toInt
    elem (scale ty rm (s.gen l) (argF ty xs 0) n)) s

/-- An integer result of `fcvt`: a 32-bit kind is extended by its sign in a scalar register (R114). -/
def cvtInt (src : FTy) (k : IKind) (rm : Mode) (w : Word) : Elem :=
  let r := toInt src k rm (w.toNat % 2 ^ width src)
  (BitVec.ofInt 64 r.1, r.2)

/-- `fcvt` (R113, R114). -/
def execFcvt (u : Ctl) (k : Cvt) (rm : BitVec 2) (d a : Reg) (s : State) : Out :=
  elementwise (.fcvt u k rm d a) u d [a] (fun _ xs => match k with
    | .ff src dst => elem (cvtFF src dst rm (arg xs 0))
    | .fi src ik => cvtInt src ik rm (xs.getD 0 0)
    | .fromInt ik dst => elem (ofInt dst rm (kindVal ik (xs.getD 0 0)))) s

/-- `fcmp` (R115). -/
def execFcmp (u : Ctl) (cc : FCond) (ty : FTy) (d a b : Reg) (s : State) : Out :=
  .next (s.issue (.fcmp u cc ty d a b) u (under a) false fun sl =>
    if Reg.isV a then
      let r (l : Nat) := cmp ty cc ((lane (sl.getV a) l).toNat % 2 ^ width ty) ((lane (sl.getV b) l).toNat % 2 ^ width ty)
      let m := sl.predMask u
      let fl := (List.range 16).foldl (fun acc l => if m.getLsbD l then acc ||| (r l).2 else acc) 0
      s.retire (.fcmp u cc ty d a b) u (some { d := d, x := predLanes sl u d (fun l => (r l).1) }) (sl.raise fl)
    else
      let r := cmp ty cc ((sl.getX a).toNat % 2 ^ width ty) ((sl.getX b).toNat % 2 ^ width ty)
      s.retire (.fcmp u cc ty d a b) u (some { d := d, x := allOrNone r.1 }) (sl.raise r.2))

/-! ## Moving lanes (R116) -/

/-- A vector result from the slot's registers, written in the acting lanes (R106). -/
def lanesOp (i : Instr) (u : Ctl) (d : Reg) (f : Slot → Nat → BitVec 32) (s : State) : Out :=
  .next (s.issue i u .lanes false fun sl =>
    s.retire i u (some { d := d, lanes := lanesOf (f sl), mask := sl.predMask u }) sl)

/-- k := (X[B] + IMM) mod 16 (R116). -/
def laneIndex (x : Word) (k : BitVec 4) : Nat := (x.toNat + k.toNat) % 16

/-- `vbcast` (Table 6.6). -/
def execVbcast (u : Ctl) (d a : Reg) (s : State) : Out :=
  lanesOp (.vbcast u d a) u d (fun sl _ => (sl.getX a).setWidth 32) s
/-- `vext` (Table 6.6). -/
def execVext (u : Ctl) (d a b : Reg) (k : BitVec 4) (s : State) : Out :=
  .next (s.issue (.vext u d a b k) u .scalar false fun sl =>
    s.retire (.vext u d a b k) u (some { d := d, x := (lane (sl.getV a) (laneIndex (sl.getX b) k)).setWidth 64 }) sl)
/-- `vins` (Table 6.6): it acts when `lpred(k)` holds, in lane k alone. -/
def execVins (u : Ctl) (d a b : Reg) (k : BitVec 4) (s : State) : Out :=
  .next (s.issue (.vins u d a b k) u .lanes false fun sl =>
    let n := laneIndex (sl.getX b) k
    let m := sl.predMask u &&& (1#16 <<< n)
    s.retire (.vins u d a b k) u (some { d := d, lanes := lanesOf (fun _ => (sl.getX a).setWidth 32), mask := m }) sl)
/-- `vperm` (Table 6.6). -/
def execVperm (u : Ctl) (d a b : Reg) (s : State) : Out :=
  lanesOp (.vperm u d a b) u d (fun sl l =>
    let i := (lane (sl.getV b) l).toNat
    if i < 16 then lane (sl.getV a) i else 0) s
/-- `vshift` (Table 6.6). -/
def execVshift (u : Ctl) (d a b : Reg) (imm : BitVec 32) (s : State) : Out :=
  lanesOp (.vshift u d a b imm) u d (fun sl l =>
    let i : Int := l - (sl.getX b + sext32 imm).toInt
    if 0 ≤ i ∧ i ≤ 15 then lane (sl.getV a) i.toNat else 0) s
/-- The lanes of a mask, ascending. -/
def maskLanes (m : BitVec 16) : List Nat := (List.range 16).filter (fun l => m.getLsbD l)
/-- `vcompress` (Table 6.6). -/
def execVcompress (u : Ctl) (d a b : Reg) (s : State) : Out :=
  lanesOp (.vcompress u d a b) u d (fun sl l =>
    match (maskLanes (sl.getP b))[l]? with
    | some j => lane (sl.getV a) j
    | none => 0) s
/-- `vexpand` (Table 6.6). -/
def execVexpand (u : Ctl) (d a b : Reg) (s : State) : Out :=
  lanesOp (.vexpand u d a b) u d (fun sl l =>
    if (sl.getP b).getLsbD l then lane (sl.getV a) ((maskLanes (sl.getP b)).countP (fun j => decide (j < l))) else 0) s
/-- `vpopc` (Table 6.6). -/
def execVpopc (u : Ctl) (d a : Reg) (s : State) : Out :=
  lanesOp (.vpopc u d a) u d (fun sl l => BitVec.ofNat 32 (onesOf (lane (sl.getV a) l))) s
/-- `vlane` (Table 6.6). -/
def execVlane (u : Ctl) (d : Reg) (s : State) : Out := lanesOp (.vlane u d) u d (fun _ l => BitVec.ofNat 32 l) s

/-! ## Reductions and scans (R117, R118) -/

/-- One combination of two 32-bit values under an operation of `vscan`, with its flags. -/
def combine (op : VOp) (g : Gen) (x y : BitVec 32) : BitVec 32 × BitVec 7 :=
  let f (r : Res) : BitVec 32 × BitVec 7 := (BitVec.ofNat 32 r.1, r.2)
  match op with
  | .add => (x + y, 0)
  | .and => (x &&& y, 0)
  | .or => (x ||| y, 0)
  | .xor => (x ^^^ y, 0)
  | .minI => (if x.sle y then x else y, 0)
  | .minN => (if x.ule y then x else y, 0)
  | .maxI => (if y.sle x then x else y, 0)
  | .maxN => (if y.ule x then x else y, 0)
  | .fadd => f (add .f32 0 g x.toNat y.toNat)
  | .fmin => f (minmax .f32 false x.toNat y.toNat)
  | .fmax => f (minmax .f32 true x.toNat y.toNat)

/-- A node of the tree: its value and its lowest acting lane, with the flags raised so far; `none` where no lane acts. -/
abbrev Node := Option (BitVec 32 × Nat)

/-- Combines adjacent nodes (R117). A generated NaN takes the lowest acting lane under the node as its index. -/
def treeLevel (op : VOp) (core : Nat) : List Node → List Node × BitVec 7
  | some (x, l) :: some (y, _) :: ns =>
    let r := combine op { core := core, idx := l } x y
    let t := treeLevel op core ns
    (some (r.1, l) :: t.1, r.2 ||| t.2)
  | some n :: none :: ns => let t := treeLevel op core ns; (some n :: t.1, t.2)
  | none :: n :: ns => let t := treeLevel op core ns; (n :: t.1, t.2)
  | ns => (ns, 0)

/-- The tree of four levels (R117). -/
def treeRed (op : VOp) (core : Nat) (ns : List Node) : Node × BitVec 7 :=
  let l1 := treeLevel op core ns
  let l2 := treeLevel op core l1.1
  let l3 := treeLevel op core l2.1
  let l4 := treeLevel op core l3.1
  (l4.1.headD none, l1.2 ||| l2.2 ||| l3.2 ||| l4.2)

/-- The identity that `vred` gives when no lane acts (R117). -/
def redIdentity : VOp → Word
  | .add | .or | .xor | .fadd | .maxN => 0
  | .and | .minN => 0xFFFFFFFF
  | .minI => 0x7FFFFFFF
  | .maxI => 0xFFFFFFFF80000000
  | .fmin => 0x7F800000
  | .fmax => 0xFF800000

/-- The value of `vred` over the acting lanes of a vector, with its flags (R117). -/
def reduce (op : VOp) (core : Nat) (m : BitVec 16) (v : Lanes) : Word × BitVec 7 :=
  if op = .add then
    (BitVec.ofInt 64 ((maskLanes m).foldl (fun a l => a + (lane v l).toInt) 0), 0)
  else
    match treeRed op core ((List.range 16).map (fun l => if m.getLsbD l then some (lane v l, l) else none)) with
    | (none, _) => (redIdentity op, 0)
    | (some (x, _), fl) => (if op = .minI ∨ op = .maxI then x.signExtend 64 else x.setWidth 64, fl)

/-- `vred` (R117): it acts whatever its predicate, and writes the identity, tagged or not, when no lane acts (log 24). -/
def execVred (u : Ctl) (op : VOp) (d a : Reg) (s : State) : Out :=
  .next (s.issue (.vred u op d a) u .always false fun sl =>
    let r := reduce op s.cur.1 (sl.predMask u) (sl.getV a)
    s.retire (.vred u op d a) u (some { d := d, x := r.1 }) (sl.raise r.2))

/-- The running values of `vscan`: the lanes written so far, the running value, the flags (R118). -/
def scanLanes (op : VOp) (core : Nat) (m : BitVec 16) (v : Lanes) : Lanes × Option (BitVec 32) × BitVec 7 :=
  (List.range 16).foldl (fun acc l =>
    if m.getLsbD l then
      match acc.2.1 with
      | none => (acc.1 ++ [lane v l], some (lane v l), acc.2.2)
      | some x =>
        let r := combine op { core := core, idx := l } x (lane v l)
        (acc.1 ++ [r.1], some r.1, acc.2.2 ||| r.2)
    else (acc.1 ++ [0], acc.2.1, acc.2.2)) ([], none, 0)

/-- `vscan` (R118). -/
def execVscan (u : Ctl) (op : VOp) (d a : Reg) (s : State) : Out :=
  .next (s.issue (.vscan u op d a) u .lanes false fun sl =>
    let r := scanLanes op s.cur.1 (sl.predMask u) (sl.getV a)
    s.retire (.vscan u op d a) u (some { d := d, lanes := r.1, mask := sl.predMask u }) (sl.raise r.2.2))

end Sys2Proof.Machine
end

