-- ==== Sys2Proof/Machine/Index.lean ====
section
/-! DEFINITION. Index requests (09_isa_index_range_system R185 to R189) and the index engines (13_promise_nearest R250 to
R267): the arrival step, the work step, the walk, reclaiming. -/

namespace Sys2Proof.Machine

/-! ## Issue (R185, R186) -/

namespace IxReq
/-- Word `i` of the block as a number. -/
def n (r : IxReq) (i : Nat) : Nat := (r.words.getD i 0).toNat
/-- HS. -/
def hs (r : IxReq) : Bool := (r.words.getD 1 0).getLsbD 35
/-- K. -/
def k (r : IxReq) : Nat := bits (r.words.getD 1 0) 28 7
/-- The beam, BEAM + 1. -/
def beam (r : IxReq) : Nat := bits (r.words.getD 1 0) 20 8 + 1
/-- The cells to probe, P + 1. -/
def probes (r : IxReq) : Nat := bits (r.words.getD 1 0) 8 12 + 1
/-- MODE. -/
def mode (r : IxReq) : Nat := bits (r.words.getD 1 0) 6 2
/-- CH. -/
def chan (r : IxReq) : BitVec 6 := (r.words.getD 1 0).extractLsb' 0 6

/-- The words an instruction uses (Table 9.5). -/
def uses (r : IxReq) : List Nat :=
  match r.fn with
  | 0 => if r.hs then [0, 1, 2, 3, 5, 6] else [0, 1, 3, 5, 6]
  | 1 => [0, 1, 4, 5, 6]
  | 2 => [0, 1, 4, 5]
  | 4 => [0, 1, 2, 5]
  | 6 => [0, 1, 5, 7]
  | 7 => [0, 1, 4, 5, 6]
  | _ => [0, 1, 5]

/-- Whether word 7 is a legal configuration (Table 9.4). -/
def cfgOk (r : IxReq) : Bool :=
  let c := r.words.getD 7 0
  decide (bits c 38 26 = 0) && decide (bits c 29 3 = 0) && decide (bits c 13 3 = 0) && decide (bits c 10 2 = 0) &&
  !c.getLsbD 7 && decide (1 ≤ bits c 32 6) && decide (bits c 32 6 ≤ 32) && decide (1 ≤ bits c 16 13) &&
  decide (bits c 16 13 ≤ 4096) && decide (1 ≤ bits c 0 7) && decide (bits c 0 7 ≤ 64)

/-- A 64-aligned local-window address (Table 9.1). -/
def localAddr (a : Nat) : Bool := decide (a % 64 = 0) && decide (a < 0x40000)

/-- Whether the block keeps the limits of R185, Table 9.1 and Table 9.4. -/
def blockOk (r : IxReq) : Bool :=
  let us := r.uses
  decide (bits (r.words.getD 1 0) 36 28 = 0) && (List.range 8).all (fun i => us.contains i || decide (r.n i = 0)) &&
  (decide (r.fn ≠ 0) || (decide (1 ≤ r.k) && decide (r.k ≤ 64) && decide (r.mode ≠ 3) &&
    (decide (r.mode ≠ 2) || decide (r.k ≤ r.beam)))) &&
  (!us.contains 2 || decide (r.n 2 < 2 ^ 48)) && (!us.contains 3 || localAddr (r.n 3)) &&
  (!us.contains 6 || localAddr (r.n 6)) && (decide (r.fn ≠ 7) || decide (r.n 4 ≤ 4095)) &&
  (decide (r.fn ≠ 6) || r.cfgOk)

/-- The permission an instruction needs (Table 9.5). -/
def need (r : IxReq) : BitVec 8 := if [1, 2, 6, 7].contains r.fn then permW else permR
end IxReq

/-- The request of FN `fn` whose block at `va` holds the bytes. -/
def State.ixReq (s : State) (fn va : Nat) (bs : List Byte) : IxReq :=
  { core := s.cur.1, ctx := s.coreCtx s.cur.1, fn := fn, addr := va,
    words := (List.range 8).map (fun w => w64 (leNat ((bs.drop (8 * w)).take 8))) }

/-- The index instructions (R186): the block is read by pool loads, which wait for an acquire (R123), and checked at issue;
the request takes two injection entries. -/
def State.sendIndex (s : State) (i : Instr) (u : Ctl) (a : Reg) (fn : Nat) : State :=
  s.issue i u .scalar false fun sl =>
    if s.replyClass sl then s.trap0 sl .sendReply
    else if !sl.mayAccess then s.putCur sl
    else
      let c := s.cur.1
      let va := (sl.getX a).toNat
      if 0x40000 ≤ va then s.trap sl .ixBlock (sl.getX a)
      else
        let p := s.poolRead sl c va va 64
        match p.poison with
        | some x => s.trap sl .memPoison (w64 (x / 8 * 8))
        | none =>
          let r := s.ixReq fn va p.bytes
          if va % 64 ≠ 0 ∨ s.scrBytes c < va + 64 ∨ r.blockOk = false then s.trap sl .ixBlock (sl.getX a)
          else match s.translate c (r.n 0) r.need sl.posted with
            | .miss => s.askWalk sl (r.n 0) none true
            | .fault e => s.trap sl e (w64 (r.n 0))
            | .ok pa =>
              let d := (s.parcelOf c (r.n 0)).getD {}
              if !d.has permI || decide (d.vbase ≠ r.n 0) then s.trap sl .rangePerm (w64 (r.n 0))
              else (s.touch c (r.n 0)).injects i u sl sl 2 (.index r (homeDie pa))

/-- `ldnear` (Table 9.5). -/
def execLdnear (u : Ctl) (a : Reg) (s : State) : Out := .next (s.sendIndex (.ldnear u a) u a 0)
/-- `stvec` (Table 9.5). -/
def execStvec (u : Ctl) (a : Reg) (s : State) : Out := .next (s.sendIndex (.stvec u a) u a 1)
/-- `delvec` (Table 9.5). -/
def execDelvec (u : Ctl) (a : Reg) (s : State) : Out := .next (s.sendIndex (.delvec u a) u a 2)
/-- `ixsnap` (Table 9.5). -/
def execIxsnap (u : Ctl) (a : Reg) (s : State) : Out := .next (s.sendIndex (.ixsnap u a) u a 3)
/-- `ixrel` (Table 9.5). -/
def execIxrel (u : Ctl) (a : Reg) (s : State) : Out := .next (s.sendIndex (.ixrel u a) u a 4)
/-- `ixstat` (Table 9.5). -/
def execIxstat (u : Ctl) (a : Reg) (s : State) : Out := .next (s.sendIndex (.ixstat u a) u a 5)
/-- `ixcfg` (Table 9.5). -/
def execIxcfg (u : Ctl) (a : Reg) (s : State) : Out := .next (s.sendIndex (.ixcfg u a) u a 6)
/-- `ixcent` (Table 9.5). -/
def execIxcent (u : Ctl) (a : Reg) (s : State) : Out := .next (s.sendIndex (.ixcent u a) u a 7)

/-! ## Vectors, distance, ranking (R215, R256, R257) -/

/-- The FP32 value of element `i` of a vector in format `f` of Table 9.4 (R186, R215). -/
def ixElem (f : Nat) (bs : List Byte) (i : Nat) : BitVec 32 :=
  let at_ (o n : Nat) : Nat := leNat ((bs.drop o).take n)
  BitVec.ofNat 32 (match f with
    | 0 => at_ (4 * i) 4
    | 1 => (Float.cvtFF .bf16 .f32 0 (at_ (2 * i) 2)).1
    | 2 => (Float.cvtFF .e4m3 .f32 0 (at_ i 1)).1
    | _ =>
      let e8 := at_ (33 * (i / 32)) 1
      let q := at_ (33 * (i / 32) + 1 + i % 32) 1
      if e8 = 255 then 0x7FC00000
      else (Float.roundTo .f32 0 (decide (128 ≤ q)) (if 128 ≤ q then 256 - q else q) ((e8 : Int) - 127)).1)

/-- A request's vector, or the status that refuses it: 5 for poison, 6 for an element that is NaN or infinite. -/
def IxReq.vector (r : IxReq) (f dim : Nat) : Except Nat (List (BitVec 32)) :=
  if r.bad.any (fun w => decide (8 * w < ixBytes f dim)) then .error 5
  else
    let v := (List.range (16 * dim)).map (ixElem f r.vec)
    if v.any (fun x => decide (x.toNat / 2 ^ 23 % 256 = 255)) then .error 6 else .ok v

/-- One accumulation of R256. -/
def distStep (met : Bool) (acc q v : Nat) : Nat :=
  if met then (Float.fused .f32 0 false false {} q v acc).1
  else
    let t := (Float.sub .f32 0 {} q v).1
    (Float.fused .f32 0 false false {} t t acc).1

/-- Lane `l` of the accumulation, over the elements of one lane in chunk order. -/
def distLane (met : Bool) : Nat → List (BitVec 32 × BitVec 32) → Nat
  | acc, [] => acc
  | acc, (q, v) :: es => distLane met (distStep met acc q.toNat v.toNat) es

/-- One level of the pairwise tree (R117, every lane acting). -/
def pairAdd : List Nat → List Nat
  | a :: b :: es => (Float.add .f32 0 {} a b).1 :: pairAdd es
  | es => es

/-- The distance of R256. -/
def distance (met : Bool) (q v : List (BitVec 32)) : Nat :=
  let pairs := (q.zip v).zipIdx
  let acc := (List.range 16).map (fun l => distLane met 0 ((pairs.filter (fun e => decide (e.2 % 16 = l))).map Prod.fst))
  let d := (pairAdd (pairAdd (pairAdd (pairAdd acc)))).headD 0
  let d := if met then d ^^^ 2 ^ 31 else d
  if Float.isNan .f32 d then 0x7F800000 else d

/-- A place in the order of R257: the distance's bits, the key, the sequence number. -/
structure Rank where
  d : Nat := 0
  key : Nat := 0
  seq : Nat := 0
  deriving DecidableEq, Repr

/-- The order of R257. -/
def Rank.le (a b : Rank) : Bool :=
  let x := Float.vkey .f32 a.d
  let y := Float.vkey .f32 b.d
  decide (x < y) || (decide (x = y) && (decide (a.key < b.key) || (decide (a.key = b.key) && decide (a.seq ≤ b.seq))))

/-- Inserts into an ordered list. -/
def rankInsert (r : Rank) : List Rank → List Rank
  | [] => [r]
  | e :: es => if e.le r then e :: rankInsert r es else r :: e :: es
/-- Orders a list. -/
def rankSort (rs : List Rank) : List Rank := rs.foldl (fun acc r => rankInsert r acc) []

/-! ## An index (R250, R254) -/

/-- The index with handle `vb` of context `k`. -/
def State.index (s : State) (k vb : Nat) : Index :=
  (s.indexes.find? (fun x => decide (x.ctx = k) && decide (x.vbase = vb))).getD { ctx := k, vbase := vb }
/-- Puts an index back. -/
def State.putIndex (s : State) (x : Index) : State :=
  { s with indexes := s.indexes.filter (fun y => !(decide (y.ctx = x.ctx) && decide (y.vbase = x.vbase))) ++ [x] }

/-- Whether an entry is live at a snapshot (R254). -/
def IxEntry.live (e : IxEntry) (s : Nat) : Bool :=
  decide (e.seq ≤ s) && (match e.tomb with | none => true | some t => decide (s < t))
/-- The targets of an entry's links present at a snapshot (R254). -/
def IxEntry.present (e : IxEntry) (s : Nat) : List Nat :=
  (e.links.filter (fun l => decide (l.2 ≤ s))).map Prod.fst ++
  (e.removed.filter (fun l => decide (l.2.1 ≤ s) && decide (s < l.2.2))).map Prod.fst

namespace Index
/-- The entry with a sequence number. -/
def entry (x : Index) (n : Nat) : Option IxEntry := x.entries.find? (fun e => decide (e.seq = n))
/-- The centroid of a cell; `ixcfg` sets every one to +0.0. -/
def cent (x : Index) (c : Nat) : List (BitVec 32) := Sparse.get (List.replicate (16 * x.dim) 0) x.cents c
/-- The entries of a cell that are live at a snapshot. -/
def liveIn (x : Index) (c s : Nat) : List IxEntry := x.entries.filter (fun e => decide (e.cell = c) && e.live s)
/-- The rank of an entry against a query. -/
def rank (x : Index) (q : List (BitVec 32)) (e : IxEntry) : Rank :=
  { d := distance x.met q e.vec, key := e.key.toNat, seq := e.seq }
/-- The cells in the ranking of R257 against a query. -/
def cells (x : Index) (q : List (BitVec 32)) : List Nat :=
  (rankSort ((List.range x.nc).map (fun c => { d := distance x.met q (x.cent c), seq := c }))).map Rank.seq

/-- The entry point of a cell at a snapshot (R259). -/
def entryPoint (x : Index) (c s : Nat) : Option IxEntry :=
  (x.liveIn c s).foldl (fun best e => match best with
    | none => some e
    | some b => if e.seq < b.seq then some e else some b) none

/-- One link met by a walk: an unseen live entry joins the seen ones and the beam, whose last is dropped past `b`. -/
def meet (x : Index) (q : List (BitVec 32)) (b s : Nat) (st : List Rank × List Nat) (y : Nat) : List Rank × List Nat :=
  match x.entry y with
  | none => st
  | some e =>
    if !e.live s || st.2.contains y then st
    else ((rankInsert (x.rank q e) st.1).take b, st.2 ++ [y])

/-- The walk of R263: the beam, the expanded entries, the seen ones; every round expands one entry. -/
def walkLoop (x : Index) (q : List (BitVec 32)) (b s : Nat) : Nat → List Rank → List Nat → List Nat → List Nat
  | 0, _, _, seen => seen
  | f + 1, beam, done, seen =>
    match beam.find? (fun r => !done.contains r.seq) with
    | none => seen
    | some r =>
      let st := ((x.entry r.seq).map (fun e => e.present s)).getD [] |>.foldl (x.meet q b s) (beam, seen)
      walkLoop x q b s f st.1 (done ++ [r.seq]) st.2

/-- The walk in cell `c` (R263): the sequence numbers examined. -/
def walk (x : Index) (c : Nat) (q : List (BitVec 32)) (b s : Nat) : List Nat :=
  match x.entryPoint c s with
  | none => []
  | some e => x.walkLoop q b s (x.entries.length + 1) [x.rank q e] [] [e.seq]

/-- The ranks of entries given by sequence number, in order. -/
def ranked (x : Index) (q : List (BitVec 32)) (ns : List Nat) : List Rank :=
  rankSort (ns.filterMap (fun n => (x.entry n).map (x.rank q)))

/-- The reverse link at `y` for the new entry `e` (R258 step 3). -/
def reverse (x : Index) (e y : IxEntry) : IxEntry :=
  let n := e.seq
  let cands := (y.present (n - 1)).filterMap x.entry ++ [e]
  let kept := ((rankSort (cands.map (fun z => { d := distance x.met y.vec z.vec, key := z.key.toNat, seq := z.seq }))).take
    x.lnk).map Rank.seq
  if kept.contains n then
    { y with
      links := y.links.filter (fun l => kept.contains l.1) ++ [(n, n)]
      removed := y.removed ++ (y.links.filter (fun l => !kept.contains l.1)).map (fun l => (l.1, l.2, n)) }
  else y

/-- The work of `stvec` with number `n` (R258). -/
def add (x : Index) (n : Nat) (key : Word) (u : List (BitVec 32)) : Index × Nat :=
  let c := (x.cells u).headD 0
  let near := ((x.ranked u (x.walk c u 64 (n - 1))).take x.lnk).map Rank.seq
  let e : IxEntry := { seq := n, key := key, cell := c, vec := u, links := near.map (fun y => (y, n)) }
  ({ x with entries := x.entries.map (fun y => if near.contains y.seq then x.reverse e y else y) ++ [e], cur := n }, c)

/-- The entries that `delvec` with number `t` of a key tombstones (R260). -/
def doomed (_x : Index) (t : Nat) (key : Word) (e : IxEntry) : Bool :=
  decide (e.key = key) && decide (e.seq < t) && e.tomb.isNone
/-- The work of `delvec` with number `t` (R260). -/
def del (x : Index) (t : Nat) (key : Word) : Index :=
  { x with entries := x.entries.map (fun e => if x.doomed t key e then { e with tomb := some t } else e), cur := t }

/-- Whether the index holds entries (R188). -/
def holdsEntries (x : Index) : Bool := decide (x.next ≠ x.cur) || decide (x.entries ≠ [])
/-- The oldest held snapshot, or the cursor. -/
def oldest (x : Index) : Nat := x.holds.foldl min (x.holds.headD x.cur)
end Index

/-! ## The arrival step (R251, R252) -/

/-- The status that refuses a search at its arrival, or its snapshot (Table 9.6). -/
def Index.takeSeqs (x : Index) (r : IxReq) : Except Nat Nat :=
  if !x.configured then .error 3
  else if r.hs && !x.holds.contains (r.n 2) then .error 1
  else if r.mode ≠ 0 ∧ x.nc < r.probes then .error 3
  else match r.vector 0 x.dim with
    | .error e => .error e
    | .ok _ => .ok (if r.hs then r.n 2 else x.cur)

/-- The bytes of what R250 says an index holds, with the `pending` inserts that have their numbers, one entry more, and the LNK
removed links of each: centroids, and for every entry its vector, key, numbers and links. -/
def Index.bytesNeeded (x : Index) (pending : Nat) : Nat :=
  64 * x.dim * x.nc + (x.entries.length + pending + 1) * (ixBytes x.fmt x.dim + 22 + 12 * x.lnk) +
  18 * ((x.entries.map (fun e => e.removed.length)).sum + (pending + 1) * x.lnk)

/-- Whether a range of `size` bytes lacks the room for one more entry (R267): surely when it is smaller than what the index
would hold, and never with sixteen times as much; between those the layout decides, which the spec does not state
(log 49). -/
def Index.lacksRoom (x : Index) (pending size : Nat) : Bool :=
  let need := x.bytesNeeded pending
  decide (size < need) || (decide (size < 16 * need) && Config.ixFull size need)

/-- The inserts that have taken a number and are not committed. -/
def State.ixPending (s : State) (x : Index) : Nat :=
  (s.dies.map (fun e => e.2.works.countP (fun r =>
    decide (r.ctx = x.ctx) && decide (r.n 0 = x.vbase) && decide (r.fn = 1) && r.out.isNone))).sum

/-- The status that refuses a `stvec` or `delvec` at its arrival, if any (Table 9.6, R250, R252): `full` says that the range
lacks room, `pending` counts the inserts that are not committed. -/
def Index.refuses (x : Index) (r : IxReq) (full : Bool) (pending : Nat) : Option Nat :=
  if !x.configured then some 3
  else if r.fn = 1 then
    (match r.vector x.fmt x.dim with
     | .error e => some e
     | .ok _ => if 2 ^ 32 ≤ x.entries.length + pending ∨ full ∨ 2 ^ 48 ≤ x.next + 1 then some 2 else none)
  else if 2 ^ 48 ≤ x.next + 1 then some 2 else none

/-- The code of an index format in a range descriptor (R290). -/
def ixFmt (f : Nat) : BitVec 5 := match f with | 0 => 0 | 1 => 1 | 2 => 3 | _ => 6

/-- The administration requests: their STATUS and words 2 to 5 (Table 9.3), and the index after them. -/
def Index.admin (x : Index) (r : IxReq) : Nat × List Nat × Index :=
  match r.fn with
  | 3 =>
    if !x.configured then (3, [], x) else if 64 ≤ x.holds.length then (4, [], x)
    else (0, [x.cur, x.holds.count x.cur + 1, 0, 0], { x with holds := x.holds ++ [x.cur] })
  | 4 =>
    if !x.configured then (3, [], x) else if !x.holds.contains (r.n 2) then (1, [], x)
    else (0, [r.n 2, x.holds.count (r.n 2) - 1, 0, 0], { x with holds := x.holds.erase (r.n 2) })
  | 5 =>
    if !x.configured then (3, [], x)
    else (0, [x.cur, x.oldest, x.entries.countP (fun e => e.live x.cur), x.holds.length], x)
  | 6 =>
    if x.holdsEntries then (3, [], x)
    else
      let c := r.words.getD 7 0
      (0, [0, 0, 0, 0], { x with
        configured := true, nc := bits c 16 13, dim := bits c 0 7, fmt := bits c 8 2, met := c.getLsbD 12,
        lnk := bits c 32 6, cents := [], badCents := [], next := 0, cur := 0 })
  | _ =>
    if !x.configured || x.holdsEntries || decide (x.nc ≤ r.n 4) then (3, [], x)
    else match r.vector 0 x.dim with
      | .error e => (e, [], x)
      | .ok v => (0, [0, 0, 0, 0], { x with
          cents := Sparse.set (List.replicate (16 * x.dim) 0) x.cents (r.n 4) v
          badCents := x.badCents.filter (fun c => decide (c ≠ r.n 4)) })

/-- Words 1 to 5 of a completion that carries only a status (R188). -/
def statusOnly (st : Nat) : List Word := [w64 st, 0, 0, 0, 0]

/-- `ixcfg` writes FMT and GEO into the range's descriptor (R290). -/
def State.setFormat (s : State) (k vb : Nat) (f : BitVec 5) (geo : Nat) : State :=
  match (List.range (s.dirN k)).find? (fun i => decide ((s.dirDesc k i).vbase = vb)) with
  | none => s
  | some i =>
    let d := { s.dirDesc k i with fmt := f, geo := BitVec.ofNat 15 geo }
    s.setWord (s.dirBase k + 32 * i + 8) (d.words.getD 1 0)

/-- The arrival step of a request at its home engine (R251): the request as its work step will find it. -/
def State.ixArrive (s : State) (r : IxReq) : IxReq × State :=
  let x := s.index r.ctx (r.n 0)
  match r.fn with
  | 0 => (match x.takeSeqs r with
    | .error e => { r with out := some (statusOnly e) }
    | .ok sn => { r with snap := sn }, s)
  | 1 | 2 => match x.refuses r (x.lacksRoom (s.ixPending x) (256 * ((s.descOf r.ctx (r.n 0)).map Desc.size).getD 0)) (s.ixPending x) with
    | some e => ({ r with out := some (statusOnly e) }, s)
    | none => ({ r with seq := x.next + 1 }, s.putIndex { x with next := x.next + 1 })
  | _ =>
    let a := x.admin r
    let s1 := s.putIndex a.2.2
    let s2 := if r.fn = 6 ∧ a.1 = 0 then s1.setFormat r.ctx (r.n 0) (ixFmt a.2.2.fmt) (16 * a.2.2.dim) else s1
    ({ r with out := some (if a.1 = 0 then w64 a.1 :: a.2.1.map w64 else statusOnly a.1) }, s2)

/-- Whether a request is behind another of its activation to the same index on its way (R186). -/
def State.ixBehind (s : State) (n : Nat) (f : Flight) (r : IxReq) : Bool :=
  (s.flight.take n).any (fun g => decide (g.src = f.src) && decide (g.act = f.act) && (match g.op with
    | .index q _ => decide (q.words.getD 0 0 = r.words.getD 0 0)
    | _ => false))

/-- INDEX_ARRIVAL_STEP (R187, R251): the request at place `n` of those on their way reaches the home engine. -/
def execIndexArrivalStep (die n : Nat) (s : State) : Out :=
  .next (match s.flight[n]? with
    | none => s
    | some f => match f.op with
      | .index r d =>
        if d ≠ die ∨ s.ixBehind n f r ∨ 64 ≤ (s.die die).recs.length then s
        else
          let a := { s with flight := s.flight.eraseIdx n }.ixArrive r
          a.2.modDie die (fun y => { y with works := y.works ++ [a.1] })
      | _ => s)

/-! ## The work step (R253, R258 to R263, R267) -/

/-- The entries an `ldnear` examines, by sequence number (R261). -/
def Index.examined (x : Index) (r : IxReq) (q : List (BitVec 32)) (cs : List Nat) : List Nat :=
  cs.flatMap (fun c => if r.mode = 2 then x.walk c q r.beam r.snap else (x.liveIn c r.snap).map IxEntry.seq)

/-- The cells an `ldnear` probes, in order (R261). -/
def Index.probed (x : Index) (r : IxReq) (q : List (BitVec 32)) : List Nat :=
  if r.mode = 0 then List.range x.nc else (x.cells q).take r.probes

/-- A result record (Table 9.2). -/
def ixRecord (x : Index) (k : Rank) : List Byte :=
  leBytes 8 k.key ++ leBytes 8 k.seq ++ leBytes 4 k.d ++ leBytes 2 (((x.entry k.seq).map IxEntry.cell).getD 0) ++
  List.replicate 10 0

/-- The answer of an `ldnear`: words 1 to 5 of its completion and its records (R262). -/
def Index.search (x : Index) (r : IxReq) : List Word × List Byte :=
  match r.vector 0 x.dim with
  | .error e => (statusOnly e, [])
  | .ok q =>
    let cs := x.probed r q
    let ex := x.examined r q cs
    let top := (x.ranked q ex).take r.k
    let known := cs.all (fun c => (x.liveIn c r.snap).all (fun e => ex.contains e.seq))
    ([w64 (top.length * 256), w64 r.snap, w64 ex.length, w64 cs.length, if known then 0x17F800000 else 0],
     top.flatMap (ixRecord x))

/-- The parts of the index data that a work step reads (R258 to R261, R267): centroids as (true, cell), entries' vectors and
links as (false, sequence number). -/
def Index.reads (x : Index) (r : IxReq) : List (Bool × Nat) :=
  let cents := (List.range x.nc).map (fun c => (true, c))
  match r.fn with
  | 0 => (match r.vector 0 x.dim with
    | .error _ => []
    | .ok q => (if r.mode = 0 then [] else cents) ++ (x.examined r q (x.probed r q)).map (fun n => (false, n)))
  | 1 => (match r.vector x.fmt x.dim with
    | .error _ => []
    | .ok u =>
      let seen := x.walk ((x.cells u).headD 0) u 64 (r.seq - 1)
      cents ++ (seen ++ (((x.ranked u seen).take x.lnk).filterMap (fun y => x.entry y.seq)).flatMap (fun y =>
        y.present (r.seq - 1))).map (fun n => (false, n)))
  | _ => x.entries.map (fun e => (false, e.seq))

/-- Whether a part is uncorrectable; of an entry, a `delvec` reads only the key. -/
def Index.partBad (x : Index) (r : IxReq) (p : Bool × Nat) : Bool :=
  if p.1 then x.badCents.contains p.2 else decide (r.fn ≠ 2) && ((x.entry p.2).map IxEntry.bad).getD false

/-- A part has become uncorrectable, until software rebuilds it (R267). -/
def Index.spoil (x : Index) (p : Bool × Nat) : Index :=
  if p.1 then { x with badCents := x.badCents ++ [p.2] }
  else { x with entries := x.entries.map (fun e => if e.seq = p.2 then { e with bad := true } else e) }

/-- What a work step finds of the index data it reads (R267): whether it meets an uncorrectable word, and the index with the
part that has become so. -/
def Index.meets (x : Index) (r : IxReq) (tick : Nat) : Bool × Index :=
  let ps := x.reads r
  if ps.any (x.partBad r) then (true, x)
  else if ps ≠ [] ∧ Config.ixPoisoned tick then (true, x.spoil (ps.getD (Config.ixPart tick % ps.length) (true, 0)))
  else (false, x)

/-- Completes a request: its records through the issuing core's port, then the completion (R187, Table 9.3). -/
def State.ixComplete (s : State) (die engine : Nat) (r : IxReq) (ws : List Word) (recs : List Byte) : State :=
  let keyed := recs.zipIdx.map (fun b => (r.n 3 + b.2, poolKey r.core (r.n 3 + b.2), b.1))
  let s1 := if recs = [] then s else (s.bankFlush r.core).writeMem r.core ((s.inRange r.core (r.n 3) keyed).1)
  let m : Msg := { dst := BitVec.ofNat 13 r.core, chan := r.chan, cls := true, ctx := BitVec.ofNat 8 r.ctx,
                   src := BitVec.ofNat 13 r.core, err := decide (bits (ws.headD 0) 0 8 ≠ 0), body := ws ++ [r.words.getD 5 0] }
  s1.unitSend die (16 + engine) m

/-- Index data was found uncorrectable: the request completes with `ix.poison` and a record (R267; log 18). -/
def State.ixPoison (s : State) (die engine : Nat) (r : IxReq) : State :=
  let x : Rec := { cause := .ixPoison, kind := 3, pc := w64 r.addr, info := Config.ixAddr s.tick, info2 := r.words.getD 0 0 }
  (s.unitRecord die (16 + engine) r.ctx r.core x).ixComplete die engine r (statusOnly 5) []

/-- A work step that has found a word of the index data uncorrectable, one that was not so before, leaves an error record in the
context's ring and the word poisoned (R315, R319). -/
def State.ixFound (s0 : State) (die : Nat) (r : IxReq) : State :=
  let x := s0.index r.ctx (r.n 0)
  if (x.meets r s0.tick).1 && !(x.reads r).any (x.partBad r) then
    ((s0.errBad (some r.ctx) { level := 3, kind := 1, cause := Cause.ixPoison.code, saddr := Config.ixAddr s0.tick, unit := 5,
                               die := die, idx := die }).health hPSN).replaceEvent
  else s0

/-- The work of a request that its index allows now: the state after it, with its completion sent. -/
def State.ixWork (s0 : State) (die engine : Nat) (r : IxReq) : State :=
  match r.out with
  | some ws => s0.ixComplete die engine r ws []
  | none =>
    let s := s0.ixFound die r
    let m := (s.index r.ctx (r.n 0)).meets r s.tick
    let x := m.2
    let bad := m.1
    match r.fn with
    | 0 =>
      if bad then (s.putIndex x).ixPoison die engine r
      else s.ixComplete die engine r (x.search r).1 (x.search r).2
    | 1 =>
      if bad then (s.putIndex { x with cur := r.seq }).ixPoison die engine r
      else match r.vector x.fmt x.dim with
        | .error e => (s.putIndex { x with cur := r.seq }).ixComplete die engine r (statusOnly e) []
        | .ok u =>
          let a := x.add r.seq (r.words.getD 4 0) u
          (s.putIndex a.1).ixComplete die engine r [0, w64 r.seq, 0, w64 a.2, 0] []
    | _ =>
      if bad then (s.putIndex { x with cur := r.seq }).ixPoison die engine r
      else
        let hit := x.entries.countP (x.doomed r.seq (r.words.getD 4 0))
        (s.putIndex (x.del r.seq (r.words.getD 4 0))).ixComplete die engine r
          (if hit = 0 then statusOnly 7 else [0, w64 r.seq, w64 hit, 0, 0]) []

/-- Whether a request's work step may start: a numbered one follows the cursor (R253). -/
def State.ixMayWork (s : State) (r : IxReq) : Bool :=
  r.out.isSome || decide (r.seq = 0) || decide ((s.index r.ctx (r.n 0)).cur + 1 = r.seq)

/-- INDEX_WORK_STEP (R251, R253): an engine of the die performs the work of the request at place `n`. -/
def execIndexWorkStep (die n engine : Nat) (s : State) : Out :=
  .next (match (s.die die).works[n]? with
    | none => s
    | some r =>
      if 4 ≤ engine ∨ s.ixMayWork r = false ∨ 64 ≤ (s.die die).recs.length then s
      else (s.modDie die (fun y => { y with works := y.works.eraseIdx n })).ixWork die engine r)

/-! ## Reclaiming (R255) -/

/-- The floor of an index. -/
def State.ixFloor (s : State) (x : Index) : Nat :=
  let run := s.dies.flatMap (fun e => (e.2.works.filter (fun r =>
    decide (r.ctx = x.ctx) && decide (r.n 0 = x.vbase) && decide (r.fn = 0) && r.out.isNone)).map IxReq.snap)
  (x.holds ++ run).foldl min x.cur

/-- An index without what the floor allows to reclaim. -/
def Index.reclaim (x : Index) (floor : Nat) : Index :=
  let dead := (x.entries.filter (fun e => match e.tomb with | some t => decide (t ≤ floor) | none => false)).map IxEntry.seq
  { x with entries := (x.entries.filter (fun e => !dead.contains e.seq)).map (fun e => { e with
      links := e.links.filter (fun l => !dead.contains l.1)
      removed := e.removed.filter (fun l => !(decide (l.2.2 ≤ floor) || dead.contains l.1)) }) }

/-- INDEX_RECLAIM (R255). -/
def execIndexReclaim (ctx vbase : Nat) (s : State) : Out :=
  .next (if s.indexes.any (fun x => decide (x.ctx = ctx) && decide (x.vbase = vbase)) then
      s.putIndex ((s.index ctx vbase).reclaim (s.ixFloor (s.index ctx vbase)))
    else s)

end Sys2Proof.Machine
end

