-- ==== Sys2Proof/Machine/Units.lean ====
section
/-! DEFINITION. What befalls the device as a whole: accesses from peers (15_isolation R289), soft errors and scrubbing
(16_recovery R308, R314, R315), the permit audit (R316), mapping and loss of cores (R318), Saddle lanes (R319), clocks
(17_host_fabric R335). -/

namespace Sys2Proof.Machine

/-! ## Peer accesses (R289) -/

/-- The permission a peer access needs (Table 7.2). -/
def peerNeed : PeerOp → BitVec 8
  | .load _ => permR
  | .store _ => permW
  | .atom .. | .cas .. | .region _ => permAtom

/-- The number of no core: what it stores raises no record on this device. -/
def noCore : Nat := 8192

/-- A peer's atomic at a key: the new value, if it writes one. -/
def peerValue (op : PeerOp) (core : Nat) (old : Nat → Word) : Option (Nat × Word) :=
  match op with
  | .atom o n b => some (n, atomNew o core n (old n) (narrow n b))
  | .cas n c v => if old n = narrow n c then some (n, narrow n v) else none
  | _ => none

/-- The bytes a peer access touches: the first, and how many; a region touches its line. -/
def peerExtent (p : PeerAccess) : Nat × Nat :=
  match p.op with
  | .load n => (p.va, n)
  | .store bs => (p.va, bs.length)
  | .atom _ n _ => (p.va, n)
  | .cas n .. => (p.va, n)
  | .region _ => (p.va / 128 * 128, 128)

/-- The accesses of a peer's atomic line region, in order, on the line whose bytes stand at `key` (R135). -/
def State.peerRegion (s : State) (key : Nat → Nat) : List RegionPart → State
  | [] => s
  | p :: ps =>
    let t : State := match p.bytes with
      | some bs => s.writeMem noCore (bs.zipIdx.map (fun b => (p.va + b.2, key ((p.va % 128 + b.2) % 128), b.1)))
      | none => s
    t.peerRegion key ps

/-- The first byte that a peer access would read and that is poisoned: nothing is performed then (R239). -/
def State.peerPoison (s : State) (p : PeerAccess) (key : Nat → Nat) : Option Nat :=
  match p.op with
  | .store _ => none
  | .region parts => parts.findSome? (fun r => if r.bytes.isSome then none
      else (List.range r.n).find? (fun j => s.poisoned (key ((r.va % 128 + j) % 128))) |>.map (r.va + ·))
  | _ => ((List.range (peerExtent p).2).find? (fun j => s.poisoned (key j))).map (p.va + ·)

/-- What a peer access does to the memory whose bytes stand at `key`. -/
def State.peerPerform (s : State) (p : PeerAccess) (key : Nat → Nat) : State :=
  match p.op with
  | .load _ => s
  | .store bs => s.writeMem noCore (bs.zipIdx.map (fun b => (p.va + b.2, key b.2, b.1)))
  | .region parts => s.peerRegion key parts
  | op => match peerValue op p.core (fun n => w64 (leNat ((List.range n).map (fun j => s.byte (key j))))) with
    | some (n, v) => s.writeMem noCore ((List.range n).map (fun j => (p.va + j, key j, v.extractLsb' (8 * j) 8)))
    | none => s

/-- What the reply to an access that is performed says. -/
def State.peerAnswer (s : State) (p : PeerAccess) (key : Nat → Nat) : PeerAnswer :=
  match p.op with
  | .store _ => .done
  | _ => .data ((List.range (peerExtent p).2).map (fun j => s.byte (key j)))

/-- PEER_ACCESS_ARRIVAL (R289, R295, R331): a peer's access, which its cell has brought to its performing point, is translated
granule by granule through this device's directory for the access's context, G needed too; a stream cell, KIND 3, brings a
store. On a failure nothing is performed, and the reply carries the fault; it carries the result of an access that wants one.
The cell is acknowledged once the access is performed. -/
def execPeerAccessArrival (p : PeerAccess) (s : State) : Out :=
  .next (
    let dev := p.dev.toNat
    let stream := match p.op with | .store _ => p.posted && (s.peer dev).holds p.eseq 3 | _ => false
    if !(s.peer dev).holds p.eseq 1 && !stream then s
    else (match s.peerKeys p.ctx (peerExtent p).1 (peerNeed p.op) (max 1 (peerExtent p).2) with
      | .ok ks =>
        let key (j : Nat) : Nat := ks.getD j 0
        match s.peerPoison p key with
        | some va => s.sendReply p (.fault (BitVec.ofNat 16 Cause.memPoison.code) va)
        | none => let t := s.peerPerform p key
          if p.posted then t else t.sendReply p (s.peerAnswer p key)
      | .error e => s.sendReply p (.fault (BitVec.ofNat 16 e.2.code) e.1)).performed dev p.eseq (if stream then 3 else 1))

/-! ## Soft errors (R308, R314, R315) -/

/-- The owner and the record of an error in the 64-bit word at a memory key: HBM, a slot unit, or another unit of the pool
(R12, Table 16.5). -/
def State.wordErr (s : State) (key : Nat) : Option Nat × ErrRec :=
  if keyIsPool key then
    let c := keyCore key
    let u := (key - poolKey c 0) / 4096
    let slots := decide (s.slotUnit c 0 ≤ poolKey c (u * 4096)) && decide (u < 63)
    (s.coreOwner c, { level := 0, saddr := w64 ((key - poolKey c 0) / 8), unit := if slots then 1 else 0, die := coreDie c, idx := c })
  else
    (s.hbmOwner key, { level := 3, saddr := w64 key, unit := 5, die := homeDie key, idx := homeDie key })

/-- A word becomes poisoned: one record, unless it is poisoned already (R308, R314); poisoned HBM words set PSN (R319). -/
def State.poisonFound (s : State) (key : Nat) (by_ : Option (Nat × Nat × Nat)) : State :=
  if s.poisoned key then s
  else
    let e := s.wordErr key
    let s1 := (s.setPoison key true).errBad e.1 (ErrRec.seenBy { e.2 with cause := Cause.memPoison.code } s by_)
    if keyIsPool key then s1 else (s1.health hPSN).replaceEvent

/-- An accumulator element becomes the NaN that names its core (Table 16.1). -/
def State.sliceFound (s : State) (c sl i j : Nat) (by_ : Option (Nat × Nat × Nat)) : State :=
  let n := 64 * (i % 64) + j % 64
  let v := 0x7FC00000 ||| (c * 512) ||| 0x1FF
  if s.hasSlice c sl then
    (s.setBytes ((List.range 4).map (fun b => (s.sliceKey c sl + 4 * n + b, BitVec.ofNat 8 (v / 256 ^ b))))).errBad
      (s.coreOwner c) (ErrRec.seenBy { level := 1, saddr := w64 (4096 * sl + n), unit := 2, die := coreDie c, idx := c } s by_)
  else s

/-- The record of a failure that a unit of a die reports in context `k`, for work of no job or request: PC and INFO are free
(R310, Table 16.3; log 111: SRC). -/
def State.unitFails (s : State) (die u k core : Nat) (cause : Cause) (info2 : Word) : State :=
  s.unitRecord die u k core { cause := cause, kind := 3, pc := Config.openPc s.tick, info := Config.openInfo s.tick, info2 := info2 }

/-- An uncorrectable counter: all ones with code 0xFD, on which every armed wait of it wakes with ERR = 1; its bank reports
`counter.ue` (R310, Table 16.1). -/
def State.counterFound (s : State) (cl i : Nat) (by_ : Option (Nat × Nat × Nat)) : State :=
  let h := cl * 256 + i % 256
  let s1 := (s.setCounter h { val := BitVec.allOnes 64, code := 0xFD }).errBad (s.clusterOwner cl)
    (ErrRec.seenBy { level := 2, cause := Cause.counterUe.code, saddr := w64 (i % 256), unit := 3, die := cl / 64, idx := cl % 64 } s by_)
  match s.clusterOwner cl with
  | some k => s1.unitFails (cl / 64) (unitBank cl) k (s.ctx k).sup .counterUe (handleOf h)
  | none => s1

/-- A wait-table entry with both copies uncorrectable is dropped, and the supervisor hears of it (Table 16.1). -/
def State.waitFound (s : State) (cl i : Nat) (by_ : Option (Nat × Nat × Nat)) : State :=
  match (s.cluster cl).waits.find? (fun w => decide (w.ent = i)) with
  | none => s
  | some w =>
    let s0 := { s with flight := s.flight.filter (fun f => decide (f.wait ≠ some (cl, i))) }
    let s1 := s0.modCluster cl (fun x => { x with waits := x.waits.filter (fun w => decide (w.ent ≠ i)) })
    let s2 := match s.clusterOwner cl with
      | some k => s1.unitRecord (cl / 64) (unitBank cl) k w.core { cause := .waitLost, kind := 4, info := w64 (cl * 2 ^ 16 + i) }
      | none => s1
    s2.errBad (s.clusterOwner cl)
      (ErrRec.seenBy { level := 2, cause := Cause.waitLost.code, saddr := w64 i, unit := 4, die := cl / 64, idx := cl % 64 } s by_)

/-- An uncorrectable task is discarded; a readable CNT gets +1 with code 0xA5, and Quince reports `task.lost` (R310,
Table 16.1). -/
def State.taskFound (s : State) (die b i : Nat) (cntOk : Bool) : State :=
  match (s.bank die b).tasks[i]? with
  | none => s
  | some t =>
    let s1 := (s.modBank die b (fun x => { x with tasks := x.tasks.eraseIdx i })).errBad (some t.ctx)
      { level := 0, kind := 1, cause := Cause.taskLost.code, saddr := w64 i, unit := 9, die := die, idx := b }
    let s2 := s1.unitFails die (unitQuince b) t.ctx t.src .taskLost (if cntOk then t.cnt else 0)
    if cntOk then s2.complete ((s.optCounter t.ctx t.cnt).getD none) 0xA5 else s2

/-- An uncorrectable message is discarded when it binds (Table 16.1). -/
def State.messageFound (s : State) (c i : Nat) : State :=
  (s.modCore c (fun co => { co with inbox := co.inbox.modify i (fun m => { m with bad := true }) })).errBad (s.coreOwner c)
    { level := 0, kind := 1, cause := Cause.msgUe.code, saddr := w64 i, unit := 7, die := coreDie c, idx := c }

/-- The level at which a soft error counts (R206, R308); for structures that Table 16.1 gives no level it is 0, that of the
core's own memory (log 110). -/
def errLevel : SoftError → Nat
  | .corrected level _ | .poisonWord level _ => level
  | .slice .. => 1
  | .counter .. | .waitOne .. | .waitBoth .. => 2
  | _ => 0

/-- The place of a soft error within its level: a sweep reads upward (R314). -/
def errPlace : SoftError → Nat
  | .corrected _ key | .poisonWord _ key => key
  | .slice c sl i j => c * 2 ^ 14 + 4096 * sl + 64 * (i % 64) + j % 64
  | .counter cl i => cl * 2 ^ 12 + i
  | .waitOne cl i | .waitBoth cl i => cl * 2 ^ 12 + 256 + i
  | _ => 0

/-- The owner and the record of a corrected error. -/
def State.fixedErr (s : State) : SoftError → Option Nat × ErrRec
  | .corrected level key =>
    if level = 1 then (s.coreOwner (key / 2 ^ 14),
      { level := 1, saddr := w64 (key % 2 ^ 14), unit := 2, die := coreDie (key / 2 ^ 14), idx := key / 2 ^ 14 })
    else if level = 2 then (s.clusterOwner (key / 2 ^ 12),
      { level := 2, saddr := w64 (key % 2 ^ 12), unit := 3, die := key / 2 ^ 12 / 64, idx := key / 2 ^ 12 % 64 })
    else s.wordErr key
  | .waitOne cl i => (s.clusterOwner cl, { level := 2, saddr := w64 i, unit := 4, die := cl / 64, idx := cl % 64 })
  | .fixedAt unit idx word =>
    if unit = 9 then (none, { level := 0, saddr := w64 word, unit := 9, die := idx / 16, idx := idx % 16 })
    else (s.coreOwner idx, { level := 0, saddr := w64 word, unit := unit, die := coreDie idx, idx := idx })
  | _ => (none, { level := 0 })

/-- The words that were corrected in the current sweep interval: a context's, or for HBM and what no context owns the
device's (R315). -/
def State.mended (s : State) (k : Option Nat) : List SoftError :=
  match k with
  | some k => (s.ctx k).mended
  | none => s.mgmt.mended

/-- Changes those words. -/
def State.modMended (s : State) (k : Option Nat) (f : List SoftError → List SoftError) : State :=
  match k with
  | some k => s.modCtx k (fun x => { x with mended := f x.mended })
  | none => s.modMgmt (fun m => { m with mended := f m.mended })

/-- A corrected error counts; a word corrected before in the sweep interval also gives a record (R315). -/
def State.fixed (s : State) (w : SoftError) : State :=
  let e := s.fixedErr w
  let k := if errLevel w = 3 then none else e.1
  let again := (s.mended k).contains w
  (s.errFixed e.1 e.2 again).modMended k (fun l => if again then l else l ++ [w])

/-- What one finding does. -/
def State.found (s : State) (f : ScrubFind) : State :=
  match f.what with
  | .poisonWord _ key => s.poisonFound key f.by_
  | .slice c sl i j => s.sliceFound c sl i j f.by_
  | .counter cl i => s.counterFound cl i f.by_
  | .waitBoth cl i => s.waitFound cl i f.by_
  | .task die b i cntOk => s.taskFound die b i cntOk
  | .message c i => s.messageFound c i
  | w => s.fixed w

/-- Whether a soft error lies where context `ctx` looks: its cores, clusters, tasks, or HBM. -/
def State.errorOf (s : State) (ctx : Nat) : SoftError → Bool
  | .corrected level key =>
    if level = 0 then keyIsPool key && decide (s.coreOwner (keyCore key) = some ctx)
    else if level = 1 then decide (s.coreOwner (key / 2 ^ 14) = some ctx)
    else if level = 2 then decide (s.clusterOwner (key / 2 ^ 12) = some ctx)
    else decide (level = 3) && decide (key < hbmEnd)
  | .poisonWord level key =>
    if level = 0 then keyIsPool key && decide (s.coreOwner (keyCore key) = some ctx) else decide (level = 3) && decide (key < hbmEnd)
  | .slice c .. | .message c _ => decide (s.coreOwner c = some ctx)
  | .counter cl _ | .waitOne cl _ | .waitBoth cl _ => decide (s.clusterOwner cl = some ctx)
  | .task die b i _ => ((s.bank die b).tasks[i]?).any (fun t => decide (t.ctx = ctx))
  | .fixedAt unit idx _ => decide (unit = 9) || ([1, 7, 8].contains unit && decide (s.coreOwner idx = some ctx))

/-- The default sweep intervals (Table 16.4). -/
def defaultSweep (level : Nat) : Nat := if level = 0 then 2 ^ 22 else 2 ^ 20

/-- The interval of a level's sweep in cycles: as `scrub` set it or the default, and for HBM as the host set it, at 1.75 GHz
(R203, R314). -/
def State.sweepCycles (s : State) (ctx level : Nat) : Nat :=
  if level = 3 then s.mgmt.hbmHours * 3600 * 1750000000
  else
    let n := Sparse.get 0 (s.ctx ctx).sweep level
    if n = 0 then defaultSweep level else n

/-- Whether a level's next sweep is due. -/
def State.sweepDue (s : State) (ctx level : Nat) : Bool :=
  decide ((if level = 3 then s.mgmt.swept else Sparse.get 0 (s.ctx ctx).swept level) + s.sweepCycles ctx level ≤ s.cycle)

/-- A sweep of a level has read the level once, and its next interval begins (R314). The HBM sweep, which is the device's, begins the
interval of the device's other words too: those of Quince, which no sweep reads (R315; log 135). -/
def State.sweepOver (s : State) (ctx level : Nat) : State :=
  let keep (l : List SoftError) : List SoftError := l.filter (fun w => decide (errLevel w ≠ level))
  if level = 3 then
    s.ctxs.foldl (fun t e => t.modCtx e.1 (fun x => { x with mended := keep x.mended }))
      (s.modMgmt (fun m => { m with swept := s.cycle, mended := [] }))
  else s.modCtx ctx (fun x => { x with swept := Sparse.set 0 x.swept level s.cycle, mended := keep x.mended })

/-- The findings of one sweep: those of its level, each above the one before (R314). -/
def risingFrom (level : Nat) : Nat → List ScrubFind → List ScrubFind
  | _, [] => []
  | lo, f :: fs =>
    if f.by_ = none ∧ errLevel f.what = level ∧ lo ≤ errPlace f.what then f :: risingFrom level (errPlace f.what + 1) fs
    else risingFrom level lo fs

/-- SCRUB_SWEEP (R308, R314, R315): one sweep of a level with what it finds, or what accesses find in between. -/
def execScrubSweep (ctx : Nat) (finds : Sweep) (s : State) : Out :=
  .next (
    let mine := finds.finds.filter (fun f => s.errorOf ctx f.what)
    match finds.level with
    | some l =>
      if 3 < l ∨ !s.sweepDue ctx l then s else ((risingFrom l 0 mine).foldl State.found s).sweepOver ctx l
    | none => (mine.filter (fun f => f.by_.isSome)).foldl State.found s)

/-! ## Permit audit (R316) -/

/-- One link audited: a mismatch sets the permits to the free count and is recorded; a link not drained is skipped. -/
def State.auditLink (s : State) (die : Nat) (r : AuditRead) : State :=
  if !r.drained then s.modDie die (fun x => { x with skipped := x.skipped + 1 })
  else
    let put (p : Nat) (t : State) : State := t.modDie die (fun x => { x with
      mesh := Sparse.set {} x.mesh r.link { permits := p, free := r.free, size := r.size } })
    if r.permits + r.free = r.size then put r.permits s
    else
      let e : ErrRec := { level := 5, kind := 4, saddr := w64 r.link, unit := 11, die := die, idx := r.link }
      (((put r.free s).modDie die (fun x => { x with repaired := x.repaired + 1 })).health hPRM).modRing none 5 (fun g =>
        g.push e (Config.eccInfo s.tick) (w64 s.cycle))

/-- A fabric link audited: of each VC, the permits are the limit less the cells in flight, the free slots the limit less the
cells that the receiver's snapshot holds; on a mismatch the permits become the free slots. A snapshot whose check values are wrong
is asked for again (R327). This end's snapshot goes out too. -/
def State.auditFabric (s0 : State) (die : Nat) (r : AuditRead) (held : List Nat) : State :=
  let s := if r.link < 63 then s0.modLink r.link (fun l => { l with flits := l.flits ++ [.snapshot l.rxHeld] }) else s0
  if !r.drained then s.modDie die (fun x => { x with skipped := x.skipped + 1 })
  else if !flitGood (s.rxKey r.link) 6 held r.flit then (if r.link < 63 then s.modLink r.link Link.nak else s)
  else if 63 ≤ r.link ∨ (List.range 4).all (fun v => decide ((s.link r.link).inFlight.getD v 0 = held.getD v 0)) then s
  else
    let e : ErrRec := { level := 5, kind := 4, saddr := w64 r.link, unit := 10, die := die, idx := r.link }
    (((s.modLink r.link (fun l => { l with inFlight := (List.range 4).map (fun v => held.getD v 0) })).modDie die (fun x =>
      { x with repaired := x.repaired + 1 })).health hPRM).modRing none 5 (fun g => g.push e (Config.eccInfo s.tick) (w64 s.cycle))

/-- PERMIT_AUDIT (R316): mesh links and Saddles, and in the same window fabric links. -/
def execPermitAudit (die : Nat) (reads : List AuditRead) (s : State) : Out :=
  .next (if die < 8 then reads.foldl (fun t r => match r.snap with
      | some held => t.auditFabric die r held
      | none => t.auditLink die r) s
    else s)

/-! ## Mapping and losing cores (R318) -/

/-- The 2 × 2 cluster block of a core on its die, whose spare serves it (R10). -/
def blockOf (c : Nat) : Nat := coreRow c / 8 * 4 + coreCol c / 8
/-- Whether the spare of a core's block is in use. -/
def State.spareUsed (s : State) (c : Nat) : Bool := (s.die (coreDie c)).spares.contains (blockOf c)

/-- Whether everything that core `c` has released has drained (R318 step 1). -/
def State.coreDrained (s : State) (c : Nat) : Bool :=
  let co := s.core c
  decide (co.released = []) && decide (co.recs = []) && decide (co.matq = []) && decide (co.gbars = []) &&
  !co.inj.any Inj.released && (List.range 16).all (fun m => (s.core (memberOf c m)).stage.all (fun e => decide (e.core ≠ c)))

/-- The drain of a failed core that its mapping waits for, 20 µs at 1.75 GHz (R318). -/
def failDrain : Nat := 35000
/-- The last cycle before which a failed core can be mapped. -/
def State.drainEnd (s : State) (c : Nat) : Nat := (s.core c).failTimes.getLastD 0 + failDrain
/-- Whether a failed core's drain has taken too long: a core that drained in time has been mapped by now (R318; log 129). -/
def State.drainLate (s : State) (c : Nat) : Bool := (s.core c).failed && decide (s.drainEnd c ≤ s.cycle)

/-- The spare of its block takes a core's id; pins and range-table entries do not move (Table 16.7, R319), and the children
whose start waited bind. -/
def State.mapCore (s : State) (c : Nat) : State :=
  let kids := (s.core c).spawns.filter SpawnRes.released
  let s1 := s.modCore c (fun co => { co with
    rtab := [], failTimes := [], mapped := true, spawns := co.spawns.filter (fun r => !r.released) })
  let s2 := (kids.foldl (fun t r => t.startChild c r.child) s1).modDie (coreDie c) (fun x =>
    { x with spares := x.spares ++ [blockOf c] })
  (s2.health (hSPR ||| hRR)).hostEvent 0x8005 (w64 c)

/-- CORE_MAP (R318): a core that failed self-test is mapped before it belongs to a context, without a record; one that
failed at run time when it has drained in time, its spans having aborted when it failed. -/
def execCoreMap (core : Nat) (s : State) : Out :=
  .next (if 8192 ≤ core ∨ (s.core core).lost ∨ s.spareUsed core then s
    else if (s.core core).ctx = none then s.mapCore core
    else if (s.core core).failed && s.coreDrained core && !s.drainLate core then
      (s.mapCore core).record core
        { cause := .coreMapped, kind := 4, info := Config.openInfo s.tick, info2 := w64 (blockOf core) }
    else s)

/-- The activations of a lost core end, their messages with them. -/
def State.endAll (s : State) (c : Nat) : State :=
  (List.range 8).foldl (fun t k => (t.abortSpan c k).endActivation c k) s

/-- Whether a core is lost: it has failed, and its block's spare is in use or its drain has taken too long; or it has failed
self-test, before it belongs to a context, and the spare is in use (R318). -/
def State.losing (s : State) (c : Nat) : Bool :=
  if (s.core c).ctx.isNone then s.spareUsed c else (s.core c).failed && (s.spareUsed c || s.drainLate c)

/-- CORE_LOST (R318): the tasks in its prefetch entries give `task.lost` on their counters, each with a record (R310; log 111: of a bank
that is free). -/
def execCoreLost (core : Nat) (s : State) : Out :=
  .next (if 8192 ≤ core ∨ (s.core core).lost ∨ !s.losing core then s
    else
      let k := s.coreCtx core
      let tasks := (s.core core).inbox.filter (fun m => decide (m.area = 3))
      let s1 := tasks.foldl (fun t m =>
        (t.unitFails (coreDie core) (unitQuince (Config.choose s.tick)) k core .taskLost (m.body.getD 5 0)).complete
          ((s.optCounter k (m.body.getD 5 0)).getD none) 0xA5) (s.endAll core)
      let s2 := s1.modCore core (fun co => Core.settle { co with
        inbox := [], spawns := [], rtab := [], lost := true, inj := co.inj.filter Inj.released })
      let s3 := s2.modDie (coreDie core) (fun x => { x with lostCores := x.lostCores + 1 })
      ((s3.health hCLS).hostEvent 0x8005 (w64 (2 ^ 63 + core))).record core
        { cause := .coreLost, kind := 4, info := Config.openInfo s.tick })

/-! ## Saddles and clocks (R319, R335) -/

/-- SADDLE_LANE_REPLACE (R319): one of a Saddle's two spare lanes replaces a failing lane. The module has 10 Saddles (R6). -/
def execSaddleLaneReplace (saddle : Nat) (s : State) : Out :=
  .next (if 10 ≤ saddle ∨ 2 ≤ Sparse.get 0 s.mgmt.saddles saddle then s
    else (s.modMgmt (fun m => { m with saddles := Sparse.modify 0 m.saddles saddle (· + 1) })).replaceEvent)

/-- THERMAL_THROTTLE (R335): a die's clock steps down to 8/16 at the least, or back up; the event's step is the number of
sixteenths below the full rate (log 29). -/
def execThermalThrottle (die : Nat) (up : Bool) (s : State) : Out :=
  .next (
    let k := (s.die die).clock
    if 8 ≤ die ∨ (up ∧ 16 ≤ k) ∨ (up = false ∧ k ≤ 8) then s
    else
      let n := if up then k + 1 else k - 1
      (s.modDie die (fun x => { x with clock := n })).hostEvent 0x8006 (w64 ((if up then 2 ^ 63 else 0) + (16 - n) * 2 ^ 8 + die)))

end Sys2Proof.Machine
end

