-- ==== Sys2Proof/Machine/Dispatch.lean ====
section
/-! DEFINITION. One arm per constructor of `Instr`: its meaning, called by its full name. -/

namespace Sys2Proof.Machine

/-- What an instruction, host command or device event does (spec/opcode_table.json). -/
def exec (i : Instr) (s : State) : Host.Outcome State Fault Refusal :=
  match i with
  | .illegal u => Sys2Proof.Machine.execIllegal u s
  | .add u d a b => Sys2Proof.Machine.execAdd u d a b s
  | .sub u d a b => Sys2Proof.Machine.execSub u d a b s
  | .mul u d a b => Sys2Proof.Machine.execMul u d a b s
  | .mulhI u d a b => Sys2Proof.Machine.execMulhI u d a b s
  | .mulhN u d a b => Sys2Proof.Machine.execMulhN u d a b s
  | .divI u d a b => Sys2Proof.Machine.execDivI u d a b s
  | .divN u d a b => Sys2Proof.Machine.execDivN u d a b s
  | .remI u d a b => Sys2Proof.Machine.execRemI u d a b s
  | .remN u d a b => Sys2Proof.Machine.execRemN u d a b s
  | .addImm u d a imm => Sys2Proof.Machine.execAddImm u d a imm s
  | .subImm u d a imm => Sys2Proof.Machine.execSubImm u d a imm s
  | .mulImm u d a imm => Sys2Proof.Machine.execMulImm u d a imm s
  | .mulhIImm u d a imm => Sys2Proof.Machine.execMulhIImm u d a imm s
  | .mulhNImm u d a imm => Sys2Proof.Machine.execMulhNImm u d a imm s
  | .divIImm u d a imm => Sys2Proof.Machine.execDivIImm u d a imm s
  | .divNImm u d a imm => Sys2Proof.Machine.execDivNImm u d a imm s
  | .remIImm u d a imm => Sys2Proof.Machine.execRemIImm u d a imm s
  | .remNImm u d a imm => Sys2Proof.Machine.execRemNImm u d a imm s
  | .and u d a b => Sys2Proof.Machine.execAnd u d a b s
  | .or u d a b => Sys2Proof.Machine.execOr u d a b s
  | .xor u d a b => Sys2Proof.Machine.execXor u d a b s
  | .andn u d a b => Sys2Proof.Machine.execAndn u d a b s
  | .shl u d a b => Sys2Proof.Machine.execShl u d a b s
  | .shr u d a b => Sys2Proof.Machine.execShr u d a b s
  | .sar u d a b => Sys2Proof.Machine.execSar u d a b s
  | .rol u d a b => Sys2Proof.Machine.execRol u d a b s
  | .minI u d a b => Sys2Proof.Machine.execMinI u d a b s
  | .minN u d a b => Sys2Proof.Machine.execMinN u d a b s
  | .maxI u d a b => Sys2Proof.Machine.execMaxI u d a b s
  | .maxN u d a b => Sys2Proof.Machine.execMaxN u d a b s
  | .andImm u d a imm => Sys2Proof.Machine.execAndImm u d a imm s
  | .orImm u d a imm => Sys2Proof.Machine.execOrImm u d a imm s
  | .xorImm u d a imm => Sys2Proof.Machine.execXorImm u d a imm s
  | .andnImm u d a imm => Sys2Proof.Machine.execAndnImm u d a imm s
  | .shlImm u d a n => Sys2Proof.Machine.execShlImm u d a n s
  | .shrImm u d a n => Sys2Proof.Machine.execShrImm u d a n s
  | .sarImm u d a n => Sys2Proof.Machine.execSarImm u d a n s
  | .rolImm u d a n => Sys2Proof.Machine.execRolImm u d a n s
  | .minIImm u d a imm => Sys2Proof.Machine.execMinIImm u d a imm s
  | .minNImm u d a imm => Sys2Proof.Machine.execMinNImm u d a imm s
  | .maxIImm u d a imm => Sys2Proof.Machine.execMaxIImm u d a imm s
  | .maxNImm u d a imm => Sys2Proof.Machine.execMaxNImm u d a imm s
  | .clz u d a => Sys2Proof.Machine.execClz u d a s
  | .ctz u d a => Sys2Proof.Machine.execCtz u d a s
  | .popc u d a => Sys2Proof.Machine.execPopc u d a s
  | .bfx u d a pos len => Sys2Proof.Machine.execBfx u d a pos len s
  | .bfi u d a pos len => Sys2Proof.Machine.execBfi u d a pos len s
  | .brev u d a => Sys2Proof.Machine.execBrev u d a s
  | .bswap u d a => Sys2Proof.Machine.execBswap u d a s
  | .li u d imm => Sys2Proof.Machine.execLi u d imm s
  | .lih u d imm => Sys2Proof.Machine.execLih u d imm s
  | .mov u d a => Sys2Proof.Machine.execMov u d a s
  | .sel u d a b c => Sys2Proof.Machine.execSel u d a b c s
  | .extI u d a n => Sys2Proof.Machine.execExtI u d a n s
  | .extN u d a n => Sys2Proof.Machine.execExtN u d a n s
  | .cmp u cc d a b => Sys2Proof.Machine.execCmp u cc d a b s
  | .cmpImm u cc d a imm => Sys2Proof.Machine.execCmpImm u cc d a imm s
  | .pand u d a b => Sys2Proof.Machine.execPand u d a b s
  | .por u d a b => Sys2Proof.Machine.execPor u d a b s
  | .pxor u d a b => Sys2Proof.Machine.execPxor u d a b s
  | .pnot u d a => Sys2Proof.Machine.execPnot u d a s
  | .pmov u d a => Sys2Proof.Machine.execPmov u d a s
  | .br u imm => Sys2Proof.Machine.execBr u imm s
  | .j u imm => Sys2Proof.Machine.execJ u imm s
  | .jal u d imm => Sys2Proof.Machine.execJal u d imm s
  | .jr u a => Sys2Proof.Machine.execJr u a s
  | .jtab u a len base => Sys2Proof.Machine.execJtab u a len base s
  | .loop u d imm => Sys2Proof.Machine.execLoop u d imm s
  | .sig u imm => Sys2Proof.Machine.execSig u imm s
  | .nop u => Sys2Proof.Machine.execNop u s
  | .brk u imm => Sys2Proof.Machine.execBrk u imm s
  | .trap u imm => Sys2Proof.Machine.execTrap u imm s
  | .done u => Sys2Proof.Machine.execDone u s
  | .commit u => Sys2Proof.Machine.execCommit u s
  | .abort u drop => Sys2Proof.Machine.execAbort u drop s
  | .fadd u ty rm d a b => Sys2Proof.Machine.execFadd u ty rm d a b s
  | .fsub u ty rm d a b => Sys2Proof.Machine.execFsub u ty rm d a b s
  | .fmul u ty rm d a b => Sys2Proof.Machine.execFmul u ty rm d a b s
  | .fdiv u ty rm d a b => Sys2Proof.Machine.execFdiv u ty rm d a b s
  | .fma u ty rm d a b c => Sys2Proof.Machine.execFma u ty rm d a b c s
  | .fms u ty rm d a b c => Sys2Proof.Machine.execFms u ty rm d a b c s
  | .fnma u ty rm d a b c => Sys2Proof.Machine.execFnma u ty rm d a b c s
  | .fsqrt u ty rm d a => Sys2Proof.Machine.execFsqrt u ty rm d a s
  | .frcp u ty rm d a => Sys2Proof.Machine.execFrcp u ty rm d a s
  | .frsq u ty rm d a => Sys2Proof.Machine.execFrsq u ty rm d a s
  | .frnd u ty rm d a => Sys2Proof.Machine.execFrnd u ty rm d a s
  | .fmin u ty d a b => Sys2Proof.Machine.execFmin u ty d a b s
  | .fmax u ty d a b => Sys2Proof.Machine.execFmax u ty d a b s
  | .fabs u ty d a => Sys2Proof.Machine.execFabs u ty d a s
  | .fneg u ty d a => Sys2Proof.Machine.execFneg u ty d a s
  | .fclass u ty d a => Sys2Proof.Machine.execFclass u ty d a s
  | .fscale u ty rm d a b => Sys2Proof.Machine.execFscale u ty rm d a b s
  | .fcvt u k rm d a => Sys2Proof.Machine.execFcvt u k rm d a s
  | .fcmp u cc ty d a b => Sys2Proof.Machine.execFcmp u cc ty d a b s
  | .vbcast u d a => Sys2Proof.Machine.execVbcast u d a s
  | .vext u d a b k => Sys2Proof.Machine.execVext u d a b k s
  | .vins u d a b k => Sys2Proof.Machine.execVins u d a b k s
  | .vperm u d a b => Sys2Proof.Machine.execVperm u d a b s
  | .vshift u d a b imm => Sys2Proof.Machine.execVshift u d a b imm s
  | .vcompress u d a b => Sys2Proof.Machine.execVcompress u d a b s
  | .vexpand u d a b => Sys2Proof.Machine.execVexpand u d a b s
  | .vpopc u d a => Sys2Proof.Machine.execVpopc u d a s
  | .vlane u d => Sys2Proof.Machine.execVlane u d s
  | .vred u op d a => Sys2Proof.Machine.execVred u op d a s
  | .vscan u op d a => Sys2Proof.Machine.execVscan u op d a s
  | .ld u k d a imm => Sys2Proof.Machine.execLd u k d a imm s
  | .st u k a b imm => Sys2Proof.Machine.execSt u k a b imm s
  | .ldv u d a imm => Sys2Proof.Machine.execLdv u d a imm s
  | .stv u a b imm => Sys2Proof.Machine.execStv u a b imm s
  | .ldvx u d a b imm => Sys2Proof.Machine.execLdvx u d a b imm s
  | .stvx u a b c imm => Sys2Proof.Machine.execStvx u a b c imm s
  | .pref u a imm => Sys2Proof.Machine.execPref u a imm s
  | .atom u op w d a b imm => Sys2Proof.Machine.execAtom u op w d a b imm s
  | .cas u w d a b c imm => Sys2Proof.Machine.execCas u w d a b c imm s
  | .alrB u a imm => Sys2Proof.Machine.execAlrB u a imm s
  | .alrE u => Sys2Proof.Machine.execAlrE u s
  | .fence u => Sys2Proof.Machine.execFence u s
  | .fenceSc u => Sys2Proof.Machine.execFenceSc u s
  | .ifence u => Sys2Proof.Machine.execIfence u s
  | .cadd u a b imm => Sys2Proof.Machine.execCadd u a b imm s
  | .cread u e d a => Sys2Proof.Machine.execCread u e d a s
  | .cwait u d a b ch imm => Sys2Proof.Machine.execCwait u d a b ch imm s
  | .cerr u a code => Sys2Proof.Machine.execCerr u a code s
  | .cinit u a b code => Sys2Proof.Machine.execCinit u a b code s
  | .send u a b n ch => Sys2Proof.Machine.execSend u a b n ch s
  | .reply u a b n ch => Sys2Proof.Machine.execReply u a b n ch s
  | .peek u d m w => Sys2Proof.Machine.execPeek u d m w s
  | .spawn u d a b c imm => Sys2Proof.Machine.execSpawn u d a b c imm s
  | .fork u q a b c imm => Sys2Proof.Machine.execFork u q a b c imm s
  | .pause u n => Sys2Proof.Machine.execPause u n s
  | .chmask u a op => Sys2Proof.Machine.execChmask u a op s
  | .chstat u d ch => Sys2Proof.Machine.execChstat u d ch s
  | .sysc u imm => Sys2Proof.Machine.execSysc u imm s
  | .mzero u sl => Sys2Proof.Machine.execMzero u sl s
  | .mlda u pa a b => Sys2Proof.Machine.execMlda u pa a b s
  | .mldb u bw a b => Sys2Proof.Machine.execMldb u bw a b s
  | .gang u a => Sys2Proof.Machine.execGang u a s
  | .mma u pa sl bw a b c => Sys2Proof.Machine.execMma u pa sl bw a b c s
  | .mst u sl a imm => Sys2Proof.Machine.execMst u sl a imm s
  | .mquant u fmt lay loc a b c k => Sys2Proof.Machine.execMquant u fmt lay loc a b c k s
  | .maxbar u d a b => Sys2Proof.Machine.execMaxbar u d a b s
  | .mscale u sl a => Sys2Proof.Machine.execMscale u sl a s
  | .mstat u d sel => Sys2Proof.Machine.execMstat u d sel s
  | .job u a => Sys2Proof.Machine.execJob u a s
  | .wptr u d a => Sys2Proof.Machine.execWptr u d a s
  | .gath u a => Sys2Proof.Machine.execGath u a s
  | .scat u a => Sys2Proof.Machine.execScat u a s
  | .gbar u a b => Sys2Proof.Machine.execGbar u a b s
  | .gmcast u a b n ch => Sys2Proof.Machine.execGmcast u a b n ch s
  | .ldnear u a => Sys2Proof.Machine.execLdnear u a s
  | .stvec u a => Sys2Proof.Machine.execStvec u a s
  | .delvec u a => Sys2Proof.Machine.execDelvec u a s
  | .ixsnap u a => Sys2Proof.Machine.execIxsnap u a s
  | .ixrel u a => Sys2Proof.Machine.execIxrel u a s
  | .ixstat u a => Sys2Proof.Machine.execIxstat u a s
  | .ixcfg u a => Sys2Proof.Machine.execIxcfg u a s
  | .ixcent u a => Sys2Proof.Machine.execIxcent u a s
  | .rsplit u a b ctr => Sys2Proof.Machine.execRsplit u a b ctr s
  | .rmerge u a b ctr => Sys2Proof.Machine.execRmerge u a b ctr s
  | .rinval u reach a ctr => Sys2Proof.Machine.execRinval u reach a ctr s
  | .rprobe u d a => Sys2Proof.Machine.execRprobe u d a s
  | .runpin u a => Sys2Proof.Machine.execRunpin u a s
  | .rquery u a b => Sys2Proof.Machine.execRquery u a b s
  | .rres u a b c ctr => Sys2Proof.Machine.execRres u a b c ctr s
  | .rcompact u a b ctr => Sys2Proof.Machine.execRcompact u a b ctr s
  | .pmake u d a ctr => Sys2Proof.Machine.execPmake u d a ctr s
  | .post u a b ch ctr => Sys2Proof.Machine.execPost u a b ch ctr s
  | .ldp u d a imm => Sys2Proof.Machine.execLdp u d a imm s
  | .stp u a b imm => Sys2Proof.Machine.execStp u a b imm s
  | .pstat u d a => Sys2Proof.Machine.execPstat u d a s
  | .pfree u a ctr => Sys2Proof.Machine.execPfree u a ctr s
  | .csrr u d csr => Sys2Proof.Machine.execCsrr u d csr s
  | .csrw u a csr => Sys2Proof.Machine.execCsrw u a csr s
  | .sret u a b c => Sys2Proof.Machine.execSret u a b c s
  | .ctxsave u a b ctr => Sys2Proof.Machine.execCtxsave u a b ctr s
  | .ctxload u a b ctr => Sys2Proof.Machine.execCtxload u a b ctr s
  | .wdset u a => Sys2Proof.Machine.execWdset u a s
  | .prio u a ch => Sys2Proof.Machine.execPrio u a ch s
  | .halt u a op => Sys2Proof.Machine.execHalt u a op s
  | .scrub u a b => Sys2Proof.Machine.execScrub u a b s
  | .errpop u d a b => Sys2Proof.Machine.execErrpop u d a b s
  | .cap u d a => Sys2Proof.Machine.execCap u d a s
  | .launch h b => Sys2Proof.Machine.execLaunch h b s
  | .resync h => Sys2Proof.Machine.execResync h s
  | .attest h nonce => Sys2Proof.Machine.execAttest h nonce s
  | .capread h off => Sys2Proof.Machine.execCapread h off s
  | .errlog h level ctx most => Sys2Proof.Machine.execErrlog h level ctx most s
  | .reserve h link table => Sys2Proof.Machine.execReserve h link table s
  | .hbmscrub h hours => Sys2Proof.Machine.execHbmscrub h hours s
  | .rekey h link => Sys2Proof.Machine.execRekey h link s
  | .inject h core chan cls ctx words => Sys2Proof.Machine.execInject h core chan cls ctx words s
  | .endctx h ctx => Sys2Proof.Machine.execEndctx h ctx s
  | .devnumWrite n => Sys2Proof.Machine.execDevnumWrite n s
  | .hostRegisterWrite off v => Sys2Proof.Machine.execHostRegisterWrite off v s
  | .powerOn images => Sys2Proof.Machine.execPowerOn images s
  | .linkTraining link => Sys2Proof.Machine.execLinkTraining link s
  | .messageArrival n => Sys2Proof.Machine.execMessageArrival n s
  | .activationBind core => Sys2Proof.Machine.execActivationBind core s
  | .budgetExpired core slot => Sys2Proof.Machine.execBudgetExpired core slot s
  | .injectionForward core n => Sys2Proof.Machine.execInjectionForward core n s
  | .forkEnterBank core n => Sys2Proof.Machine.execForkEnterBank core n s
  | .quinceDispatch die bank => Sys2Proof.Machine.execQuinceDispatch die bank s
  | .spawnRequestArrival core slot id => Sys2Proof.Machine.execSpawnRequestArrival core slot id s
  | .coreQuiescent core => Sys2Proof.Machine.execCoreQuiescent core s
  | .caddPerformed core n => Sys2Proof.Machine.execCaddPerformed core n s
  | .cerrPerformed core n => Sys2Proof.Machine.execCerrPerformed core n s
  | .cinitPerformed core n => Sys2Proof.Machine.execCinitPerformed core n s
  | .counterWake cluster n => Sys2Proof.Machine.execCounterWake cluster n s
  | .loadReply core slot id src => Sys2Proof.Machine.execLoadReply core slot id src s
  | .rangeWalk die n => Sys2Proof.Machine.execRangeWalk die n s
  | .storeEntryPerformed core n => Sys2Proof.Machine.execStoreEntryPerformed core n s
  | .poolBankWrite core => Sys2Proof.Machine.execPoolBankWrite core s
  | .commitDrainEnd core slot => Sys2Proof.Machine.execCommitDrainEnd core slot s
  | .shadowFold ctx => Sys2Proof.Machine.execShadowFold ctx s
  | .oobEvent ctx => Sys2Proof.Machine.execOobEvent ctx s
  | .contextCsrArrival ctx => Sys2Proof.Machine.execContextCsrArrival ctx s
  | .matrixOpPerformed core => Sys2Proof.Machine.execMatrixOpPerformed core s
  | .gangArrival core => Sys2Proof.Machine.execGangArrival core s
  | .gangJoin leader => Sys2Proof.Machine.execGangJoin leader s
  | .gangTimeout leader => Sys2Proof.Machine.execGangTimeout leader s
  | .mmaStepComplete leader badBlock => Sys2Proof.Machine.execMmaStepComplete leader badBlock s
  | .maxbarRoundComplete ctx grp => Sys2Proof.Machine.execMaxbarRoundComplete ctx grp s
  | .maxbarTimeout ctx grp => Sys2Proof.Machine.execMaxbarTimeout ctx grp s
  | .gbarArrival core => Sys2Proof.Machine.execGbarArrival core s
  | .gbarRelease ctx grp => Sys2Proof.Machine.execGbarRelease ctx grp s
  | .gbarTimeout ctx grp => Sys2Proof.Machine.execGbarTimeout ctx grp s
  | .jobArrival die n => Sys2Proof.Machine.execJobArrival die n s
  | .copyJobComplete die n => Sys2Proof.Machine.execCopyJobComplete die n s
  | .distributorJobComplete die n => Sys2Proof.Machine.execDistributorJobComplete die n s
  | .brambleJobComplete die n => Sys2Proof.Machine.execBrambleJobComplete die n s
  | .gatherKernel die n => Sys2Proof.Machine.execGatherKernel die n s
  | .gatherJobComplete die n => Sys2Proof.Machine.execGatherJobComplete die n s
  | .indexArrivalStep die n => Sys2Proof.Machine.execIndexArrivalStep die n s
  | .indexWorkStep die n engine => Sys2Proof.Machine.execIndexWorkStep die n engine s
  | .indexReclaim ctx vbase => Sys2Proof.Machine.execIndexReclaim ctx vbase s
  | .directoryUpdate ctx => Sys2Proof.Machine.execDirectoryUpdate ctx s
  | .rinvalComplete ctx n => Sys2Proof.Machine.execRinvalComplete ctx n s
  | .pstatArrival core slot id => Sys2Proof.Machine.execPstatArrival core slot id s
  | .compactionComplete die => Sys2Proof.Machine.execCompactionComplete die s
  | .parcelPurgeComplete n => Sys2Proof.Machine.execParcelPurgeComplete n s
  | .parcelPlacement p => Sys2Proof.Machine.execParcelPlacement p s
  | .parcelArrivalComplete n => Sys2Proof.Machine.execParcelArrivalComplete n s
  | .parcelAccepted n => Sys2Proof.Machine.execParcelAccepted n s
  | .parcelReturned n => Sys2Proof.Machine.execParcelReturned n s
  | .sretPerformed core n => Sys2Proof.Machine.execSretPerformed core n s
  | .haltPerformed core n => Sys2Proof.Machine.execHaltPerformed core n s
  | .ctxsavePerformed core n => Sys2Proof.Machine.execCtxsavePerformed core n s
  | .ctxloadPerformed core n => Sys2Proof.Machine.execCtxloadPerformed core n s
  | .peerAccessArrival p => Sys2Proof.Machine.execPeerAccessArrival p s
  | .pipelineCheckFailure core slot k => Sys2Proof.Machine.execPipelineCheckFailure core slot k s
  | .scrubSweep ctx finds => Sys2Proof.Machine.execScrubSweep ctx finds s
  | .permitAudit die reads => Sys2Proof.Machine.execPermitAudit die reads s
  | .msgStall core => Sys2Proof.Machine.execMsgStall core s
  | .coreMap core => Sys2Proof.Machine.execCoreMap core s
  | .coreLost core => Sys2Proof.Machine.execCoreLost core s
  | .vcLimitRecompute link => Sys2Proof.Machine.execVcLimitRecompute link s
  | .creditLimitFlit link vc limit => Sys2Proof.Machine.execCreditLimitFlit link vc limit s
  | .frameSlotSend link => Sys2Proof.Machine.execFrameSlotSend link s
  | .cellReceive link head payload tail => Sys2Proof.Machine.execCellReceive link head payload tail s
  | .nakReceive link lseq => Sys2Proof.Machine.execNakReceive link lseq s
  | .linkAckReceive link lseq => Sys2Proof.Machine.execLinkAckReceive link lseq s
  | .endToEndAckReceive dev eseq => Sys2Proof.Machine.execEndToEndAckReceive dev eseq s
  | .endToEndTimer dev eseq => Sys2Proof.Machine.execEndToEndTimer dev eseq s
  | .pathAbandon dev => Sys2Proof.Machine.execPathAbandon dev s
  | .pathReset dev => Sys2Proof.Machine.execPathReset dev s
  | .eseqExhausted dev => Sys2Proof.Machine.execEseqExhausted dev s
  | .keyChangeStart link => Sys2Proof.Machine.execKeyChangeStart link s
  | .previousKeyDiscard link => Sys2Proof.Machine.execPreviousKeyDiscard link s
  | .authFailureRetrain link => Sys2Proof.Machine.execAuthFailureRetrain link s
  | .wavelengthDark link wave => Sys2Proof.Machine.execWavelengthDark link wave s
  | .restripeFlit link mask => Sys2Proof.Machine.execRestripeFlit link mask s
  | .linkDown link => Sys2Proof.Machine.execLinkDown link s
  | .thermalThrottle die up => Sys2Proof.Machine.execThermalThrottle die up s
  | .maxbarContribution core slot id => Sys2Proof.Machine.execMaxbarContribution core slot id s
  | .cwaitReservation core slot id => Sys2Proof.Machine.execCwaitReservation core slot id s
  | .recordBufferSend fromDie n => Sys2Proof.Machine.execRecordBufferSend fromDie n s
  | .fabricCreditReturn link vc => Sys2Proof.Machine.execFabricCreditReturn link vc s
  | .saddleLaneReplace saddle => Sys2Proof.Machine.execSaddleLaneReplace saddle s

end Sys2Proof.Machine
end

