-- ==== Sys2Proof/Machine/Schedule.lean ====
section
/-! DEFINITION. Time and turns: the issue ports and the slots they choose (R31), cycles passing (log 4), what is due before
a cycle ends, which steps are enabled when the agenda is empty (log 3). -/

namespace Sys2Proof.Machine

/-- A step that may be taken. -/
abbrev Event := State → Out

/-- Whether a slot may issue: occupied, waiting for nothing, past the cycles that follow binding, its budget not spent,
its core not failed (R30, R36, R318). -/
def State.ready (s : State) (c k : Nat) : Bool :=
  match s.slot c k with
  | none => false
  | some sl => decide (sl.hold = .ready) && decide (sl.lead = 0) && decide (sl.budget ≠ some 0) && !(s.core c).failed

/-! ## Pairs (R31, R67) -/

/-- The registers an instruction writes; x0 is never written (R70). -/
def instrWrites (i : Instr) : List Reg :=
  if i.writesReg then (i.fields.map Fields.d).toList.filter (fun r => decide (r ≠ 0)) else []

/-- The registers an instruction reads that fields A and B do not name: register C, D where its old value counts, the registers
after B or C that a message or a child takes its words from. -/
def moreReads : Instr → List Reg
  | .sel _ _ _ _ c | .fma _ _ _ _ _ _ c | .fms _ _ _ _ _ _ c | .fnma _ _ _ _ _ _ c | .stvx _ _ _ c _ | .cas _ _ _ _ _ c _
  | .mma _ _ _ _ _ _ c | .mquant _ _ _ _ _ _ c _ | .rres _ _ _ c _ | .sret _ _ _ c => [c]
  | .spawn _ _ _ _ c _ | .fork _ _ _ _ c _ => (List.range 4).map (fun i => c + BitVec.ofNat 6 i)
  | .send _ _ b n _ | .reply _ _ b n _ | .gmcast _ _ b n _ => (List.range n.toNat).map (fun i => b + BitVec.ofNat 6 i)
  | .bfi _ d _ _ _ | .lih _ d _ | .loop _ d _ => [d]
  | _ => []

/-- The registers an instruction reads, its predicate among them. -/
def instrReads (i : Instr) : List Reg :=
  (match i.fields with | some f => [f.a, f.b] | none => []) ++ moreReads i ++ [48 + i.ctl.pr.setWidth 6]

/-- Whether the second instruction of a pair reads the first one's destination, or both write one register (R67). -/
def pairDepends (i j : Instr) : Bool := (instrWrites i).any (fun r => (instrReads j).contains r || (instrWrites j).contains r)

/-- Whether the instruction at the slot's PC is the first of a pair that issues in one cycle (Table 4.2, R67). -/
def Slot.joint (sl : Slot) : Bool :=
  match sl.line with
  | none => false
  | some (_, bs) =>
    let n := sl.pc.toNat % 64 / 12
    decide (n < 4) && linePt (leNat bs) n && (match decode (lineSlot (leNat bs) n), decode (lineSlot (leNat bs) (n + 1)) with
      | .ok i, .ok j => !pairDepends i j
      | .ok _, .error _ => true
      | .error _, _ => false)

/-- What an issue comes to: its port, as whether it is the M port, whether it is the first of a pair that issues in one cycle,
and its outcome. -/
structure Issue where
  port : Bool
  both : Bool
  out : Out

/-- What an issue of slot `k` of core `c` comes to: the decoded instruction runs, or the trap that stands before it is taken,
which takes the A port (log 99). -/
def State.issueOf (s : State) (c k : Nat) : Option Issue :=
  if !s.ready c k then none
  else match s.fetch c k with
    | .none => none
    | .trap pc t s1 => some { port := false, both := false, out := .next (s1.fetchTrap c k pc t) }
    | .instr i s1 => some { port := (instrPortM i).getD true, both := (s1.slot c k).any Slot.joint, out := exec i { s1 with cur := (c, k) } }

/-- The port for which slot `k` of core `c` is ready, and whether a pair stands there: its next instruction does something
there, and does not wait. -/
def State.portOf (s : State) (c k : Nat) : Option (Bool × Bool) :=
  (s.issueOf c k).bind (fun x => match x.out with
    | .next t => if t.slot c k = s.slot c k then none else some (x.port, x.both)
    | _ => some (x.port, x.both))

/-! ## Issue ports (R31) -/

/-- Whether a port of the core has issued in this cycle. -/
def Core.portUsed (co : Core) (p : Bool) : Bool := co.issued.any (fun e => e.1 == p)
/-- Whether slot `k` has issued in this cycle, and its next instruction is not the second of the pair. -/
def Core.spent (co : Core) (k : Nat) (sl : Slot) : Bool := !sl.pair && co.issued.any (fun e => decide (e.2 = k))
/-- The slot that a port chose last. -/
def Core.turn (co : Core) (p : Bool) : Nat := if p then co.turnM else co.turnA

/-- Whether the slot's issue is late (R31). -/
def Slot.late? (sl : Slot) : Bool := decide (lateIssue ≤ sl.waited)
/-- Whether the slot issues at normal priority: it does not pause, or its issue is late (R31, R150). -/
def Slot.normal (sl : Slot) : Bool := decide (sl.paused = 0) || sl.late?

/-- The slot whose next instruction is the second of a pair whose first has issued in this cycle, and is ready on port `p`:
it has the port (R31). -/
def State.middle (s : State) (c : Nat) (p : Bool) : Option Nat :=
  (List.range 8).find? (fun k => (s.slot c k).any Slot.pair && decide ((s.portOf c k).map Prod.fst = some p))

/-- Whether a slot's late issue waits for port `p`. -/
def State.lateFor (s : State) (c : Nat) (p : Bool) : Bool :=
  (List.range 8).any (fun k => match s.slot c k with
    | none => false
    | some sl => sl.late? && !(s.core c).spent k sl && decide (s.portOf c k = some (p, false)))

/-- Whether slot `k` stands for port `p` in this cycle. A pair that issues in one cycle stands for port A, whose choice takes
port M with it, and only while that is free and owed to no other slot (R31; log 99). -/
def State.wants (s : State) (c : Nat) (p : Bool) (k : Nat) : Bool :=
  match s.slot c k with
  | none => false
  | some sl => !(s.core c).spent k sl && (match s.portOf c k with
    | none => false
    | some (q, false) => q == p
    | some (_, true) => !p && !(s.core c).portUsed true && (s.middle c true).isNone && (sl.late? || !s.lateFor c true))

/-- Whether slot `j` comes before slot `k` on a port that chose slot `t` last: by priority, then round-robin. -/
def State.before (s : State) (c t j k : Nat) : Bool :=
  let n (x : Nat) : Bool := ((s.slot c x).map Slot.normal).getD false
  (n j && !n k) || (n j == n k && decide ((j + 7 - t) % 8 < (k + 7 - t) % 8))

/-- The slot that is first in turn for port `p`. -/
def State.first (s : State) (c : Nat) (p : Bool) : Option Nat :=
  ((List.range 8).filter (s.wants c p)).find? (fun k =>
    !(List.range 8).any (fun j => decide (j ≠ k) && s.before c ((s.core c).turn p) j k && s.wants c p j))

/-- Whether a pair stands at slot `k` that issues in one cycle. -/
def State.bothOf (s : State) (c k : Nat) : Bool := decide ((s.portOf c k).map Prod.snd = some true)

/-- The slot that port `p` of core `c` chooses: one in the middle of a pair, the pair that port A has chosen, or the one first in
turn (R31). -/
def State.portChoice (s : State) (c : Nat) (p : Bool) : Option Nat :=
  match s.middle c p with
  | some k => some k
  | none => match (if (s.core c).portUsed false then none else s.first c false).filter (s.bothOf c) with
    | some k => some k
    | none => s.first c p

/-- Whether the ports choose another slot than `k`, which is to issue on port `p`. -/
def State.yields (s : State) (c : Nat) (p : Bool) (k : Nat) : Bool :=
  (s.portChoice c (p && !s.bothOf c k)).any (fun j => decide (j ≠ k))

/-- Notes the issue of slot `k` on port `p`: the port is used in this cycle and the next round starts after the slot; `old`
is the slot before. The second of a pair follows in the same cycle, and both ports have then chosen the slot. -/
def State.noteIssue (s : State) (c k : Nat) (p : Bool) (old : Option Slot) : State :=
  let both : Bool := match old, s.slot c k with
    | some o, some sl => decide (sl.pc = o.pc + 12) && { o with line := sl.line }.joint
    | _, _ => false
  (s.modCore c (fun co => { co with
    issued := co.issued ++ [(p, k)], turnA := if p && !both then co.turnA else k, turnM := if p || both then k else co.turnM })).modSlot c k
    (fun sl => match old with
      | none => sl
      | some o => { sl with waited := if sl.pc = o.pc then sl.waited else 0, pair := both })

/-- Slot `k` of core `c` issues on a port that is free. -/
def issueNow (c k : Nat) (s : State) : Out :=
  match s.issueOf c k with
  | none => .next s
  | some x => match x.out with
    | .next t => .next (t.noteIssue c k x.port (s.slot c k))
    | o => o

/-- Whether port `p` is free and owes an issue in this cycle: to a slot in the middle of a pair, or to a late one (R31). -/
def State.lateOn (s : State) (c : Nat) (p : Bool) : Bool :=
  !(s.core c).portUsed p && ((s.middle c p).isSome || (List.range 8).any (fun k => match s.slot c k with
    | none => false
    | some sl => sl.late? && s.wants c p k))

/-! ## Cycles -/

/-- `n` cycles pass for an activation: its budget falls unless it is parked, its pause runs out, and it has waited for
them if its next instruction was ready (R30, R31, R36, R271). -/
def Slot.pass (n : Nat) (waits : Bool) (sl : Slot) : Slot :=
  { sl with budget := if sl.hold = .parked then sl.budget else sl.budget.map (· - n), paused := sl.paused - n,
            lead := sl.lead - n, pair := false,
            waited := if sl.lead ≠ 0 then sl.waited else if waits then sl.waited + n else 0 }

/-- `n` cycles pass for a core: its ports and its selector start again, and it has withheld request credits since the
cycle from which it has had no room (R29, R31, R276). `waits k` says whether slot `k` is ready. -/
def Core.pass (n cycle : Nat) (waits : Nat → Bool) (co : Core) : Core :=
  { co with slots := co.slots.map (fun f => (f.1, f.2.map (Slot.pass n (waits f.1)))), issued := [], chose := false,
            stallSince := if co.withholds false then some (co.stallSince.getD cycle) else none }

/-- `n` cycles pass (log 4). -/
def State.pass (n : Nat) (s : State) : State :=
  { s with cycle := s.cycle + n
           cores := s.cores.map (fun e => (e.1, e.2.pass n s.cycle (fun k => (s.portOf e.1 k).isSome))) }

/-- Whether the selector of core `c` has a binding to make in this cycle (R29, R269). -/
def State.binds (s : State) (c : Nat) : Bool := (s.core c).mayBind && (s.core c).select.isSome

/-- The budgets that have expired end their spans before anything else (R36); a drain that has ended comes first. -/
def State.expiries (s : State) : List Event :=
  s.cores.flatMap (fun e => e.2.slots.filterMap (fun f => match f.2 with
    | some sl =>
      if sl.budget = some 0 ∧ sl.hold ≠ .parked then
        some (if sl.hold = .drain ∧ s.drainOver e.1 sl then execCommitDrainEnd e.1 f.1 else execBudgetExpired e.1 f.1)
      else none
    | none => none))

/-- The bindings of this cycle (R29, R269). -/
def State.bindings (s : State) : List Event :=
  s.cores.filterMap (fun e => if s.binds e.1 then some (execActivationBind e.1) else none)

/-- The links whose limits are to be computed in this cycle (R280). -/
def State.computations (s : State) : List Event := ((List.range 63).filter s.limitsDue).map execVcLimitRecompute

/-- The frame slots that carry announcements whose 64 cycles are over (R281). -/
def State.announcements (s : State) : List Event :=
  ((List.range 63).filter (fun n => let l := s.link n; l.up && l.flits.any Flit.isLimit && decide (l.rxSince + 64 ≤ s.cycle))).map
    execFrameSlotSend

/-- The issues that the ports owe in this cycle (R31). -/
def State.lates (s : State) : List Event :=
  s.cores.flatMap (fun e => [false, true].filterMap (fun p =>
    if s.lateOn e.1 p then (s.portChoice e.1 p).map (fun k => issueNow e.1 k) else none))

/-- The cores that are quiescent say so in this cycle: the bound of R272 holds (R37, R45). -/
def State.quiets (s : State) : List Event :=
  s.cores.filterMap (fun e => if e.2.quiescent && !e.2.quietSent then some (execCoreQuiescent e.1) else none)

/-- Whether a core that has failed at run time is to be mapped or lost (R318). -/
def State.mapsNow (s : State) (c : Nat) : Bool :=
  decide (c < 8192) && (s.core c).failed && !(s.core c).lost && (s.core c).ctx.isSome && (s.losing c || s.coreDrained c)

/-- The failed cores that are mapped to their spares or lost in this cycle (R318). -/
def State.mappings (s : State) : List Event :=
  s.cores.filterMap (fun e => if s.mapsNow e.1 then some (if s.losing e.1 then execCoreLost e.1 else execCoreMap e.1) else none)

/-- What must happen before this cycle ends. -/
def State.due (s : State) : List Event := s.mappings ++ s.expiries ++ s.bindings ++ s.quiets ++ s.computations ++ s.announcements ++ s.lates

/-- The cycles that may pass before a slot has something due. -/
def State.slotSlack (s : State) (c k : Nat) (sl : Slot) : Nat :=
  let b := if sl.hold = .parked then 2 ^ 64 else sl.budget.getD (2 ^ 64)
  let r := if sl.lead ≠ 0 then sl.lead else
    match s.portOf c k with
    | none => 2 ^ 64
    | some (p, both) =>
      if sl.pair then 0
      else if sl.waited < lateIssue then lateIssue - sl.waited
      else if (s.core c).portUsed p || (both && (s.core c).portUsed (!p)) || (s.core c).spent k sl then 1 else 0
  min b r

/-- The cycles that may pass before a link's limits are to be computed or to be announced (R280, R281). -/
def State.linkSlack (s : State) : Nat :=
  s.fab.links.foldl (fun m e => if isLink e.1 && e.2.up then
      min m ((if e.2.flits.any Flit.isLimit then e.2.rxSince + 64 else e.2.rxSince + 1024) - s.cycle) else m) (2 ^ 64)

/-- The cycles that may pass, up to `n`, before something is due (R29, R31, R36). -/
def State.slack (s : State) (n : Nat) : Nat :=
  s.cores.foldl (fun m e =>
    let free := { e.2 with chose := false }
    let m := if e.2.failed && !e.2.lost && e.2.ctx.isSome then (if s.mapsNow e.1 then 0 else min m (s.drainEnd e.1 - s.cycle)) else m
    let b := if e.2.quiescent && !e.2.quietSent then 0
      else if free.mayBind && free.select.isSome then (if e.2.chose then 1 else 0) else m
    e.2.slots.foldl (fun m f => match f.2 with
      | some sl => min m (s.slotSlack e.1 f.1 sl)
      | none => m) (min m b)) (min n s.linkSlack)

/-- What is due first, with `a` to follow it; or, when nothing is due, `next`. -/
def State.orDue (s : State) (a : Act) (next : Out) : Out :=
  match s.due with
  | [] => next
  | e :: _ => e { s with agenda := a :: s.agenda }

/-- `n` cycles pass, with what falls due in them (log 3). -/
def passCycles (s : State) (n : Nat) : Out :=
  if n = 0 then .next s
  else
    let m := s.slack n
    if m = 0 then s.orDue (.wait n) (.next (s.pass n))
    else if m = n then .next (s.pass n)
    else .next (State.pass m { s with agenda := .wait (n - m) :: s.agenda })

/-- Slot `k` of core `c` is asked to issue: what the selector must bind on the core comes first, a port that has issued in
this cycle does so in the next, and where the port chooses another slot nothing happens (R31; log 3). -/
def issueSlot (s : State) (c k : Nat) : Out :=
  match s.slot c k, s.issueOf c k with
  | some sl, some x =>
    if s.binds c then execActivationBind c { s with agenda := .issue c k :: s.agenda }
    else if (s.core c).portUsed x.port || (x.both && (s.core c).portUsed (!x.port)) || (s.core c).spent k sl then
      s.orDue (.issue c k) (.next (State.pass 1 { s with agenda := .issue c k :: s.agenda }))
    else if s.yields c x.port k then .next s
    else match x.out with
      | .next t => .next (t.noteIssue c k x.port (some sl))
      | o => o
  | _, _ => .next s

/-- The issues that the ports of core `c` may make. -/
def State.issues (s : State) (c : Nat) : List Event :=
  [false, true].filterMap (fun p =>
    if (s.core c).portUsed p then none else (s.portChoice c p).map (fun k => issueNow c k))

/-- The events that may befall slot `k` of core `c`. -/
def Slot.events (sl : Slot) (c k : Nat) : List Event :=
  [execBudgetExpired c k, execCommitDrainEnd c k] ++ sl.loads.flatMap (fun l =>
    [execSpawnRequestArrival c k l.id, execCwaitReservation c k l.id, execPstatArrival c k l.id, execMaxbarContribution c k l.id,
     execLoadReply c k l.id .home])

/-- The event that performs a released entry. -/
def SOp.event (op : SOp) (c n : Nat) : Event :=
  match op with
  | .cadd .. => execCaddPerformed c n
  | .cerr .. => execCerrPerformed c n
  | .cinit .. => execCinitPerformed c n
  | .sret .. => execSretPerformed c n
  | .halt .. => execHaltPerformed c n
  | .ctxsave .. => execCtxsavePerformed c n
  | .ctxload .. => execCtxloadPerformed c n
  | _ => execStoreEntryPerformed c n

/-- The events that may befall core `c`. -/
def Core.events (co : Core) (c : Nat) : List Event :=
  [execActivationBind c, execCoreQuiescent c, execMsgStall c, execPoolBankWrite c, execMatrixOpPerformed c, execGangArrival c, execGbarArrival c,
   execRecordBufferSend false c] ++
  co.slots.flatMap (fun e => match e.2 with | some sl => sl.events c e.1 | none => []) ++
  co.inj.zipIdx.map (fun e => match e.1.op with | .fork .. => execForkEnterBank c e.2 | _ => execInjectionForward c e.2) ++
  co.released.zipIdx.map (fun e => e.1.e.op.event c e.2)

/-- The groups that a context's barrier rounds name. -/
def Ctx.events (x : Ctx) (k : Nat) : List Event :=
  [execShadowFold k, execOobEvent k, execContextCsrArrival k, execDirectoryUpdate k] ++
  (List.range x.purges.length).map (execRinvalComplete k ·) ++
  x.maxRounds.flatMap (fun g => [execMaxbarRoundComplete k g.1, execMaxbarTimeout k g.1]) ++
  x.gbarRounds.flatMap (fun g => [execGbarRelease k g.1, execGbarTimeout k g.1])

/-- The event that completes a job. -/
def Job.event (j : Job) (d n : Nat) : List Event :=
  match j.eng with
  | 1 => [execCopyJobComplete d n]
  | 2 => [execDistributorJobComplete d n]
  | 3 => [execBrambleJobComplete d n]
  | _ => [execGatherKernel d n, execGatherJobComplete d n]

/-- The events that may befall the units of a die. -/
def Die.events (x : Die) (d : Nat) : List Event :=
  [execCompactionComplete d, execRecordBufferSend true d] ++ x.banks.map (fun b => execQuinceDispatch d b.1) ++
  (List.range x.misses.length).map (execRangeWalk d ·) ++ x.jobs.zipIdx.flatMap (fun j => j.1.event d j.2) ++
  (List.range x.works.length).flatMap (fun n => (List.range 4).map (execIndexWorkStep d n ·))

/-- The event that takes something off the mesh. -/
def Flight.event (f : Flight) (n : Nat) : Event :=
  match f.op with
  | .job j => execJobArrival j.die n
  | .index _ die => execIndexArrivalStep die n
  | _ => execMessageArrival n

/-- The events of parcels that this device sends or receives. -/
def State.parcelEvents (s : State) : List Event :=
  s.xfers.zipIdx.flatMap (fun x => [execParcelPurgeComplete x.2] ++
    (if x.1.inTransit ∧ x.1.dev = s.mgmt.devnum.toNat then
      [execParcelPlacement (s.parcelOut x.1), execParcelAccepted x.2, execParcelReturned x.2] else [])) ++
  (List.range s.arrivals.length).map (execParcelArrivalComplete ·)

/-- The device events that may come of themselves; those whose conditions do not hold change nothing. -/
def State.events (s : State) : List Event :=
  s.cores.flatMap (fun e => e.2.events e.1) ++ s.ctxs.flatMap (fun e => e.2.events e.1) ++
  s.clusters.flatMap (fun e => (List.range e.2.waits.length).map (execCounterWake e.1 ·)) ++
  s.gangs.flatMap (fun e => [execGangJoin e.1, execGangTimeout e.1, execMmaStepComplete e.1 none]) ++
  s.dies.flatMap (fun e => e.2.events e.1) ++ s.flight.zipIdx.map (fun f => f.1.event f.2) ++ s.parcelEvents ++
  s.indexes.map (fun x => execIndexReclaim x.ctx x.vbase)

/-- Whether an event changes the state. -/
def State.changes (s : State) (e : Event) : Bool :=
  match e s with
  | .next t => decide (t ≠ s)
  | _ => true

/-- What units do of themselves and no row of the table names: entries leave their cores (R126), zero-length reads follow writes on
the host links (R323), slots fetch lines ahead or take them from an instruction cache (R81), jobs pin their ranges (R172),
compactions start moving (R296), the device takes commands from their ring (R324), cells without a route go (R328), handed cells
are done with (R331). -/
def State.inner (s : State) : List Event :=
  s.dies.flatMap (fun e => (if e.2.compactions = [] then [] else [fun t => .next (compactionStart e.1 t)]) ++
    (List.range e.2.jobs.length).map (fun n t => .next (jobStart e.1 n t))) ++
  (if s.mgmt.waiting = none ∧ s.mgmt.cqh = s.mgmt.cqt then [] else [fun t => .next (ringStep t)]) ++
  (if s.fab.out = [] then [] else [fun t => .next (unrouted t)]) ++
  s.fab.peers.filterMap (fun p => if p.2.handed = [] then none else some (fun t => .next (streamTaken p.1 t))) ++
  (if s.hostOut = [] then [] else [fun t => .next (hostRead 0 t), fun t => .next (hostRead 1 t)]) ++
  s.cores.flatMap (fun e => (List.range e.2.released.length).map (fun n t => .next (entryLeaves e.1 n t))) ++
  s.cores.flatMap (fun e => e.2.slots.flatMap (fun f => [fun t => .next (fetchAhead e.1 f.1 t), fun t => .next (fetchCached e.1 f.1 t)]))

/-- The steps that are enabled when nothing is scheduled: an expired budget before all else (R36), then the bindings of the
cycle (R269); then the issues of the ports, the device events, and, unless an issue is late, a cycle that passes. -/
def State.enabled (s : State) : List Event :=
  match s.mappings ++ s.expiries, s.bindings ++ s.quiets ++ s.computations ++ s.announcements with
  | e :: es, _ => e :: es
  | [], b :: bs => b :: bs
  | [], [] => s.cores.flatMap (fun e => s.issues e.1) ++ (s.events ++ s.inner).filter s.changes ++
      (if s.lates = [] then [fun t => .next (t.pass 1)] else [])

/-- The step taken when nothing is scheduled: the only enabled one, or one of several by a free value (log 3). -/
def State.pick (s : State) : Event :=
  match s.enabled with
  | [] => fun t => .next (t.pass 1)
  | [e] => e
  | es => es.getD (Config.choose s.tick % es.length) (fun t => .next (t.pass 1))

/-- The host writes a byte of its own memory (R322). -/
def hostStore (s : State) (addr : Nat) (b : Byte) : Host.Outcome State Fault Refusal :=
  if addr < 0x7F0000000000 then .next (s.setByte (0x010000000000 + addr) b) else .fault .noHostMemory

end Sys2Proof.Machine
end

