-- ==== Sys2Proof/Machine/Step.lean ====
section
/-! DEFINITION. One step of the module: the head of the agenda, or, with nothing scheduled, one of the enabled steps
(log 3). -/

namespace Sys2Proof.Machine

/-- One entry of the agenda. -/
def runAct (a : Act) (s : State) : Host.Outcome State Fault Refusal :=
  match a with
  | .wait n => passCycles s n
  | .issue c k => issueSlot s c k
  | .take i => exec i s
  | .hostMem addr b => hostStore s addr b

/-- One step of the module. -/
def step (s : State) : Host.Outcome State Fault Refusal :=
  let s1 := { s with tick := s.tick + 1 }
  match s.agenda with
  | a :: rest => runAct a { s1 with agenda := rest }
  | [] => s.pick s1

/-- `s` with the instruction of bits `w` stored as the first slot of local code at offset 0 of core 0's pool, core 0 in
context 0 with slot 0 about to issue it, and that issue next on the agenda (log 5). -/
def State.withFetchWord (s : State) (_nbits w : Nat) : State :=
  let line := eccFill (w % 2 ^ 96 + 2 ^ (480 + 17))
  let s1 := s.modCore 0 (fun co => { co with
    ctx := some (co.ctx.getD 0), part := if partOk co.part then co.part else 0x88
    issued := [], turnA := 7, turnM := 7, chose := true
    slots := Sparse.modify none co.slots 0 (fun o => some { (o.getD { act := 1 }) with
      pc := 0x80000000, entry := none, task := none, line := none, ahead := [], hold := .ready, budget := none
      paused := 0, lead := 0, pair := false }) })
  let s2 := s1.modCtx (s1.coreCtx 0) (fun x => { x with live := true })
  let s3 := s2.setBytes ((List.range 64).map (fun i => (poolKey 0 i, BitVec.ofNat 8 (line / 256 ^ i))))
  let s4 := { s3 with poison := s3.poison.filter (fun e => !(decide (poolKey 0 0 ≤ e.1) && decide (e.1 < poolKey 0 64))) }
  { s4 with agenda := .issue 0 0 :: s.agenda }

end Sys2Proof.Machine
end

