-- ==== Sys2Proof/Safety.lean ====
section
/-! DEFINITION. The terms in which claims speak: canonical memory, a slot whose instruction takes effect, what an
instruction that only writes its slot leaves alone, and the values that the tables of the spec give. -/

namespace Sys2Proof.Machine

/-- The canonical form of memory: addresses strictly rising, no entry equal to what an unlisted address reads as. -/
def Memory.wf (m : List Host.Cell) : Bool := Sparse.wf 0 m

/-! ## When an instruction takes effect -/

/-- The instruction of the current slot takes effect on the slot `sl`: the tags that CT names have been consumed
without a fault, the predicate lets it act, its landing buffer has room, and no atomic line region is open. -/
structure Turn (s : State) (u : Ctl) (how : Under) (sl : Slot) : Prop where
  consumed : ∃ sl0, s.curSlot = some sl0 ∧ sl0.consume (Slot.tagsOf u.ct) = .done sl
  acts : sl.acts u how = true
  room : u.at' = 0 ∨ sl.landingFull u.at' = false
  noRegion : sl.region = none

/-! ## Frames -/

/-- Every byte of memory, and its poison, reads as before. -/
structure SameMem (s t : State) : Prop where
  byte : ∀ a, t.byte a = s.byte a
  poison : ∀ a, t.poisoned a = s.poisoned a

/-- Of the whole module only the slots of core `c` may differ, and of these only slot `k`. -/
structure OnlySlot (s t : State) (c k : Nat) : Prop where
  rest : t = { s with cores := t.cores }
  mem : SameMem s t
  others : ∀ c', c' ≠ c → t.core c' = s.core c'
  core : t.core c = { s.core c with slots := (t.core c).slots }
  slots : ∀ k', k' ≠ k → t.slot c k' = s.slot c k'

/-- Of the whole module only core `c` may differ. -/
structure OnlyCore (s t : State) (c : Nat) : Prop where
  rest : t = { s with cores := t.cores }
  mem : SameMem s t
  others : ∀ c', c' ≠ c → t.core c' = s.core c'

/-- Whether a result is written at once: no landing buffer and no later write point (R72, R74). -/
def atOnce (u : Ctl) : Bool := decide (u.at' = 0) && decide (u.pd = 0)

/-- `sl'` is `sl` after an instruction with fields `u` has retired with the register write `w`. Pending writes whose
time has come take effect; the destination of `w` alone has a new value, and only when the write is at once: otherwise
it waits in its landing buffer (AT ≠ 0) or for its write point (PD ≠ 0). A vector is written as one value, its lanes merged with
those of the register as it stood before (R73, R106); one without a lane changes nothing. x0 and p0 never change. The PC is the next slot's, the signature has folded the
instruction, and every other part of the slot is as it was. -/
structure Retired (i : Instr) (u : Ctl) (w : RegWrite) (sl sl' : Slot) : Prop where
  x : ∀ r, sl'.getX r = if atOnce u ∧ Reg.isX w.d ∧ w.d = r ∧ r ≠ 0 then w.x else sl.age.getX r
  v : ∀ r l, l < 16 → lane (sl'.getV r) l =
    if atOnce u ∧ Reg.isV w.d ∧ w.d = r ∧ w.mask ≠ 0 then (if w.mask.getLsbD l then lane w.lanes l else lane (sl.getV r) l)
    else lane (sl.age.getV r) l
  p : ∀ r, sl'.getP r = if atOnce u ∧ Reg.isPd w.d ∧ w.d = r then w.x.setWidth 16 else sl.age.getP r
  late : sl'.late = sl.age.late ++ (if u.at' = 0 ∧ u.pd ≠ 0 then [(u.pd.toNat, w.whole (sl.getV w.d))] else [])
  landing : sl'.landing = sl.landing ++
    (if u.at' ≠ 0 then [{ tag := u.at', pc := sl.pc, st := .ready (w.whole (sl.getV w.d)) }] else [])
  pc : sl'.pc = nextPc sl.pc
  sig : sl'.sig = foldSig sl.sig (sigRec i)
  rest : sl' = { sl with x := sl'.x, v := sl'.v, p := sl'.p, late := sl'.late, landing := sl'.landing, pc := sl'.pc,
                         sig := sl'.sig, entry := none, fails := 0 }

/-- `sl'` is `sl` after an instruction that writes no register has retired. -/
structure Advanced (i : Instr) (sl sl' : Slot) : Prop where
  pc : sl'.pc = nextPc sl.pc
  sig : sl'.sig = foldSig sl.sig (sigRec i)
  rest : sl' = { sl.age with pc := sl'.pc, sig := sl'.sig, entry := none, fails := 0 }

/-- The instruction completes by writing one register: the next state differs from `base` in the issuing slot alone. `from_` is the
slot after its operands have been read. -/
def WritesOver (i : Instr) (u : Ctl) (s base : State) (from_ : Slot) (w : RegWrite) : Prop :=
  ∃ t sl', exec i s = .next t ∧ OnlySlot base t s.cur.1 s.cur.2 ∧ t.curSlot = some sl' ∧ Retired i u w from_ sl'

/-- The same with nothing changed beside the slot. -/
def Writes (i : Instr) (u : Ctl) (s : State) (from_ : Slot) (w : RegWrite) : Prop := WritesOver i u s s from_ w

/-- The instruction completes without writing a register: the next state differs from `base` in the issuing slot alone. -/
def RetiresOver (i : Instr) (s base : State) (from_ : Slot) : Prop :=
  ∃ t sl', exec i s = .next t ∧ OnlySlot base t s.cur.1 s.cur.2 ∧ t.curSlot = some sl' ∧ Advanced i from_ sl'

/-- The same with nothing changed beside the slot. -/
def Retires (i : Instr) (s : State) (from_ : Slot) : Prop := RetiresOver i s s from_

/-! ## Tables 5.1 to 5.5 -/

/-- A second operand: a register, or a value given by the instruction. -/
inductive Second where
  | reg (b : Reg)
  | val (v : Word)
  deriving DecidableEq, Repr

/-- The value of a second operand, and the slot after it is read. -/
def Second.read (s : State) (sl : Slot) : Second → Word × Slot
  | .reg b => readSrc s sl b
  | .val v => (v, sl)

/-- Signed division of Table 5.1 and R89. -/
def quotient (a b : Word) : Word := if b = 0 then BitVec.allOnes 64 else BitVec.ofInt 64 (a.toInt.tdiv b.toInt)
/-- Unsigned division of Table 5.1 and R89. -/
def quotientN (a b : Word) : Word := if b = 0 then BitVec.allOnes 64 else BitVec.ofNat 64 (a.toNat / b.toNat)

/-- f(a, b) of Table 5.1, by the name of the operation. -/
inductive Alu where
  | add | sub | mul | mulhI | mulhN | divI | divN | remI | remN
  | and | or | xor | andn | shl | shr | sar | rol | minI | minN | maxI | maxN
  deriving DecidableEq, Repr

/-- The result of an operation of Table 5.1; a shift takes the low six bits of b (R90). -/
def Alu.result (op : Alu) (a b : Word) : Word :=
  let n := b.toNat % 64
  match op with
  | .add => BitVec.ofNat 64 (a.toNat + b.toNat)
  | .sub => BitVec.ofInt 64 (a.toInt - b.toInt)
  | .mul => BitVec.ofNat 64 (a.toNat * b.toNat)
  | .mulhI => BitVec.ofInt 64 ((a.toInt * b.toInt) >>> 64)
  | .mulhN => BitVec.ofNat 64 ((a.toNat * b.toNat) >>> 64)
  | .divI => quotient a b
  | .divN => quotientN a b
  | .remI => if b = 0 then a else a - b * quotient a b
  | .remN => if b = 0 then a else a - b * quotientN a b
  | .and => a &&& b
  | .or => a ||| b
  | .xor => a ^^^ b
  | .andn => a &&& ~~~b
  | .shl => BitVec.ofNat 64 (a.toNat * 2 ^ n)
  | .shr => BitVec.ofNat 64 (a.toNat / 2 ^ n)
  | .sar => BitVec.ofInt 64 (a.toInt >>> n)
  | .rol => a.rotateLeft n
  | .minI => if a.toInt ≤ b.toInt then a else b
  | .minN => if a.toNat ≤ b.toNat then a else b
  | .maxI => if a.toInt ≤ b.toInt then b else a
  | .maxN => if a.toNat ≤ b.toNat then b else a

/-- Whether the operation sets `ctx.idz` on a zero divisor (R89). -/
def Alu.divides : Alu → Bool
  | .divI | .divN | .remI | .remN => true
  | _ => false

/-- The instructions of R88 with their operands: register form and immediate form. -/
def aluForm : Instr → Option (Alu × Ctl × Reg × Reg × Second)
  | .add u d a b => some (.add, u, d, a, .reg b)
  | .sub u d a b => some (.sub, u, d, a, .reg b)
  | .mul u d a b => some (.mul, u, d, a, .reg b)
  | .mulhI u d a b => some (.mulhI, u, d, a, .reg b)
  | .mulhN u d a b => some (.mulhN, u, d, a, .reg b)
  | .divI u d a b => some (.divI, u, d, a, .reg b)
  | .divN u d a b => some (.divN, u, d, a, .reg b)
  | .remI u d a b => some (.remI, u, d, a, .reg b)
  | .remN u d a b => some (.remN, u, d, a, .reg b)
  | .and u d a b => some (.and, u, d, a, .reg b)
  | .or u d a b => some (.or, u, d, a, .reg b)
  | .xor u d a b => some (.xor, u, d, a, .reg b)
  | .andn u d a b => some (.andn, u, d, a, .reg b)
  | .shl u d a b => some (.shl, u, d, a, .reg b)
  | .shr u d a b => some (.shr, u, d, a, .reg b)
  | .sar u d a b => some (.sar, u, d, a, .reg b)
  | .rol u d a b => some (.rol, u, d, a, .reg b)
  | .minI u d a b => some (.minI, u, d, a, .reg b)
  | .minN u d a b => some (.minN, u, d, a, .reg b)
  | .maxI u d a b => some (.maxI, u, d, a, .reg b)
  | .maxN u d a b => some (.maxN, u, d, a, .reg b)
  | .addImm u d a imm => some (.add, u, d, a, .val (imm.signExtend 64))
  | .subImm u d a imm => some (.sub, u, d, a, .val (imm.signExtend 64))
  | .mulImm u d a imm => some (.mul, u, d, a, .val (imm.signExtend 64))
  | .mulhIImm u d a imm => some (.mulhI, u, d, a, .val (imm.signExtend 64))
  | .mulhNImm u d a imm => some (.mulhN, u, d, a, .val (imm.signExtend 64))
  | .divIImm u d a imm => some (.divI, u, d, a, .val (imm.signExtend 64))
  | .divNImm u d a imm => some (.divN, u, d, a, .val (imm.signExtend 64))
  | .remIImm u d a imm => some (.remI, u, d, a, .val (imm.signExtend 64))
  | .remNImm u d a imm => some (.remN, u, d, a, .val (imm.signExtend 64))
  | .andImm u d a imm => some (.and, u, d, a, .val (imm.signExtend 64))
  | .orImm u d a imm => some (.or, u, d, a, .val (imm.signExtend 64))
  | .xorImm u d a imm => some (.xor, u, d, a, .val (imm.signExtend 64))
  | .andnImm u d a imm => some (.andn, u, d, a, .val (imm.signExtend 64))
  | .shlImm u d a n => some (.shl, u, d, a, .val (n.setWidth 64))
  | .shrImm u d a n => some (.shr, u, d, a, .val (n.setWidth 64))
  | .sarImm u d a n => some (.sar, u, d, a, .val (n.setWidth 64))
  | .rolImm u d a n => some (.rol, u, d, a, .val (n.setWidth 64))
  | .minIImm u d a imm => some (.minI, u, d, a, .val (imm.signExtend 64))
  | .minNImm u d a imm => some (.minN, u, d, a, .val (imm.signExtend 64))
  | .maxIImm u d a imm => some (.maxI, u, d, a, .val (imm.signExtend 64))
  | .maxNImm u d a imm => some (.maxN, u, d, a, .val (imm.signExtend 64))
  | _ => none

/-- `r` is the result of a bit-field instruction of Table 5.3 on X[A] = `a` and X[D] = `old`, said bit by bit. -/
def BitField (i : Instr) (old a r : Word) : Prop :=
  match i with
  | .clz .. => ∃ n, n ≤ 64 ∧ r = BitVec.ofNat 64 n ∧ (∀ j, 64 - n ≤ j → a.getLsbD j = false) ∧
      (n < 64 → a.getLsbD (63 - n) = true)
  | .ctz .. => ∃ n, n ≤ 64 ∧ r = BitVec.ofNat 64 n ∧ (∀ j, j < n → a.getLsbD j = false) ∧ (n < 64 → a.getLsbD n = true)
  | .popc .. => r = BitVec.ofNat 64 ((List.range 64).map (fun j => (a.getLsbD j).toNat)).sum
  | .bfx _ _ _ pos len => ∀ j, j < 64 → r.getLsbD j = (decide (j < len.toNat) && a.getLsbD (pos.toNat + j))
  | .bfi _ _ _ pos len => ∀ j, j < 64 → r.getLsbD j =
      if pos.toNat ≤ j ∧ j < pos.toNat + len.toNat then a.getLsbD (j - pos.toNat) else old.getLsbD j
  | .brev .. => ∀ j, j < 64 → r.getLsbD j = a.getLsbD (63 - j)
  | .bswap .. => ∀ j, j < 64 → r.getLsbD j = a.getLsbD ((7 - j / 8) * 8 + j % 8)
  | _ => False

/-- The instructions of Table 5.3. -/
def bitForm : Instr → Option (Ctl × Reg × Reg)
  | .clz u d a | .ctz u d a | .popc u d a | .bfx u d a _ _ | .bfi u d a _ _ | .brev u d a | .bswap u d a => some (u, d, a)
  | _ => none

/-! ## Table 5.4 -/

/-- The low `n` bits of a value as a signed integer. -/
def signedLow (v n : Nat) : Int := Int.bmod v (2 ^ n)

/-- The instructions of Table 5.4 on the slot `sl`: fields and destination, the slot after its operands are read, the scalar value, and the
value of each lane. -/
def moveForm (s : State) (sl : Slot) : Instr → Option (Ctl × Reg × Slot × Word × (Nat → BitVec 32))
  | .li u d imm => some (u, d, sl, if Reg.isX d then imm.signExtend 64 else imm.setWidth 64, fun _ => imm)
  | .lih u d imm => some (u, d, sl, imm ++ (sl.getX d).setWidth 32, fun _ => 0)
  | .mov u d a => some (u, d, if Reg.isV d then sl else (readSrc s sl a).2, (readSrc s sl a).1, lane (sl.getV a))
  | .sel u d a b c => some (u, d, sl, if (sl.getP c).getLsbD 0 then sl.getX a else sl.getX b,
      fun l => if (sl.getP c).getLsbD l then lane (sl.getV a) l else lane (sl.getV b) l)
  | .extI u d a n => some (u, d, sl, BitVec.ofInt 64 (signedLow (sl.getX a).toNat n.toNat),
      fun l => BitVec.ofInt 32 (signedLow (lane (sl.getV a) l).toNat n.toNat))
  | .extN u d a n => some (u, d, sl, BitVec.ofNat 64 ((sl.getX a).toNat % 2 ^ n.toNat),
      fun l => BitVec.ofNat 32 ((lane (sl.getV a) l).toNat % 2 ^ n.toNat))
  | _ => none

/-- The write of a value: in the acting lanes of a vector register, or whole. -/
def classWrite (sl : Slot) (u : Ctl) (d : Reg) (x : Word) (f : Nat → BitVec 32) : RegWrite :=
  if Reg.isV d then { d := d, lanes := lanesOf f, mask := sl.predMask u } else { d := d, x := x }

/-! ## R93 and Table 5.5 -/

/-- A condition of R93 on two values of one width. -/
def Cond.says {w : Nat} (cc : Cond) (a b : BitVec w) : Prop :=
  match cc with
  | .eq => a = b
  | .ne => a ≠ b
  | .ltI => a.toInt < b.toInt
  | .leI => a.toInt ≤ b.toInt
  | .gtI => b.toInt < a.toInt
  | .geI => b.toInt ≤ a.toInt
  | .ltN => a.toNat < b.toNat
  | .leN => a.toNat ≤ b.toNat
  | .gtN => b.toNat < a.toNat
  | .geN => b.toNat ≤ a.toNat

/-- `r` is the mask that a comparison writes: sixteen ones or none for a scalar one, and for a vector one the condition in each acting
lane, the old bit in every other. `old` is P[D]. -/
def Compared (cc : Cond) (sl : Slot) (u : Ctl) (d a : Reg) (x : Word) (y : Nat → BitVec 32) (r : BitVec 16) : Prop :=
  if Reg.isV a then ∀ l, l < 16 →
    ((sl.predMask u).getLsbD l = true → (r.getLsbD l = true ↔ Cond.says cc (lane (sl.getV a) l) (y l))) ∧
    ((sl.predMask u).getLsbD l = false → r.getLsbD l = (sl.getP d).getLsbD l)
  else (Cond.says cc (sl.getX a) x → r = 0xFFFF) ∧ (¬ Cond.says cc (sl.getX a) x → r = 0)

/-- `r` is what a comparison or a predicate operation writes, as sixteen bits. -/
def MaskValue (sl : Slot) (i : Instr) (r : BitVec 16) : Prop :=
  match i with
  | .cmp u cc d a b => Compared cc sl u d a (sl.getX b) (lane (sl.getV b)) r
  | .cmpImm u cc d a imm => Compared cc sl u d a (imm.signExtend 64) (fun _ => imm) r
  | .pand _ _ a b => r = sl.getP a &&& sl.getP b
  | .por _ _ a b => r = sl.getP a ||| sl.getP b
  | .pxor _ _ a b => r = sl.getP a ^^^ sl.getP b
  | .pnot _ _ a => r = ~~~sl.getP a
  | .pmov _ _ a => r = if Reg.isP a then sl.getP a else (sl.getX a).setWidth 16
  | _ => False

/-- The instructions of R93 and Table 5.5, with the way their predicate governs them. -/
def maskForm : Instr → Option (Ctl × Reg × Under)
  | .cmp u _ d a _ => some (u, d, under a)
  | .cmpImm u _ d a _ => some (u, d, under a)
  | .pand u d _ _ | .por u d _ _ | .pxor u d _ _ | .pnot u d _ | .pmov u d _ => some (u, d, .scalar)
  | _ => none

/-! ## Control transfers -/

/-- The instruction completes by entering `target`: the slot `m` that any register write of its own leaves has the PC, the signature and
the entry of the transfer, and nothing outside the slot has changed. -/
def Enters (i : Instr) (s : State) (from_ : Slot) (after : Slot → Prop) (target : Pc) : Prop :=
  ∃ t m, exec i s = .next t ∧ OnlySlot s t s.cur.1 s.cur.2 ∧ after m ∧
    t.curSlot = some { m with pc := target, entry := some from_.pc, sig := target.setWidth 24 }

/-- A relative target (R95). -/
def relative (pc : Pc) (imm : BitVec 32) : Pc :=
  BitVec.ofNat 32 (pc.toNat / 2 ^ 31 * 2 ^ 31 + (pc.toNat + imm.toNat) % 2 ^ 31)

/-- The instruction takes a trap at the slot's own PC. -/
def Traps (i : Instr) (s : State) (sl : Slot) (cause : Cause) (info : Word) : Prop :=
  exec i s = .next (s.takeTrap s.cur.1 s.cur.2 sl.pc { cause := cause, info := info })

/-- The instruction takes a trap for which the spec states no information: the same for some information word. -/
def TrapsOpen (i : Instr) (s : State) (sl : Slot) (cause : Cause) : Prop := ∃ info, Traps i s sl cause info

/-- How the predicate governs an instruction (R86, R92, R100, R105); host commands, events and `illegal` have no predicate. -/
def howOf : Instr → Option Under
  | .li _ d _ | .mov _ d _ | .sel _ d _ _ _ | .extI _ d _ _ | .extN _ d _ _ => some (under d)
  | .cmp _ _ _ a _ | .cmpImm _ _ _ a _ | .fcmp _ _ _ _ a _ => some (under a)
  | .fadd _ _ _ d _ _ | .fsub _ _ _ d _ _ | .fmul _ _ _ d _ _ | .fdiv _ _ _ d _ _ | .fma _ _ _ d _ _ _ | .fms _ _ _ d _ _ _
  | .fnma _ _ _ d _ _ _ | .fsqrt _ _ _ d _ | .frcp _ _ _ d _ | .frsq _ _ _ d _ | .frnd _ _ _ d _ | .fmin _ _ d _ _ | .fmax _ _ d _ _
  | .fabs _ _ d _ | .fneg _ _ d _ | .fclass _ _ d _ | .fscale _ _ _ d _ _ | .fcvt _ _ _ d _ => some (under d)
  | .vbcast .. | .vins .. | .vperm .. | .vshift .. | .vcompress .. | .vexpand .. | .vpopc .. | .vlane .. | .vscan ..
  | .ldv .. | .stv .. | .ldvx .. | .stvx .. => some .lanes
  | .vred .. | .sig .. => some .always
  | .illegal _ => none
  | i => if (i.fields).isSome then some .scalar else none

/-! ## Floating point and vectors -/

/-- The float operand k of an element: the low bits of its type's width (R105). -/
def floatArg (t : FTy) (xs : List Word) (k : Nat) : Nat := (xs.getD k 0).toNat % 2 ^ Float.width t

/-- A float result as 64 bits with its flags. -/
def floatOut (r : Float.Res) : Word × Float.Flags := (BitVec.ofNat 64 r.1, r.2)

/-- The element-wise float instructions (Tables 6.2, 6.3, R112 to R114): fields, destination, sources, and the operation on one element. -/
def floatForm : Instr → Option (Ctl × Reg × List Reg × (Float.Gen → List Word → Word × Float.Flags))
  | .fadd u t rm d a b => some (u, d, [a, b], fun g xs => floatOut (Float.add t rm g (floatArg t xs 0) (floatArg t xs 1)))
  | .fsub u t rm d a b => some (u, d, [a, b], fun g xs => floatOut (Float.sub t rm g (floatArg t xs 0) (floatArg t xs 1)))
  | .fmul u t rm d a b => some (u, d, [a, b], fun g xs => floatOut (Float.mul t rm g (floatArg t xs 0) (floatArg t xs 1)))
  | .fdiv u t rm d a b => some (u, d, [a, b], fun g xs => floatOut (Float.div t rm g (floatArg t xs 0) (floatArg t xs 1)))
  | .fma u t rm d a b c => some (u, d, [a, b, c], fun g xs =>
      floatOut (Float.fused t rm false false g (floatArg t xs 0) (floatArg t xs 1) (floatArg t xs 2)))
  | .fms u t rm d a b c => some (u, d, [a, b, c], fun g xs =>
      floatOut (Float.fused t rm false true g (floatArg t xs 0) (floatArg t xs 1) (floatArg t xs 2)))
  | .fnma u t rm d a b c => some (u, d, [a, b, c], fun g xs =>
      floatOut (Float.fused t rm true false g (floatArg t xs 0) (floatArg t xs 1) (floatArg t xs 2)))
  | .fsqrt u t rm d a => some (u, d, [a], fun g xs => floatOut (Float.sqrt t rm g (floatArg t xs 0)))
  | .frcp u t rm d a => some (u, d, [a], fun g xs => floatOut (Float.rcp t rm g (floatArg t xs 0)))
  | .frsq u t rm d a => some (u, d, [a], fun g xs => floatOut (Float.rsq t rm g (floatArg t xs 0)))
  | .frnd u t rm d a => some (u, d, [a], fun g xs => floatOut (Float.rnd t rm g (floatArg t xs 0)))
  | .fmin u t d a b => some (u, d, [a, b], fun _ xs => floatOut (Float.minmax t false (floatArg t xs 0) (floatArg t xs 1)))
  | .fmax u t d a b => some (u, d, [a, b], fun _ xs => floatOut (Float.minmax t true (floatArg t xs 0) (floatArg t xs 1)))
  | .fabs u t d a => some (u, d, [a], fun _ xs => floatOut (Float.abs t (floatArg t xs 0)))
  | .fneg u t d a => some (u, d, [a], fun _ xs => floatOut (Float.neg t (floatArg t xs 0)))
  | .fclass u t d a => some (u, d, [a], fun _ xs => floatOut (Float.fclass t (floatArg t xs 0)))
  | .fscale u t rm d a b => some (u, d, [a, b], fun g xs => floatOut (Float.scale t rm g (floatArg t xs 0)
      (if Reg.isV d then ((xs.getD 1 0).setWidth 32).toInt else (xs.getD 1 0).toInt)))
  | .fcvt u (.ff src dst) rm d a => some (u, d, [a], fun _ xs => floatOut (Float.cvtFF src dst rm (xs.getD 0 0).toNat))
  | .fcvt u (.fi src k) rm d a => some (u, d, [a], fun _ xs =>
      (BitVec.ofInt 64 (Float.toInt src k rm (floatArg src xs 0)).1, (Float.toInt src k rm (floatArg src xs 0)).2))
  | .fcvt u (.fromInt k dst) rm d a => some (u, d, [a], fun _ xs =>
      floatOut (Float.ofInt dst rm (Float.kindVal k (xs.getD 0 0))))
  | _ => none

/-! ### What rounding is (R107 to R109, R217)

Magnitudes are counted in units of a type's smallest subnormal: 1 is 2^(bias + fraction width − 1) units. -/

/-- The magnitude, in units, that encoding `n` without its sign has, or would have if exponents had no end. -/
def Float.units (t : FTy) (n : Nat) : Nat :=
  let f := 2 ^ (Float.fmt t).fb
  if n < f then n else (f + n % f) * 2 ^ (n / f - 1)
/-- How many units are 1. -/
def Float.one (t : FTy) : Nat := 2 ^ ((Float.fmt t).bias + (Float.fmt t).fb - 1)
/-- An encoding without its sign. -/
def Float.code (t : FTy) (a : Nat) : Nat := a % Float.signBit t
/-- Whether the sign of an encoding is set. -/
def Float.sign (t : FTy) (a : Nat) : Bool := decide (a / Float.signBit t % 2 = 1)
/-- The magnitude of an encoding, in units. -/
def Float.mag (t : FTy) (a : Nat) : Nat := Float.units t (Float.code t a)
/-- The value of an encoding, in units. -/
def Float.num (t : FTy) (a : Nat) : Int := if Float.sign t a then -(Float.mag t a : Int) else Float.mag t a
/-- A finite number (Table 10.2). -/
def Float.finite (t : FTy) (a : Nat) : Bool := decide (Float.code t a ≤ Float.maxFin t)
/-- The encoding of +∞; in E4M3, which has none, of 448 (R109). -/
def Float.top (t : FTy) : Nat := if t = .e4m3 then Float.maxFin t else Float.maxFin t + 1
/-- An infinity. -/
def Float.infinite (t : FTy) (a : Nat) : Bool := decide (t ≠ .e4m3) && decide (Float.code t a = Float.maxFin t + 1)
/-- A NaN. -/
def Float.nan (t : FTy) (a : Nat) : Bool := !Float.finite t a && !Float.infinite t a
/-- A signalling NaN: its quiet bit is 0 (Table 6.1). -/
def Float.snan (t : FTy) (a : Nat) : Bool := Float.nan t a && decide (t ≠ .e4m3) && !a.testBit ((Float.fmt t).fb - 1)
/-- An encoding with the given sign. -/
def Float.signed (t : FTy) (s : Bool) (n : Nat) : Nat := (if s then Float.signBit t else 0) + n
/-- An infinity as a result, with the inexact that E4M3 adds (R109). -/
def Float.toInfinity (t : FTy) (s : Bool) (fl : Float.Flags) : Float.Res :=
  (Float.signed t s (Float.top t), if t = .e4m3 then fl ||| Float.fnx else fl)
/-- A NaN that core and index of `g` generate, with invalid (R108). -/
def Float.generated (t : FTy) (g : Float.Gen) : Float.Res :=
  ((Float.fmt t).nan + if t = .f32 then g.core % 8192 * 512 + g.idx % 512 else 0, Float.fnv)

/-- A quotient of naturals with a positive denominator, against a magnitude given by that order. -/
abbrev Float.Exact := Nat → Nat → Ordering
/-- The magnitude n / d. -/
def Float.ratio (n d : Nat) : Float.Exact := fun p q => compare (p * d) (n * q)

/-- `r` is the nonzero magnitude `x` (how p / q units stand to it) with sign `s`, rounded once to type `t` in mode `rm`: `n` is the
encoding next below or at it. To nearest takes the nearer of `n` and `n + 1` and of equals the even one; toward zero takes `n`; upward
and downward take `n + 1` where that direction leads away from zero and the value is not exact. Past the largest finite value it is
an overflow; inexact, and underflow when the value rounded to the type's precision is still below the smallest normal. -/
def Float.Rounded (t : FTy) (rm : Float.Mode) (s : Bool) (x : Float.Exact) (r : Float.Res) : Prop :=
  ∃ n, x (Float.units t n) 1 ≠ .gt ∧ x (Float.units t (n + 1)) 1 = .gt ∧
    let away : Prop := (rm = 2 ∧ s = false) ∨ (rm = 3 ∧ s = true)
    let half := x (Float.units t n + Float.units t (n + 1)) 2
    let up : Prop := (rm = 0 ∧ (half = .lt ∨ (half = .eq ∧ n % 2 = 1))) ∨ (away ∧ x (Float.units t n) 1 = .lt)
    let small := 2 ^ (Float.fmt t).fb
    let tiny : Prop := x small 1 = .gt ∧ ¬ (rm = 0 ∧ x (4 * small - 1) 4 ≠ .gt) ∧ ¬ (away ∧ x (2 * small - 1) 2 = .lt)
    ∃ m, ((up ∧ m = n + 1) ∨ (¬ up ∧ m = n)) ∧
      (m ≤ Float.maxFin t → r.1 = Float.signed t s m ∧
        (x (Float.units t n) 1 = .eq → r.2 = 0) ∧
        (x (Float.units t n) 1 ≠ .eq → tiny → r.2 = Float.fnx ||| Float.fuf) ∧
        (x (Float.units t n) 1 ≠ .eq → ¬ tiny → r.2 = Float.fnx)) ∧
      (Float.maxFin t < m → r.2 = Float.fof ||| Float.fnx ∧
        (rm = 0 ∨ away → r.1 = Float.signed t s (Float.top t)) ∧
        (rm ≠ 0 → ¬ away → r.1 = Float.signed t s (Float.maxFin t)))

/-- `r` is the signed value n / d, rounded once. A zero has the sign `z`. -/
def Float.RoundedRatio (t : FTy) (rm : Float.Mode) (z : Bool) (n : Int) (d : Nat) (r : Float.Res) : Prop :=
  (n = 0 → r = (Float.signed t z 0, 0)) ∧
  (n ≠ 0 → Float.Rounded t rm (decide (n < 0)) (Float.ratio n.natAbs d) r)

/-- The result of an operation with a NaN among its operands (R108): in FP32 that of the smallest bits [21:0], the first of equals, with
bit 22 set; in another type the canonical NaN. A signalling one raises invalid. -/
def Float.Propagated (t : FTy) (ops : List Nat) (r : Float.Res) : Prop :=
  (t = .f32 → ∃ (i a : Nat), ops[i]? = some a ∧ Float.nan t a ∧ r.1 = a ||| 2 ^ 22 ∧
    ∀ (j b : Nat), ops[j]? = some b → Float.nan t b → a % 2 ^ 22 < b % 2 ^ 22 ∨ (a % 2 ^ 22 = b % 2 ^ 22 ∧ i ≤ j)) ∧
  (t ≠ .f32 → r.1 = (Float.fmt t).nan) ∧
  ((∃ a ∈ ops, Float.snan t a) → r.2 = Float.fnv) ∧ ((∀ a ∈ ops, ¬ Float.snan t a) → r.2 = 0)

/-- `r` is the sum of two terms, the second already with its sign: exact infinities, ∞ − ∞, and a rounded sum (R110). `x` and `y` give
the signs, `inf` which is infinite, and `n / d` the exact sum of finite ones; `zeros` says that both are zeros. -/
def Float.Summed (t : FTy) (rm : Float.Mode) (g : Float.Gen) (x y xinf yinf zeros : Bool) (n : Int) (d : Nat) (r : Float.Res) : Prop :=
  (xinf = true → yinf = true → x ≠ y → r = Float.generated t g) ∧
  (xinf = true → (yinf = true → x = y) → r = Float.toInfinity t x 0) ∧
  (xinf = false → yinf = true → r = Float.toInfinity t y 0) ∧
  (xinf = false → yinf = false → Float.RoundedRatio t rm (if zeros = true ∧ x = y then x else decide (rm = 3)) n d r)

/-- A magnitude with a sign. -/
def signedBy (s : Bool) (n : Nat) : Int := if s then -(n : Int) else n

/-- n / d rounded to a whole number in mode `rm`, `s` its sign (R217). -/
def Float.wholeOf (rm : Float.Mode) (s : Bool) (n d : Nat) : Nat :=
  let up := (rm = 0 ∧ (d < 2 * (n % d) ∨ (d = 2 * (n % d) ∧ n / d % 2 = 1))) ∨
    (((rm = 2 ∧ s = false) ∨ (rm = 3 ∧ s = true)) ∧ n % d ≠ 0)
  if up then n / d + 1 else n / d

/-- `fadd`, `fsub`, `fmul` and `fdiv` on operands of type `t` (R108 to R110, Table 6.2). -/
structure Float.BinaryRules (t : FTy) (rm : Float.Mode) (g : Float.Gen) (a b : Nat) : Prop where
  nan : Float.nan t a = true ∨ Float.nan t b = true → ∀ f ∈ [Float.add, Float.sub, Float.mul, Float.div], Float.Propagated t [a, b] (f t rm g a b)
  add : Float.nan t a = false → Float.nan t b = false → Float.Summed t rm g (Float.sign t a) (Float.sign t b) (Float.infinite t a)
    (Float.infinite t b) (decide (Float.mag t a = 0 ∧ Float.mag t b = 0)) (Float.num t a + Float.num t b) 1 (Float.add t rm g a b)
  sub : Float.nan t a = false → Float.nan t b = false → Float.Summed t rm g (Float.sign t a) (!Float.sign t b) (Float.infinite t a)
    (Float.infinite t b) (decide (Float.mag t a = 0 ∧ Float.mag t b = 0)) (Float.num t a - Float.num t b) 1 (Float.sub t rm g a b)
  mul : Float.nan t a = false → Float.nan t b = false →
    let s := Float.sign t a ^^ Float.sign t b
    let r := Float.mul t rm g a b
    let wrong := (Float.infinite t a = true ∧ Float.mag t b = 0) ∨ (Float.mag t a = 0 ∧ Float.infinite t b = true)
    (wrong → r = Float.generated t g) ∧
    (¬ wrong → Float.infinite t a = true ∨ Float.infinite t b = true → r = Float.toInfinity t s 0) ∧
    (Float.infinite t a = false → Float.infinite t b = false →
      Float.RoundedRatio t rm s (signedBy s (Float.mag t a * Float.mag t b)) (Float.one t) r)
  div : Float.nan t a = false → Float.nan t b = false →
    let s := Float.sign t a ^^ Float.sign t b
    let r := Float.div t rm g a b
    (Float.infinite t a = true → Float.infinite t b = true → r = Float.generated t g) ∧
    (Float.infinite t a = true → Float.infinite t b = false → r = Float.toInfinity t s 0) ∧
    (Float.infinite t a = false → Float.infinite t b = true → r = (Float.signed t s 0, 0)) ∧
    (Float.infinite t a = false → Float.infinite t b = false →
      (Float.mag t a = 0 → Float.mag t b = 0 → r = Float.generated t g) ∧
      (Float.mag t a ≠ 0 → Float.mag t b = 0 → r = Float.toInfinity t s Float.fdz) ∧
      (Float.mag t b ≠ 0 → Float.RoundedRatio t rm s (signedBy s (Float.mag t a * Float.one t)) (Float.mag t b) r))

/-- The fused forms: a × b with its sign inverted when `np`, plus c with its sign inverted when `nc`, rounded once (Table 6.2, R110). -/
def Float.FusedRule (t : FTy) (rm : Float.Mode) (g : Float.Gen) (np nc : Bool) (a b c : Nat) : Prop :=
  let r := Float.fused t rm np nc g a b c
  let x := Float.sign t a ^^ Float.sign t b ^^ np
  let y := Float.sign t c ^^ nc
  let wrong := (Float.infinite t a = true ∧ Float.mag t b = 0) ∨ (Float.mag t a = 0 ∧ Float.infinite t b = true)
  let some_ := Float.nan t a = true ∨ Float.nan t b = true ∨ Float.nan t c = true
  (some_ → ∃ q, Float.Propagated t [a, b, c] q ∧ r.1 = q.1 ∧ (wrong → r.2 = Float.fnv) ∧ (¬ wrong → r.2 = q.2)) ∧
  (¬ some_ → wrong → r = Float.generated t g) ∧
  (¬ some_ → ¬ wrong → Float.Summed t rm g x y (Float.infinite t a || Float.infinite t b) (Float.infinite t c)
    (decide ((Float.mag t a = 0 ∨ Float.mag t b = 0) ∧ Float.mag t c = 0))
    (signedBy x (Float.mag t a * Float.mag t b) + signedBy y (Float.mag t c * Float.one t)) (Float.one t) r)

/-- The operations on one operand: `fsqrt`, `frcp`, `frsq` and `frnd` of Table 6.2, `fscale` by `k`, `fclass` (R112), `fabs` and `fneg`
(Table 6.3). -/
structure Float.UnaryRules (t : FTy) (rm : Float.Mode) (g : Float.Gen) (a : Nat) (k : Int) : Prop where
  nan : Float.nan t a = true → Float.Propagated t [a] (Float.sqrt t rm g a) ∧ Float.Propagated t [a] (Float.rcp t rm g a) ∧
    Float.Propagated t [a] (Float.rsq t rm g a) ∧ Float.Propagated t [a] (Float.rnd t rm g a) ∧ Float.Propagated t [a] (Float.scale t rm g a k)
  zero : Float.mag t a = 0 → Float.sqrt t rm g a = (a, 0) ∧ Float.rcp t rm g a = Float.toInfinity t (Float.sign t a) Float.fdz ∧
    Float.rsq t rm g a = Float.toInfinity t (Float.sign t a) Float.fdz ∧ Float.rnd t rm g a = (a, 0) ∧ Float.scale t rm g a k = (a, 0)
  inf : Float.infinite t a = true → Float.rcp t rm g a = (Float.signed t (Float.sign t a) 0, 0) ∧ Float.rnd t rm g a = (a, 0) ∧
    Float.scale t rm g a k = (a, 0) ∧ (Float.sign t a = false → Float.sqrt t rm g a = (a, 0) ∧ Float.rsq t rm g a = (0, 0))
  below : Float.nan t a = false → Float.mag t a ≠ 0 → Float.sign t a = true →
    Float.sqrt t rm g a = Float.generated t g ∧ Float.rsq t rm g a = Float.generated t g
  roots : Float.finite t a = true → Float.mag t a ≠ 0 → Float.sign t a = false →
    Float.Rounded t rm false (fun p q => compare (p * p) (Float.mag t a * Float.one t * (q * q))) (Float.sqrt t rm g a) ∧
    Float.Rounded t rm false (fun p q => compare (p * p * Float.mag t a) (Float.one t ^ 3 * (q * q))) (Float.rsq t rm g a)
  others : Float.finite t a = true → Float.mag t a ≠ 0 →
    let s := Float.sign t a
    Float.Rounded t rm s (Float.ratio (Float.one t * Float.one t) (Float.mag t a)) (Float.rcp t rm g a) ∧
    Float.Rounded t rm s (Float.ratio (Float.mag t a * 2 ^ k.toNat) (2 ^ (-k).toNat)) (Float.scale t rm g a k) ∧
    (∃ n, Float.units t n = Float.wholeOf rm s (Float.mag t a) (Float.one t) * Float.one t ∧
      Float.rnd t rm g a = (Float.signed t s n, if Float.mag t a % Float.one t = 0 then 0 else Float.fnx))
  signs : Float.abs t a = (Float.code t a, 0) ∧ Float.neg t a = (Float.signed t (!Float.sign t a) (Float.code t a), 0)
  class_ : ∃ n, Float.fclass t a = (2 ^ n, 0) ∧
    let f := 2 ^ (Float.fmt t).fb
    (n = 0 ↔ Float.infinite t a = true ∧ Float.sign t a = true) ∧ (n = 7 ↔ Float.infinite t a = true ∧ Float.sign t a = false) ∧
    (n = 1 ↔ Float.finite t a = true ∧ f ≤ Float.code t a ∧ Float.sign t a = true) ∧
    (n = 6 ↔ Float.finite t a = true ∧ f ≤ Float.code t a ∧ Float.sign t a = false) ∧
    (n = 2 ↔ 0 < Float.code t a ∧ Float.code t a < f ∧ Float.sign t a = true) ∧
    (n = 5 ↔ 0 < Float.code t a ∧ Float.code t a < f ∧ Float.sign t a = false) ∧
    (n = 3 ↔ Float.code t a = 0 ∧ Float.sign t a = true) ∧ (n = 4 ↔ Float.code t a = 0 ∧ Float.sign t a = false) ∧
    (n = 8 ↔ Float.snan t a = true) ∧ (n = 9 ↔ Float.nan t a = true ∧ Float.snan t a = false)

/-- `fmin`, `fmax` and `fcmp` (R111, R115). -/
structure Float.OrderRules (t : FTy) (a b : Nat) : Prop where
  both : Float.nan t a = true → Float.nan t b = true → ∀ m, Float.Propagated t [a, b] (Float.minmax t m a b)
  left : Float.nan t a = true → Float.nan t b = false → ∀ m, Float.minmax t m a b = (b, if Float.snan t a then Float.fnv else 0)
  right : Float.nan t a = false → Float.nan t b = true → ∀ m, Float.minmax t m a b = (a, if Float.snan t b then Float.fnv else 0)
  min : Float.nan t a = false → Float.nan t b = false →
    (Float.num t a < Float.num t b ∨ (Float.num t a = Float.num t b ∧ Float.sign t a = true) → Float.minmax t false a b = (a, 0)) ∧
    (Float.num t b < Float.num t a ∨ (Float.num t a = Float.num t b ∧ Float.sign t b = true) → Float.minmax t false a b = (b, 0)) ∧
    (a = b → Float.minmax t false a b = (a, 0))
  max : Float.nan t a = false → Float.nan t b = false →
    (Float.num t b < Float.num t a ∨ (Float.num t a = Float.num t b ∧ Float.sign t a = false) → Float.minmax t true a b = (a, 0)) ∧
    (Float.num t a < Float.num t b ∨ (Float.num t a = Float.num t b ∧ Float.sign t b = false) → Float.minmax t true a b = (b, 0)) ∧
    (a = b → Float.minmax t true a b = (a, 0))
  ordered : Float.nan t a = false → Float.nan t b = false → ∀ cc,
    (Float.cmp t cc a b).2 = 0 ∧ ((Float.cmp t cc a b).1 = true ↔ match cc with
      | .eq => Float.num t a = Float.num t b
      | .ne => Float.num t a ≠ Float.num t b
      | .lt => Float.num t a < Float.num t b
      | .le => Float.num t a ≤ Float.num t b
      | .gt => Float.num t b < Float.num t a
      | .ge => Float.num t b ≤ Float.num t a
      | .un => False
      | .ord => True)
  unordered : Float.nan t a = true ∨ Float.nan t b = true → ∀ cc,
    ((Float.cmp t cc a b).1 = true ↔ cc = .un ∨ cc = .ne) ∧
    ((Float.cmp t cc a b).2 = Float.fnv ↔ (cc = .lt ∨ cc = .le ∨ cc = .gt ∨ cc = .ge) ∨ Float.snan t a = true ∨ Float.snan t b = true) ∧
    ((Float.cmp t cc a b).2 = 0 ∨ (Float.cmp t cc a b).2 = Float.fnv)

/-- `fcvt` between float types (R113). -/
structure Float.ConvertRules (src dst : FTy) (rm : Float.Mode) (a : Nat) : Prop where
  same : src = dst → (Float.nan src a = false → Float.cvtFF src dst rm a = (a, 0)) ∧
    (Float.nan src a = true → Float.cvtFF src dst rm a =
      (if src = .e4m3 then a else a ||| 2 ^ ((Float.fmt src).fb - 1), if Float.snan src a then Float.fnv else 0))
  nan : src ≠ dst → Float.nan src a = true → Float.cvtFF src dst rm a = ((Float.fmt dst).nan, if Float.snan src a then Float.fnv else 0)
  inf : src ≠ dst → Float.infinite src a = true → Float.cvtFF src dst rm a = Float.toInfinity dst (Float.sign src a) 0
  finite : src ≠ dst → Float.finite src a = true → Float.RoundedRatio dst rm (Float.sign src a)
    (signedBy (Float.sign src a) (Float.mag src a * Float.one dst)) (Float.one src) (Float.cvtFF src dst rm a)

/-- `fcvt` between floats and integers (R114, Table 6.4). -/
structure Float.IntegerRules (t : FTy) (k : IKind) (rm : Float.Mode) (a : Nat) (v : Int) : Prop where
  nan : Float.nan t a = true → Float.toInt t k rm a = (0, Float.fnv)
  inf : Float.infinite t a = true → Float.toInt t k rm a = (if Float.sign t a then Float.kindLo k else Float.kindHi k, Float.fnv)
  finite : Float.finite t a = true →
    let n := signedBy (Float.sign t a) (Float.wholeOf rm (Float.sign t a) (Float.mag t a) (Float.one t))
    (n < Float.kindLo k → Float.toInt t k rm a = (Float.kindLo k, Float.fnv)) ∧
    (Float.kindHi k < n → Float.toInt t k rm a = (Float.kindHi k, Float.fnv)) ∧
    (Float.kindLo k ≤ n → n ≤ Float.kindHi k →
      Float.toInt t k rm a = (n, if Float.mag t a % Float.one t = 0 then 0 else Float.fnx))
  back : Float.RoundedRatio t rm false (v * Float.one t) 1 (Float.ofInt t rm v)

/-- `fl` is the union of the flags of the acting lanes (R106, R107). -/
def FlagUnion (m : BitVec 16) (flags : Nat → Float.Flags) (fl : Float.Flags) : Prop :=
  ∀ b, fl.getLsbD b = true ↔ ∃ l, l < 16 ∧ m.getLsbD l = true ∧ (flags l).getLsbD b = true

/-- The lanes of a mask, ascending. -/
def lanesIn (m : BitVec 16) : List Nat := (List.range 16).filter (fun l => m.getLsbD l)

/-- The instructions of Table 6.6 that write acting lanes: fields, destination, mask of lanes written, value of lane l. -/
def laneForm (sl : Slot) : Instr → Option (Ctl × Reg × BitVec 16 × (Nat → BitVec 32))
  | .vbcast u d a => some (u, d, sl.predMask u, fun _ => (sl.getX a).setWidth 32)
  | .vins u d a b k =>
      let n := ((sl.getX b).toNat + k.toNat) % 16
      some (u, d, sl.predMask u &&& BitVec.ofNat 16 (2 ^ n), fun _ => (sl.getX a).setWidth 32)
  | .vperm u d a b => some (u, d, sl.predMask u, fun l =>
      if (lane (sl.getV b) l).toNat < 16 then lane (sl.getV a) (lane (sl.getV b) l).toNat else 0)
  | .vshift u d a b imm => some (u, d, sl.predMask u, fun l =>
      let n : Int := (l : Int) - (sl.getX b + imm.signExtend 64).toInt
      if 0 ≤ n ∧ n ≤ 15 then lane (sl.getV a) n.toNat else 0)
  | .vcompress u d a b => some (u, d, sl.predMask u, fun l =>
      match (lanesIn (sl.getP b))[l]? with | some j => lane (sl.getV a) j | none => 0)
  | .vexpand u d a b => some (u, d, sl.predMask u, fun l =>
      if (sl.getP b).getLsbD l then lane (sl.getV a) ((lanesIn (sl.getP b)).filter (fun j => decide (j < l))).length else 0)
  | .vpopc u d a => some (u, d, sl.predMask u, fun l =>
      BitVec.ofNat 32 ((List.range 32).map (fun b => ((lane (sl.getV a) l).getLsbD b).toNat)).sum)
  | .vlane u d => some (u, d, sl.predMask u, fun l => BitVec.ofNat 32 l)
  | _ => none

/-- The value that an integer `vred` combines its acting lanes to, in ascending order (R117). -/
def redFold (f : BitVec 32 → BitVec 32 → BitVec 32) (id : BitVec 32) (m : BitVec 16) (v : Lanes) : BitVec 32 :=
  match lanesIn m with
  | [] => id
  | l :: ls => ls.foldl (fun x j => f x (lane v j)) (lane v l)

/-- One combination of two FP32 values under `fadd`, `fmin` or `fmax`: `fadd` rounds to nearest even (R117). -/
def floatPair (op : VOp) (g : Float.Gen) (x y : BitVec 32) : BitVec 32 × Float.Flags :=
  let r := match op with
    | .fadd => Float.add .f32 0 g x.toNat y.toNat
    | .fmin => Float.minmax .f32 false x.toNat y.toNat
    | _ => Float.minmax .f32 true x.toNat y.toNat
  (BitVec.ofNat 32 r.1, r.2)

/-- Node `i` of level `k` of the tree of R117, over lanes i × 2^k to (i + 1) × 2^k − 1: none where no lane acts; else its value, the
lowest acting lane under it, which indexes a NaN that it generates, and the flags raised under it. A node with one input passes it. -/
def redNode (op : VOp) (core : Nat) (m : BitVec 16) (v : Lanes) : Nat → Nat → Option (BitVec 32 × Nat × Float.Flags)
  | 0, i => if m.getLsbD i then some (lane v i, i, 0) else none
  | k + 1, i => match redNode op core m v k (2 * i), redNode op core m v k (2 * i + 1) with
    | none, y => y
    | x, none => x
    | some (a, l, f), some (b, _, h) =>
      let r := floatPair op { core := core, idx := l } a b
      some (r.1, l, f ||| h ||| r.2)

/-- `r` is the value of `vred` over the acting lanes of `v` (R117); `fl` its flags. -/
def Reduced (op : VOp) (core : Nat) (m : BitVec 16) (v : Lanes) (r : Word) (fl : Float.Flags) : Prop :=
  match op with
  | .add => fl = 0 ∧ r = BitVec.ofInt 64 ((lanesIn m).map (fun l => (lane v l).toInt)).sum
  | .and => fl = 0 ∧ r = (redFold (· &&& ·) 0xFFFFFFFF m v).setWidth 64
  | .or => fl = 0 ∧ r = (redFold (· ||| ·) 0 m v).setWidth 64
  | .xor => fl = 0 ∧ r = (redFold (· ^^^ ·) 0 m v).setWidth 64
  | .minI => fl = 0 ∧ r = (redFold (fun x y => if x.toInt ≤ y.toInt then x else y) 0x7FFFFFFF m v).signExtend 64
  | .maxI => fl = 0 ∧ r = (redFold (fun x y => if x.toInt ≤ y.toInt then y else x) 0x80000000 m v).signExtend 64
  | .minN => fl = 0 ∧ r = (redFold (fun x y => if x.toNat ≤ y.toNat then x else y) 0xFFFFFFFF m v).setWidth 64
  | .maxN => fl = 0 ∧ r = (redFold (fun x y => if x.toNat ≤ y.toNat then y else x) 0 m v).setWidth 64
  | .fadd | .fmin | .fmax => match redNode op core m v 4 0 with
      | some (x, _, f) => r = x.setWidth 64 ∧ fl = f
      | none => fl = 0 ∧ r = if op = .fadd then 0 else if op = .fmin then 0x7F800000 else 0xFF800000

/-- One step of a scan at lane `l` (R118): integer operations on 32 bits, of which `add` wraps; `fadd` in RNE, a generated NaN with
index `l`; `fmin` and `fmax` as R111. -/
def scanStep (op : VOp) (core l : Nat) (x y : BitVec 32) : BitVec 32 × Float.Flags :=
  match op with
  | .add => (BitVec.ofNat 32 (x.toNat + y.toNat), 0)
  | .and => (x &&& y, 0)
  | .or => (x ||| y, 0)
  | .xor => (x ^^^ y, 0)
  | .minI => (if x.toInt ≤ y.toInt then x else y, 0)
  | .maxI => (if x.toInt ≤ y.toInt then y else x, 0)
  | .minN => (if x.toNat ≤ y.toNat then x else y, 0)
  | .maxN => (if x.toNat ≤ y.toNat then y else x, 0)
  | .fadd | .fmin | .fmax => floatPair op { core := core, idx := l } x y

/-- `out` is the scan of R118 in every acting lane: the lane itself when no lane below it acts, else the step that combines the scan at
the next lower acting lane with it. `fl` is the union of the flags of the steps. -/
def Scanned (op : VOp) (core : Nat) (m : BitVec 16) (v out : Lanes) (fl : Float.Flags) : Prop :=
  (∀ l, l < 16 → m.getLsbD l = true →
    ((∀ j, j < l → m.getLsbD j = false) → lane out l = lane v l) ∧
    (∀ j, j < l → m.getLsbD j = true → (∀ k, j < k → k < l → m.getLsbD k = false) →
      lane out l = (scanStep op core l (lane out j) (lane v l)).1)) ∧
  ∀ b, fl.getLsbD b = true ↔ ∃ j l, j < l ∧ l < 16 ∧ m.getLsbD j = true ∧ m.getLsbD l = true ∧
    (∀ k, j < k → k < l → m.getLsbD k = false) ∧ (scanStep op core l (lane out j) (lane v l)).2.getLsbD b = true

/-! ## Outstanding results -/

/-- `sl'` is `sl` after an instruction has sent for the result `op`: the result is outstanding, a landing buffer or the slot itself
waits for it, and the PC is the next slot's. -/
structure Launched (i : Instr) (u : Ctl) (d : Reg) (op : LoadOp) (sl sl' : Slot) : Prop where
  loads : ∃ l, sl'.loads = sl.loads ++ [l] ∧ l.id = sl.nextId ∧ l.op = op ∧ l.d = d ∧ l.tag = u.at' ∧ l.pd = u.pd.toNat ∧
    l.pc = sl.pc ∧ l.res = none
  nextId : sl'.nextId = sl.nextId + 1
  landing : sl'.landing = sl.landing ++
    (if u.at' ≠ 0 then [{ tag := u.at', pc := sl.pc, st := .wait sl.nextId }] else [])
  hold : sl'.hold = if u.at' = 0 then .load sl.nextId else sl.hold
  pc : sl'.pc = nextPc sl.pc
  sig : sl'.sig = foldSig sl.sig (sigRec i)
  rest : sl' = { sl.age with loads := sl'.loads, nextId := sl'.nextId, landing := sl'.landing, hold := sl'.hold, pc := sl'.pc,
                             sig := sl'.sig, entry := none, fails := 0 }

/-- Of the whole module only core `c` and the cells that wait to leave the module may differ. -/
structure OnlyCoreFab (s t : State) (c : Nat) : Prop where
  rest : t = { s with cores := t.cores, fab := t.fab }
  mem : SameMem s t
  others : ∀ c', c' ≠ c → t.core c' = s.core c'

/-- The instruction completes by sending for a result. -/
def Launches (i : Instr) (u : Ctl) (s : State) (from_ : Slot) (d : Reg) (op : LoadOp) : Prop :=
  ∃ t sl', exec i s = .next t ∧ OnlyCoreFab s t s.cur.1 ∧ t.curSlot = some sl' ∧ Launched i u d op from_ sl'

/-! ## Loads -/

/-- The bytes a load reads and their value (Table 7.3), `n` the little-endian number they hold. -/
def loaded (k : LdKind) (n : Nat) : Word :=
  match k with
  | .i8 => BitVec.ofInt 64 (Int.bmod n (2 ^ 8))
  | .i16 => BitVec.ofInt 64 (Int.bmod n (2 ^ 16))
  | .i32 => BitVec.ofInt 64 (Int.bmod n (2 ^ 32))
  | .n8 | .n16 | .n32 | .d => BitVec.ofNat 64 n

/-- A little-endian number of `n` bytes given by `f`. -/
def littleEndian (f : Nat → Byte) (n : Nat) : Nat := ((List.range n).map (fun j => (f j).toNat * 256 ^ j)).sum

/-- The byte at offset `off` of core `t`'s pool as the current activation reads it: what a store of its own that is not yet
performed forwards for that byte (R122, R225), else the port's byte (R227). -/
def State.ownByte (s : State) (sl : Slot) (t off : Nat) : Byte :=
  match s.fwd s.cur.1 sl (poolKey t off) with
  | some b => b
  | none => (s.poolByte s.cur.1 sl.act t off).1

/-- No byte of an access is poisoned for the current activation. -/
def State.clean (s : State) (sl : Slot) (t off n : Nat) : Prop :=
  ∀ j, j < n → s.fwd s.cur.1 sl (poolKey t (off + j)) = none → (s.poolByte s.cur.1 sl.act t (off + j)).2.1 = false

/-- No byte of an access lies out of range, or a store of the activation supplies it. -/
def State.inside (s : State) (sl : Slot) (t off n : Nat) : Prop :=
  ∀ j, j < n → (s.fwd s.cur.1 sl (poolKey t (off + j))).isSome = true ∨ off + j < s.scrBytes t

/-- The state after the out-of-range event of an access of `n` bytes at address `va` and offset `off` of core `t`'s pool: none when
every byte is inside; else one event, with the issuing core and bits [22:0] of the first address that is not, behind those of its
context that have not arrived (R14). -/
structure OobNoted (s base : State) (sl : Slot) (t off va n : Nat) : Prop where
  inside : s.inside sl t off n → base = s
  outside : ∀ j x, j < n → s.fwd s.cur.1 sl (poolKey t (off + j)) = none → s.scrBytes t ≤ off + j → s.inside sl t off j →
    (s.core s.cur.1).ctx = some x →
    base = s.modCtx x (fun y => { y with oobs := y.oobs ++ [(s.cur.1, (va + j) % 2 ^ 23)] })
  mem : SameMem s base
  rest : base = { s with ctxs := base.ctxs }

/-- The bytes of a far access of `n` bytes at `pa`: each with what the activation's own stores forward for it (R122). -/
def State.outstanding (s : State) (sl : Slot) (pa n : Nat) : List (Nat × Option Byte) :=
  (List.range n).map (fun j => (pa + j, s.fwd s.cur.1 sl (pa + j)))

/-- The instruction completes by sending for memory: the outstanding result reads `bytes`, for the access at address `va`, with the
acquire order that MO gives it, and writes the lanes of `mask`. -/
def LaunchesLoad (i : Instr) (u : Ctl) (s : State) (from_ : Slot) (d : Reg) (op : LoadOp) (va : Nat) (mask : BitVec 16)
    (bytes : List (Nat × Option Byte)) : Prop :=
  ∃ t sl' l, exec i s = .next t ∧ OnlyCoreFab s t s.cur.1 ∧ t.curSlot = some sl' ∧ Launched i u d op from_ sl' ∧
    sl'.loads = from_.loads ++ [l] ∧ l.va = va ∧ l.mask = mask ∧ l.bytes = bytes ∧ l.acq = decide (u.mo = 1)

/-! ## Stores -/

/-- `t` is `s` after activation `act` of core `c` has stored the bytes `bs` (virtual address, key, byte) into pools: the activation
itself reads them from now on, everything else reads as before, and the banks are not yet written (R227). -/
structure PoolStored (s t : State) (c act : Nat) (bs : List (Nat × Nat × Byte)) : Prop where
  mem : SameMem s t
  own : ∀ o off, off < s.scrBytes o → t.poolByte c act o off =
    match bs.reverse.find? (fun e => decide (e.2.1 = poolKey o off)) with
    | some e => (e.2.2, false, false)
    | none => s.poolByte c act o off
  others : ∀ c' act' o off, c' ≠ c ∨ act' ≠ act → t.poolByte c' act' o off = s.poolByte c' act' o off

/-- The bytes of a store of `n` bytes of `v` at `va`, whose byte 0 has key `key`. -/
def bytesAt (va key n : Nat) (v : Word) : List (Nat × Nat × Byte) :=
  (List.range n).map (fun j => (va + j, key + j, v.extractLsb' (8 * j) 8))

/-- A store whose bytes have been checked completes in a revocable span: its pool bytes are staged and journalled, its far bytes wait
in the store buffer, and the slot goes on. -/
def StoresChecked (i : Instr) (s base : State) (after : Slot) (pool far : List (Nat × Nat × Byte)) : Prop :=
  ∃ t sl' from_, exec i s = .next t ∧ PoolStored base t s.cur.1 after.act pool ∧ t.curSlot = some sl' ∧ Advanced i from_ sl' ∧
    from_ = { after with journal := from_.journal, newer := from_.newer, stores := from_.stores } ∧
    from_.journal = after.journal ++ base.newJournal after.journal pool ∧
    (∀ e ∈ far, ∃ x ∈ from_.stores, ∃ bs, x.op = .store bs ∧ e ∈ bs)

/-! ## The store buffer -/

/-- The instruction completes in a revocable span by placing one entry at the young end of the store buffer (R126): beyond `base` only the issuing
core changes, and of it only the entry number and the slot. `from_` is the slot before the entry is placed. -/
def BuffersOver (i : Instr) (s base : State) (from_ : Slot) (op : SOp) (rel : Bool) (sc : BitVec 3) : Prop :=
  ∃ t sl' e, exec i s = .next t ∧ OnlyCore base t s.cur.1 ∧ t.curSlot = some sl' ∧
    e.op = op ∧ e.rel = rel ∧ e.sc = sc ∧ e.id = (base.core s.cur.1).nextEntry ∧ e.upto = from_.nextId ∧ e.completion = false ∧
    Advanced i { from_ with stores := from_.stores ++ [e], marker := if op = .marker then some e.id else from_.marker } sl' ∧
    (t.core s.cur.1).released = (base.core s.cur.1).released ∧ (t.core s.cur.1).nextEntry = (base.core s.cur.1).nextEntry + 1

/-- The same with nothing changed before. -/
def Buffers (i : Instr) (s : State) (from_ : Slot) (op : SOp) (rel : Bool) (sc : BitVec 3) : Prop := BuffersOver i s s from_ op rel sc

/-! ## Atomics -/

/-- What an atomic of Table 7.6 stores over `m`, both operands of `n` bytes; `fadd` is the FP32 sum in RNE. -/
def atomResult (op : AtomOp) (core n : Nat) (m b : Nat) : Nat :=
  let signed (x : Nat) : Int := Int.bmod x (2 ^ (8 * n))
  match op with
  | .add => (m + b) % 2 ^ (8 * n)
  | .and => m &&& b
  | .or => m ||| b
  | .xor => m ^^^ b
  | .minI => if signed m ≤ signed b then m else b
  | .minN => if m ≤ b then m else b
  | .maxI => if signed b ≤ signed m then m else b
  | .maxN => if b ≤ m then m else b
  | .swap => b
  | .fadd => (Float.add .f32 0 { core := core, idx := 0 } (m % 2 ^ 32) (b % 2 ^ 32)).1

/-- An instruction completes by storing bytes into a pool and writing a register, in a revocable span whose journal has room. -/
def StoresAndWrites (i : Instr) (u : Ctl) (s base : State) (after : Slot) (pool : List (Nat × Nat × Byte)) (w : RegWrite) : Prop :=
  ∃ t sl' from_, exec i s = .next t ∧ PoolStored base t s.cur.1 after.act pool ∧ t.curSlot = some sl' ∧ Retired i u w from_ sl' ∧
    from_ = { after with journal := after.journal ++ base.newJournal after.journal pool, newer := from_.newer }

/-- The instruction completes by making its span irrevocable, which releases what it has buffered, and sending for a result (R34, R132). -/
def LaunchesIrrevocable (i : Instr) (u : Ctl) (s : State) (from_ : Slot) (d : Reg) (op : LoadOp) : Prop :=
  ∃ t sl' mid, exec i s = .next t ∧ SameMem s t ∧ t.curSlot = some sl' ∧ Launched i u d op mid sl' ∧
    mid.irrev = true ∧ mid.stores = [] ∧ mid.journal = [] ∧ mid.x = from_.x ∧ mid.v = from_.v ∧ mid.p = from_.p ∧ mid.pc = from_.pc ∧
    mid.loads = from_.loads ∧ mid.act = from_.act ∧ mid.held = from_.held

/-- As `Turn`, with an atomic line region open. -/
structure TurnIn (s : State) (u : Ctl) (how : Under) (sl : Slot) (r : Region) : Prop where
  consumed : ∃ sl0, s.curSlot = some sl0 ∧ sl0.consume (Slot.tagsOf u.ct) = .done sl
  acts : sl.acts u how = true
  room : u.at' = 0 ∨ sl.landingFull u.at' = false
  region : sl.region = some r
  admits : ∀ tag ∈ Slot.tagsOf u.ct, ∀ k d t pc va, RegionAcc.load k d t pc va ∈ r.accs → t ≠ tag

/-! ## The injection queue -/

/-- The instruction completes by placing one entry of width `n` at the young end of the injection queue (R145): beyond `base` only the issuing core
changes. In an irrevocable span the entry is released at once (R34). -/
def InjectsOver (i : Instr) (s base : State) (from_ : Slot) (op : InjOp) (n : Nat) : Prop :=
  ∃ t sl' e, exec i s = .next t ∧ OnlyCore base t s.cur.1 ∧ t.curSlot = some sl' ∧ Advanced i from_ sl' ∧
    (t.core s.cur.1).inj = (base.core s.cur.1).inj ++ [e] ∧ e.op = op ∧ e.act = from_.act ∧ e.slot = s.cur.2 ∧
    e.released = from_.irrev ∧ e.behind = from_.marker ∧ e.upto = from_.nextId ∧ e.width = n ∧
    (t.core s.cur.1).inbox = (base.core s.cur.1).inbox ∧ (t.core s.cur.1).released = (base.core s.cur.1).released

/-- The same with nothing changed before. -/
def Injects (i : Instr) (s : State) (from_ : Slot) (op : InjOp) (n : Nat) : Prop := InjectsOver i s s from_ op n

/-- The instruction waits: it stays at its PC, with its tags consumed, and nothing else changes. -/
def Waits (i : Instr) (s : State) (sl : Slot) : Prop := exec i s = .next (s.putCur sl)

/-- The message that core `c` sends (R25, R145): DST, CHAN, CLS, its own context, its own id, the payload. -/
def sentMsg (s : State) (dst : Nat) (ch : BitVec 6) (cls : Bool) (body : List Word) : Msg :=
  { dst := BitVec.ofNat 13 dst, chan := ch, cls := cls, ctx := BitVec.ofNat 8 (s.coreCtx s.cur.1), src := BitVec.ofNat 13 s.cur.1,
    body := body }

/-- `n` registers from register number `b` upward. -/
def registers (sl : Slot) (b : Reg) (n : Nat) : List Word := (List.range n).map (fun j => sl.getX (b + BitVec.ofNat 6 j))

/-- The status word of Table 7.9. -/
def statusWord (co : Core) (ch : Nat) : Word :=
  let h := co.entryOf ch
  ((BitVec.ofNat 4 (co.boundOn ch) ++ BitVec.ofBool (co.aged ch) ++ BitVec.ofBool h.cls ++ BitVec.ofNat 3 h.pri ++ BitVec.ofBool h.v ++
    BitVec.ofBool (co.runnable ch) ++ BitVec.ofBool h.msk ++ BitVec.ofNat 8 (co.chanMsgs ch).length : BitVec 20)).setWidth 64

/-! ## Blocks in the scratchpad -/

/-- An operand region of R157: 128-aligned in the local window, K a multiple of 32 from 32 to 8,192, wholly in the scratchpad. -/
def operandRegion (addr k size scr : Nat) : Prop :=
  addr < 0x40000 ∧ addr % 128 = 0 ∧ 32 ≤ k ∧ k ≤ 8192 ∧ k % 32 = 0 ∧ addr + size ≤ scr

/-- The bytes of an A operand of `k` columns in `pa` planes (R155). -/
def sizeA (pa k : Nat) : Nat := k / 32 * (128 + 256 * pa)
/-- The bytes of a B operand of `k` rows; `wide` says that an element has two bytes (R156). -/
def sizeB (wide : Bool) (k : Nat) : Nat := k / 32 * (128 + if wide then 4096 else 2048)

/-- The `n` words that the current activation reads in its own pool from offset `va` on. -/
def State.ownWords (s : State) (sl : Slot) (va n : Nat) : List Word :=
  (List.range n).map (fun w => BitVec.ofNat 64 (littleEndian (fun j => s.ownByte sl s.cur.1 (va + 8 * w + j)) 8))

/-- The issuing core's scratchpad holds a block of `n` bytes at `va`, 64-aligned and without poison. -/
def State.holdsBlock (s : State) (sl : Slot) (va n : Nat) : Prop :=
  va % 64 = 0 ∧ va + n ≤ s.scrBytes s.cur.1 ∧ s.clean sl s.cur.1 va n

/-! ## Requests that stand alone in the store buffer -/

/-- As `Buffers`, writing a register too. -/
def BuffersAndWrites (i : Instr) (u : Ctl) (s : State) (from_ : Slot) (op : SOp) (w : RegWrite) : Prop :=
  ∃ t sl' e, exec i s = .next t ∧ OnlyCore s t s.cur.1 ∧ t.curSlot = some sl' ∧ e.op = op ∧ e.rel = false ∧ e.sc = 0 ∧
    e.id = (s.core s.cur.1).nextEntry ∧ Retired i u w { from_ with stores := from_.stores ++ [e] } sl' ∧
    (t.core s.cur.1).released = (s.core s.cur.1).released

/-- A counter operand names no counter, or one of the context (R139, R190). -/
def State.counterOk (s : State) (ctr : BitVec 18) : Prop :=
  ctr = 0 ∨ (s.counterOf (s.coreCtx s.cur.1) (ctr.setWidth 64)).isSome = true

/-- The descriptor of the context's directory that covers an address, as the walk of R292 finds it. -/
def State.coveredBy (s : State) (va : Word) : Option Desc :=
  if va.toNat < 2 ^ 52 then s.dirFind (s.coreCtx s.cur.1) va.toNat else none

/-- The 4 words of a descriptor, or zeros (R195). -/
def descWords : Option Desc → List Word
  | some d => d.words
  | none => [0, 0, 0, 0]

/-- The store-buffer entries of a slot as `done` and `commit` release them (R126): in order, with what follows an own completion counter. -/
def releasedAs (act k : Nat) (byDone : Bool) (es : List SEntry) : List Rel :=
  es.map (fun e => { act := act, slot := k, byDone := byDone, e := e })

/-! ## Traps -/

/-- Core `c` of context `x` has raised one record in the buffer (R312, R313, Table 16.3): its cause, KIND, ATT, slot, PC and
information words, and a sequence number one above the last. -/
def Recorded (s t : State) (c x k : Nat) (pc : Pc) (tr : Trap) (kind : BitVec 4) (att : Nat) : Prop :=
  ∃ m : Msg, (t.core c).recs = (s.core c).recs ++ [m] ∧ (t.core c).seq = (s.core c).seq + 1 ∧
    m.dst = BitVec.ofNat 13 (s.ctx x).sup ∧ m.chan = 1 ∧ m.cls = false ∧ m.err = true ∧ m.ctx = BitVec.ofNat 8 x ∧
    m.src = BitVec.ofNat 13 c ∧ m.body.length = 7 ∧
    (m.body.getD 0 0).extractLsb' 48 16 = BitVec.ofNat 16 tr.cause.code ∧ (m.body.getD 0 0).extractLsb' 44 4 = kind ∧
    (m.body.getD 0 0).extractLsb' 42 2 = BitVec.ofNat 2 att ∧ (m.body.getD 0 0).extractLsb' 8 3 = BitVec.ofNat 3 k ∧
    m.body.getD 1 0 = pc.setWidth 64 ∧ m.body.getD 2 0 = tr.info ∧ m.body.getD 4 0 = tr.info2 ∧
    m.body.getD 6 0 = ((s.core c).seq + 1).setWidth 64

/-- How far channel `ch` stands behind LAST[p], ascending and wrapping from 63 to 0: 0 is the first that follows (R29). -/
def follows (last ch : Nat) : Nat := (ch + 63 - last) % 64

/-- `ch` is the selector's choice among the runnable channels of a core (R29): of the aged ones, those that have stayed runnable through
`sel.age` activation ends, the one runnable longest; with none aged, of the highest priority the first that follows LAST of it. -/
def Chosen (co : Core) (ch : Nat) (aged : Bool) : Prop :=
  let old (x : Nat) : Prop := co.selAge.toNat ≤ Sparse.get 0 co.ages x ∧ co.runnable x = true
  (aged = true → ∃ pre suf, co.order = pre ++ ch :: suf ∧ old ch ∧ ∀ x ∈ pre, ¬ old x) ∧
  (aged = false → (∀ x ∈ co.order, ¬ old x) ∧ co.runnable ch = true ∧ ∀ x, x < 64 → co.runnable x = true → x ≠ ch →
    (co.entryOf x).pri < (co.entryOf ch).pri ∨ ((co.entryOf x).pri = (co.entryOf ch).pri ∧
      follows (co.lastOf (co.entryOf ch).pri) ch < follows (co.lastOf (co.entryOf ch).pri) x))

/-- The messages of a core's inbox, wherever they stand in it. -/
def inboxOf (co : Core) : List Msg := co.inbox.map (fun m => { m with area := 0 })

/-- The slot is free and its messages stand again before all others, `held` as given (R33). -/
def Returned (s t : State) (c k : Nat) (held : List Msg) : Prop :=
  t.slot c k = none ∧ inboxOf (t.core c) = held.map (fun m => { m with area := 0 }) ++ inboxOf (s.core c)

/-- The activation is back at its checkpoint with nothing buffered or outstanding (R33). -/
def Reentered (t : State) (c k : Nat) (ck : Ckpt) : Prop :=
  ∃ sl, t.slot c k = some sl ∧ sl.x = ck.x ∧ sl.v = ck.v ∧ sl.p = ck.p ∧ sl.cursor = ck.cursor ∧ sl.pc = ck.pc ∧ sl.stores = [] ∧
    sl.loads = [] ∧ sl.landing = [] ∧ sl.journal = [] ∧ sl.hold = .ready ∧ sl.irrev = false

/-! ## Events -/

/-- What a core injects: one message with the core's next MID (R25). -/
def sentBy (c act : Nat) (m : Msg) (mid : BitVec 16) : Flight := { src := c, act := act, op := .msg { m with mid := mid } }

/-- The outstanding result `id` of slot `k` of core `c` comes to `w`; nothing else of the slot changes. -/
def Decided (s t : State) (c k id : Nat) (w : RegWrite) : Prop :=
  t.slot c k = (s.slot c k).map (fun sl => { sl with
    loads := sl.loads.map (fun l => if l.id = id then { l with res := some (.ready w) } else l) })

/-- Task `a` stands before or level with task `b`: by priority, then by age (R40). -/
def Task.leads (a b : Task) : Prop := b.prio < a.prio ∨ (a.prio = b.prio ∧ a.seq ≤ b.seq)

/-- Counter `h` and no other becomes `v`. -/
def CounterIs (s t : State) (h : Nat) (v : Counter) : Prop := t.counter h = v ∧ ∀ o, o ≠ h → t.counter o = s.counter o

/-- A counter after an add of `n` (R142). -/
def Counter.plus (c : Counter) (n : Nat) : Counter :=
  if 2 ^ 64 ≤ c.val.toNat + n then { val := BitVec.allOnes 64, code := if c.code = 0 then 0x81 else c.code }
  else { val := BitVec.ofNat 64 (c.val.toNat + n), code := c.code }

/-- A counter after an error of code `e` (R144). -/
def Counter.failed (c : Counter) (e : BitVec 8) : Counter := { val := c.val, code := if c.code = 0 then e else c.code }

/-- Released entries without the step at which they left their core. -/
def unleft (rs : List Rel) : List Rel := rs.map (fun r => { r with left := none })

/-- Of the released entries of core `c` the one at place `n` is gone, and markers alone beside it; of the others only that they have
left the core may be new, and what has left stays so (R126). -/
def Performed (s t : State) (c n : Nat) : Prop :=
  List.Sublist (unleft (t.core c).released) (unleft ((s.core c).released.eraseIdx n)) ∧
  ∀ r ∈ (s.core c).released.eraseIdx n, r.e.op ≠ .marker →
    ∃ q ∈ (t.core c).released, { q with left := r.left } = r ∧ (r.left ≠ none → q = r)

/-- Memory is as before but for the bytes `bs`, of which the last at an address holds. -/
def Written (s t : State) (bs : List (Nat × Byte)) : Prop :=
  ∀ a, t.byte a = match bs.reverse.find? (fun e => decide (e.1 = a)) with | some e => e.2 | none => s.byte a

/-- Outstanding result `l` of a slot has come as the write `w`: an untagged one ends the wait and is written, or waits for its write
point; a tagged one stands in its landing buffer (R58, R72, R74). A vector is one value, its lanes merged with those of the register
when the instruction issued (R106). -/
def Delivered (s t : State) (c k : Nat) (l : Load) (w : RegWrite) : Prop :=
  ∃ sl sl', s.slot c k = some sl ∧ t.slot c k = some sl' ∧ (∀ y ∈ sl'.loads, y.id ≠ l.id) ∧ sl'.pc = sl.pc ∧
    (l.tag = 0 → sl'.hold = .ready ∧ sl'.landing = sl.landing ∧
      (l.pd = 0 → Reg.isX w.d = true → ∀ r, sl'.getX r = if r = w.d ∧ r ≠ 0 then w.x else sl.getX r) ∧
      (l.pd = 0 → Reg.isV w.d = true → ∀ j, j < 16 →
        lane (sl'.getV w.d) j = if w.mask.getLsbD j then lane w.lanes j else lane l.old j) ∧
      (l.pd ≠ 0 → sl'.late = sl.late ++ [(l.pd, w.whole l.old)] ∧ sl'.x = sl.x)) ∧
    (l.tag ≠ 0 → sl'.x = sl.x ∧ sl'.hold = sl.hold ∧
      sl'.landing = sl.landing.map (fun y => if y.st = .wait l.id then { y with st := .ready (w.whole l.old) } else y))

/-- The same for a fault (R77): an untagged result traps at its own PC, a tagged one waits in its landing buffer to be consumed. -/
def Failed (s t : State) (c k : Nat) (l : Load) (tr : Trap) : Prop :=
  let gone := s.modSlot c k (fun sl => { sl with loads := sl.loads.filter (fun y => decide (y.id ≠ l.id)) })
  (l.tag = 0 → t = (gone.takeTrap c k l.pc tr).dropMarkers c) ∧
  (l.tag ≠ 0 → ∃ sl sl', s.slot c k = some sl ∧ t.slot c k = some sl' ∧ sl'.x = sl.x ∧
    sl'.landing = sl.landing.map (fun y => if y.st = .wait l.id then { y with st := .fault tr } else y))

/-- The values of the context CSRs of Table 9.13, by number. -/
def State.ctxCsrs (s : State) (k : Nat) : List (Nat × Word) :=
  let x := s.ctx k
  [(0, x.flagsNow.setWidth 64), (1, x.oobaddr), (2, x.dbg.setWidth 64), (3, x.gangTo.setWidth 64), (4, x.grpTo.setWidth 64),
   (6, BitVec.ofNat 64 (x.sup * 2 ^ 16 + k)), (7, x.parcBase), (8, x.parcSize)]

/-- `y` is context `x` after context CSR `n` has been written with `v` (Table 9.13). -/
def CsrWritten (x y : Ctx) (n : Nat) (v : Word) : Prop :=
  y.flagsNow = (if n = 0 then v.setWidth 7 else x.flagsNow) ∧ y.oobaddr = (if n = 1 then v else x.oobaddr) ∧
  y.dbg = (if n = 2 then v.setWidth 1 else x.dbg) ∧ y.gangTo = (if n = 3 then v.setWidth 32 else x.gangTo) ∧
  y.grpTo = (if n = 4 then v.setWidth 32 else x.grpTo) ∧ y.parcBase = (if n = 7 then v else x.parcBase) ∧
  y.parcSize = (if n = 8 then v else x.parcSize)

/-- The completion counter that an instruction named takes `code` unless it is 0, and then an add of 1. -/
def Completes (s t : State) (h : Option Nat) (code : BitVec 8) : Prop :=
  match h with
  | none => t.counters = s.counters
  | some h => CounterIs s t h ((if code = 0 then s.counter h else (s.counter h).failed code).plus 1)

/-- The little-endian word that memory holds at `a`. -/
def State.wordAt (s : State) (a : Nat) : Nat := littleEndian (fun j => s.byte (a + j)) 8

/-- Context `k` may use the `n` bytes at virtual address `va`, which lie from physical address `pa` on, with the permissions `need`. -/
def State.area (s : State) (k va pa n : Nat) (need : BitVec 8) : Prop :=
  pa + n ≤ 0x7F0000000000 ∧ ∀ j, j < n → s.dirTranslate k (va + j) need = .ok (pa + j) ∧ s.poisoned (pa + j) = false

/-- Every byte of memory outside the `n` bytes from `a` on is as before. -/
def SameBut (s t : State) (a n : Nat) : Prop := ∀ x, x < a ∨ a + n ≤ x → t.byte x = s.byte x

/-- A context exception counter after `n` more events: it saturates (Table 10.3). -/
def Counted (old new : BitVec 32) (n : Nat) : Prop := new.toNat = min (old.toNat + n) (2 ^ 32 - 1)

/-- Unit `u` of die `d` has queued the record of core `c` in context `k` (R312, R313): its cause, KIND 3 and INFO2. -/
def UnitRecorded (s t : State) (d u k c : Nat) (cause : Cause) (info2 : Word) : Prop :=
  ∃ m : Msg, (t.die d).recs = (s.die d).recs ++ [(u, m)] ∧ m.dst = BitVec.ofNat 13 (s.ctx k).sup ∧ m.src = BitVec.ofNat 13 c ∧
    m.chan = 1 ∧ m.err = true ∧ (m.body.getD 0 0).extractLsb' 48 16 = BitVec.ofNat 16 cause.code ∧
    (m.body.getD 0 0).extractLsb' 44 4 = 3 ∧ m.body.getD 4 0 = info2

/-- The handle of a counter (R139). -/
def counterHandle (h : Nat) : Word := BitVec.ofNat 64 (2 ^ 17 + h)

/-- Of a gang's arrivals the first: the earliest, of one cycle the lowest member (R161). -/
def GangArr.leads (a : GangArr) (as : List GangArr) : Prop :=
  a ∈ as ∧ ∀ b ∈ as, a.cycle < b.cycle ∨ (a.cycle = b.cycle ∧ a.core ≤ b.core)

/-- An engine of context `k` reads, for core `c`, the `n` bytes `f` from address `va` on: each lies in memory of this module, is
translated and permitted, and is not poisoned (R170, R172). -/
def State.engHolds (s : State) (k c va n : Nat) (f : Nat → Byte) : Prop :=
  ∀ i, i < n → ∃ key, s.engKey k c (va + i) permR = .ok (.mem key) ∧ s.byte key = f i ∧ s.poisoned key = false ∧
    (keyIsPool key = true → (s.core (keyCore key)).lost = false) ∧ (keyIsPool key = false → paClass key ≠ .peer)

/-- An engine may write, for core `c`, the `n` bytes from `va` on, which lie at `key` and hold no poison. -/
def State.engTakes (s : State) (k c va n : Nat) (key : Nat → Nat) : Prop :=
  ∀ i, i < n → s.engKey k c (va + i) permW = .ok (.mem (key i)) ∧ s.poisoned (key i) = false ∧
    (keyIsPool (key i) = false → paClass (key i) ≠ .peer)

/-- The `n` bytes that an engine writes for core `c`, at `key`, stay off the host links, and no write of the core with this step's number
waits for an acknowledgement (R323, R331): a job that makes them completes at once. -/
def State.engSettles (s : State) (c n : Nat) (key : Nat → Nat) : Prop :=
  s.engOut c s.tick = false ∧ ∀ i, i < n → keyIsPool (key i) = true ∨ paClass (key i) ≠ .host

/-- The result word of job `j`, when it names one in a scratchpad, holds `v` (R172). -/
def Resulted (s t : State) (j : Job) (v : Nat) : Prop :=
  ∀ c off, j.n 2 ≠ 0 → place j.core (j.n 2) = .pool c off → (s.core c).ctx = some j.ctx → off + 8 ≤ s.scrBytes c →
    (∀ i, i < 8 → s.poisoned (poolKey c off + i) = false) → t.wordAt (poolKey c off) = v

/-- Job number `n` of a front-end has left it with its counter raised, with `code` if that is not 0 (R172). -/
def JobEnded (s t : State) (die n : Nat) (j : Job) (code : BitVec 8) : Prop :=
  Completes s t (s.jobCounter j) code ∧ (t.die die).jobs = (s.die die).jobs.eraseIdx n

/-- The 4 bytes of a 32-bit word. -/
def byteOf (w j : Nat) : Byte := BitVec.ofNat 8 (w / 256 ^ j)

/-- The completion of an index request (R187, Table 9.3): words 1 to 5, then WORD; reply-class, from the issuing core to itself, with ERR
for a nonzero STATUS. -/
def completionOf (r : IxReq) (ws : List Word) : Msg :=
  { dst := BitVec.ofNat 13 r.core, chan := (r.words.getD 1 0).extractLsb' 0 6, cls := true, ctx := BitVec.ofNat 8 r.ctx,
    src := BitVec.ofNat 13 r.core, err := decide ((ws.headD 0).extractLsb' 0 8 ≠ 0), body := ws ++ [r.words.getD 5 0] }

/-- Engine `e` of die `d` has sent the completion of a request, and nothing else is on its way that was not before. -/
def CompletionSent (s t : State) (d e : Nat) (r : IxReq) (ws : List Word) : Prop :=
  t.flight = s.flight ++ [sentBy 8192 0 (completionOf r ws) (Sparse.get 0 (s.die d).unitMid (16 + e))]

/-- The place of an entry in the order of R257 against a query. -/
def Index.place (x : Index) (q : List (BitVec 32)) (e : IxEntry) : Rank :=
  { d := distance x.met q e.vec, key := e.key.toNat, seq := e.seq }

/-- The directory of a context lists its ranges in ascending order, none overlapping the next, each valid (R289, R292). -/
def State.dirOrdered (s : State) (k : Nat) : Prop :=
  (∀ d ∈ s.dir k, d.valid = true) ∧ List.Pairwise (fun x y : Desc => x.limit ≤ y.vbase) (s.dir k)

/-- `n` bytes from `a` on lie apart from both directory buffers of a context. -/
def State.apart (s : State) (k a n : Nat) : Prop := ∀ b, b < 2 → a + n ≤ s.dirBuf k b ∨ s.dirBuf k b + 2 ^ 21 ≤ a

/-- Walker 0 has written the new directory into the buffer that was not selected and selected it: of the ranges those with the given bases
are gone and the given ones new (R293). -/
def Swapped (s t : State) (k : Nat) (gone : List Nat) (new : List Desc) : Prop :=
  t.dirSel k = 1 - s.dirSel k ∧ t.dirBase k = s.dirBuf k (1 - s.dirSel k) ∧
  (∀ x, x ∈ t.dir k ↔ (x ∈ s.dir k ∧ x.vbase ∉ gone) ∨ x ∈ new) ∧ t.dirN k + gone.length = s.dirN k + new.length ∧
  List.Pairwise (fun x y : Desc => x.limit ≤ y.vbase) (t.dir k)

/-- No range table that serves a context holds a descriptor with one of the given bases. -/
def Purged (t : State) (k : Nat) (gone : List Nat) : Prop :=
  ∀ c, (t.core c).ctx = some k → ∀ e ∈ (t.core c).rtab, e.desc.vbase ∉ gone

/-- The ring of a level: a context's, or with `none` the device's. -/
def State.ringOf (s : State) (k : Option Nat) (level : Nat) : Ring :=
  match k with
  | some k => Sparse.get {} (s.ctx k).rings level
  | none => Sparse.get {} s.mgmt.rings level

/-- A ring after an uncorrectable error has come to it (R315, Table 16.5): a full ring counts the record as lost; another stores its level,
KIND, CAUSE, unit, die, index, address and time behind the others. -/
def Ringed (r r' : Ring) (level kind cause unit die idx : Nat) (saddr : Word) (time : Nat) : Prop :=
  (256 ≤ r.recs.length → r'.recs = r.recs ∧ r'.lost = r.lost + 1) ∧
  (r.recs.length < 256 → ∃ w : List Word, r'.recs = r.recs ++ [w] ∧ r'.lost = 0 ∧ w.length = 8 ∧
    (w.getD 0 0).extractLsb' 56 8 = BitVec.ofNat 8 level ∧ (w.getD 0 0).extractLsb' 52 4 = BitVec.ofNat 4 kind ∧
    (w.getD 0 0).extractLsb' 32 16 = BitVec.ofNat 16 cause ∧ (w.getD 0 0).extractLsb' 16 16 = BitVec.ofNat 16 (min r.lost 65535) ∧
    w.getD 1 0 = saddr ∧ (w.getD 3 0).extractLsb' 16 8 = BitVec.ofNat 8 unit ∧ (w.getD 3 0).extractLsb' 13 3 = BitVec.ofNat 3 die ∧
    (w.getD 3 0).extractLsb' 0 13 = BitVec.ofNat 13 idx ∧ w.getD 5 0 = BitVec.ofNat 64 time)

/-- An entry of two words has come to the completion ring (R324): a ring with room and nothing held back takes it at its tail; a full one
leaves it to those held back. -/
def Told (s t : State) (w0 w1 : Word) : Prop :=
  let addr := s.mgmt.rqb.toNat + 16 * (s.mgmt.rqt.toNat % s.mgmt.cqn.toNat)
  let free := (s.mgmt.rqt - s.mgmt.rqh).toNat < s.mgmt.cqn.toNat
  (free → s.mgmt.back = [] → t.mgmt.rqt = s.mgmt.rqt + 1 ∧ t.mgmt.back = [] ∧
    (addr + 16 ≤ 0x7F0000000000 → t.wordAt (0x010000000000 + addr) = w0.toNat ∧ t.wordAt (0x010000000000 + addr + 8) = w1.toNat)) ∧
  (¬ free → t.mgmt.rqt = s.mgmt.rqt ∧ t.mgmt.back = s.mgmt.back ++ [(w0, w1)])

/-- An event entry (R324, Table 17.5). -/
def EventTold (s t : State) (code info : Nat) : Prop :=
  Told s t (BitVec.ofNat 64 (code * 2 ^ 48 + 0xFFFFFFFF)) (BitVec.ofNat 64 info)

/-- The youngest record in a core's record buffer has this cause and is a context error (R312). -/
def Raised (t : State) (c : Nat) (cause : Cause) : Prop :=
  ∃ (pre : List Msg) (m : Msg), (t.core c).recs = pre ++ [m] ∧ (m.body.getD 0 0).extractLsb' 48 16 = BitVec.ofNat 16 cause.code ∧
    (m.body.getD 0 0).extractLsb' 44 4 = 4

/-- Link `n` alone has changed on the fabric side, to `l`. -/
def LinkIs (s t : State) (n : Nat) (l : Link) : Prop :=
  t.link n = l ∧ (∀ m, m ≠ n → t.link m = s.link m) ∧ t.fab.peers = s.fab.peers

/-- Entry `v` of four counts. -/
def four (l : List Nat) (v : Nat) : Nat := l.getD v 0

/-- The receive buffer of a link direction (Table 14.3). -/
def bufferOf (n : Nat) : Nat := if n < 31 then 512 else 1024

/-- The cells that wait for link `n` and for others, oldest first: those for its other end alone, as from 64, then all others (R303, R328). -/
def State.waitingFor (s : State) (n : Nat) : List (Nat × Cell) := (s.link n).own.map (fun c => (64, c)) ++ s.fab.out

/-- A waiting cell that a link may send: it is for the link's other end or the routing table sends it there, and its VC has credit (R279,
R328). -/
def State.maySend (s : State) (n : Nat) (e : Nat × Cell) : Prop :=
  (e.1 = 64 ∨ s.routeOf e.2.ddev.toNat = some n) ∧ four (s.link n).inFlight e.2.vc.toNat < four (s.link n).limit e.2.vc.toNat

/-- A reservation names the flow of a cell (Table 14.5). -/
def names (r : BitVec 32) (c : Cell) : Prop :=
  r.getLsbD 31 = true ∧ r.extractLsb' 29 2 = c.vc ∧ r.extractLsb' 23 6 = c.ctx ∧
  (r.extractLsb' 8 15 = BitVec.allOnes 15 ∨ r.extractLsb' 8 15 = c.ddev)

/-- How far VC `v` stands behind the one last served: 0 is the next one (R282). -/
def behind (last v : Nat) : Nat := (v + 7 - last % 4) % 4

/-- An end-to-end acknowledgement for device `d` waits to leave, behind what waited before (R330, R331). -/
def AckSent (s t : State) (d : BitVec 15) : Prop :=
  ∃ a : Cell, t.fab.out = s.fab.out ++ [(63, a)] ∧ a.ddev = d ∧ a.sdev = s.mgmt.devnum ∧ a.kind = 4 ∧ a.eseq = 0

/-! ## Peers, findings and flits -/

/-- A cell of a KIND that brought access `p` has been performed and is acknowledged, after its reply when it has one: a KIND 2 cell on VC 1 to its
device, behind those that waited there (R289, R331, Table 14.3). -/
structure PeerTaken (s t : State) (p : PeerAccess) (kind : Nat) (reply : Option PeerAnswer) : Prop where
  handed : (t.peer p.dev.toNat).handed = (s.peer p.dev.toNat).handed.erase (p.eseq, kind)
  acked : ∃ (pre : List (Nat × Cell)) (a : Cell), t.fab.out = s.fab.out ++ pre ++ [(63, a)] ∧ a.ddev = p.dev ∧ a.sdev = s.mgmt.devnum ∧ a.kind = 4 ∧
    a.eseq = 0 ∧ (reply = none → pre = [])
  answer : ∀ a, reply = some a → ∃ cs x, (t.peer p.dev.toNat).kept ++ (t.peer p.dev.toNat).waiting = cs ++ [x] ∧ x.cell.kind = 2 ∧
    x.cell.vc = 1 ∧ x.cell.ddev = p.dev ∧ x.cell.sdev = s.mgmt.devnum ∧ x.va = p.va ∧ x.cell.body = Config.replyBody a

/-- A control flit of a kind with its fields and value, as a sender with this key makes it (R327). -/
def flitOf (key : BitVec 256) (kind : Nat) (fields : List Nat) (val : Nat) : FlitIn :=
  { val := val, crc := Config.flitCrc (kind :: fields ++ [val]), mac := Config.flitMac key (kind :: fields ++ [val]) }

/-- A control flit arrives on link `n` whole: as the other end made it under the key in use (R327). -/
def State.wholeFlit (s : State) (n kind : Nat) (fields : List Nat) (f : FlitIn) : Prop :=
  f = flitOf (linkKey n false (s.link n).rxGen) kind fields f.val

/-- The link has gone down (R333): its replay buffer is empty, the credits that waited stay (R279), LKD is set, and the host hears of it. -/
def WentDown (s t : State) (n : Nat) : Prop :=
  (t.link n).st = 0 ∧ (t.link n).replay = [] ∧
  (∃ pre, (t.link n).flits = pre ++ (s.link n).flits.filter Flit.isCredit ∧ ∀ f ∈ pre, f.isCredit = true) ∧ t.mgmt.health = s.mgmt.health ||| 0x10 ∧ EventTold s t 0x8002 n

/-- SCRUB_SWEEP of context `k` brings one finding: an access of a core, slot and address has met it, and its record is of KIND 1; or the
sweep of its level, which is due, and its record is of KIND 2 (R314, R315, Table 16.5). -/
def State.findsOne (s : State) (k : Nat) (what : SoftError) (level : Nat) (f : Sweep) (kind : Nat) : Prop :=
  (∃ who, f = { finds := [{ what := what, by_ := some who }] } ∧ kind = 1) ∨
  (f = { level := some level, finds := [{ what := what }] } ∧ s.sweepDue k level = true ∧ kind = 2)

/-! ## Commands -/

/-- A host command has completed (R324): CQH is one higher, the completion entry carries STATUS, TAG and the number of result bytes, and
the result buffer holds the result as far as it reaches, where the completion entry does not lie on it. -/
def Answered (s t : State) (h : HostCmd) (status : Nat) (res : List Byte) : Prop :=
  let n := min res.length h.resLen
  let entry := s.mgmt.rqb.toNat + 16 * (s.mgmt.rqt.toNat % s.mgmt.cqn.toNat)
  t.mgmt.cqh = s.mgmt.cqh + 1 ∧ Told s t (BitVec.ofNat 64 (status * 2 ^ 48 + h.tag.toNat)) (BitVec.ofNat 64 n) ∧
  (s.mgmt.back = [] → ∀ i, i < n → h.resAddr + i < entry ∨ entry + 16 ≤ h.resAddr + i →
    t.byte (0x010000000000 + h.resAddr + i) = res.getD i 0)

/-- No command has begun and waits, and none stands in the command ring: the next one that the host puts there is taken at once (R324). -/
def State.cmdIdle (s : State) : Prop := s.mgmt.waiting = none ∧ s.mgmt.cqh = s.mgmt.cqt
/-- The result buffer of a command lies in host memory (Table 17.1). -/
def bufferOk (h : HostCmd) : Prop := h.resAddr + h.resLen ≤ 0x7F0000000000
/-- The device may perform a command. -/
def State.mayRun (s : State) (h : HostCmd) : Prop := s.cmdIdle ∧ bufferOk h

/-- The little-endian bytes of words. -/
def bytesOfWords (ws : List Word) : List Byte :=
  ws.flatMap (fun w => (List.range 8).map (fun j => BitVec.ofNat 8 (w.toNat / 256 ^ j)))

end Sys2Proof.Machine
end

