-- ==== Sys2Proof/Certificates/Slice0/Obligations.lean ====
section
/-! DEFINITION. The statements for the provers. -/

open Sys2Proof Sys2Proof.Machine

/-- R88 and Table 5.1 with R89 and R90: an integer instruction of either form writes f(a, b) to D, raises `idz` in the span shadow
exactly when a division or remainder has b = 0, and changes nothing else. R91 and Table 5.3: a bit-field instruction of well-formed
fields writes the value the table gives. -/
def Obligations.IntegerResult : Prop :=
  (∀ (i : Instr) (s : State) (op : Alu) (u : Ctl) (d a : Reg) (b : Second) (sl : Slot),
    aluForm i = some (op, u, d, a, b) → Turn s u .scalar sl →
    let x := readSrc s sl a
    let y := b.read s x.2
    let after := if op.divides = true ∧ y.1 = 0 then y.2.raise idz else y.2
    Writes i u s after { d := d, x := op.result x.1 y.1 }) ∧
  (∀ (i : Instr) (s : State) (u : Ctl) (d a : Reg) (sl : Slot),
    bitForm i = some (u, d, a) → i.WellFormed = true → Turn s u .scalar sl →
    ∃ r, BitField i (sl.getX d) (sl.getX a) r ∧ Writes i u s sl { d := d, x := r })

/-- R92 and Table 5.4: constants, moves, selection and extension write the value the table gives, whole or in the acting lanes.
R93, R94 and Table 5.5: comparisons and predicate operations write the sixteen bits that the rule gives. -/
def Obligations.MovesAndMasks : Prop :=
  (∀ (i : Instr) (s : State) (sl after : Slot) (u : Ctl) (d : Reg) (x : Word) (f : Nat → BitVec 32),
     i.WellFormed = true → Turn s u (under d) sl → moveForm s sl i = some (u, d, after, x, f) →
     Writes i u s after (classWrite sl u d x f)) ∧
  (∀ (i : Instr) (s : State) (sl : Slot) (u : Ctl) (d : Reg) (how : Under),
     i.WellFormed = true → maskForm i = some (u, d, how) → Turn s u how sl →
     ∃ r, MaskValue sl i r ∧ Writes i u s sl { d := d, x := r.setWidth 64 })

/-- R95 to R98 and Table 5.6: what each control transfer enters, writes or traps.
R79 and R100: `sig` checks S and starts a new block, `nop` does nothing, `brk` traps only under `dbg`, `trap` traps, and R82: an
illegal word that the decoder names traps in every form. -/
def Obligations.ControlFlow : Prop :=
  (∀ (s : State) (u : Ctl) (sl : Slot), Turn s u .scalar sl →
     (∀ imm, Enters (.br u imm) s sl (Advanced (.br u imm) sl) (relative sl.pc imm)) ∧
     (∀ imm, Enters (.j u imm) s sl (Advanced (.j u imm) sl) imm) ∧
     (∀ d imm, Enters (.jal u d imm) s sl
       (Retired (.jal u d imm) u { d := d, x := (nextPc sl.pc).setWidth 64 } sl) imm) ∧
     (∀ a, (sl.getX a).toNat < 2 ^ 32 →
       Enters (.jr u a) s sl (Advanced (.jr u a) sl) ((sl.getX a).setWidth 32)) ∧
     (∀ a, 2 ^ 32 ≤ (sl.getX a).toNat → Traps (.jr u a) s sl .fetchTarget (sl.getX a)) ∧
     (∀ d imm, sl.getX d ≠ 1 → Enters (.loop u d imm) s sl
       (Retired (.loop u d imm) u { d := d, x := sl.getX d - 1 } sl) (relative sl.pc imm)) ∧
     (∀ d imm, sl.getX d = 1 → Writes (.loop u d imm) u s sl { d := d, x := 0 }) ∧
     (∀ a len base, len.toNat ≤ (sl.getX a).toNat → Retires (.jtab u a len base) s sl) ∧
     (∀ a len base, (sl.getX a).toNat < len.toNat →
       let ea := base.toNat + 64 * ((sl.getX a).toNat / 15) + 4 * ((sl.getX a).toNat % 15)
       match s.jtabEntry s.cur.1 base ea with
       | some (target, key) => (s.awayDev key = none → Enters (.jtab u a len base) s sl (Advanced (.jtab u a len base) sl) target) ∧
           ∃ t m, exec (.jtab u a len base) s = .next t ∧ Advanced (.jtab u a len base) sl m ∧
             t.curSlot = some { m with pc := target, entry := some sl.pc, sig := target.setWidth 24 }
       | none => Traps (.jtab u a len base) s sl .jtabFault (BitVec.ofNat 64 ea))) ∧
  (∀ (s : State) (u : Ctl) (sl : Slot),
     (∀ imm, Turn s u .always sl → sl.sig = imm → ∃ t, exec (.sig u imm) s = .next t ∧
       OnlySlot s t s.cur.1 s.cur.2 ∧ t.curSlot = some { sl.age with
         pc := nextPc sl.pc, entry := none, sig := (nextPc sl.pc).setWidth 24 }) ∧
     (∀ imm, Turn s u .always sl → sl.sig ≠ imm → ∃ info, exec (.sig u imm) s =
       .next (s.takeTrap s.cur.1 s.cur.2 sl.pc { cause := .sigMismatch, info := info, info2 := sl.sig.setWidth 64 })) ∧
     (Turn s u .scalar sl → Retires (.nop u) s sl) ∧
     (∀ imm, Turn s u .scalar sl → (s.ctx (s.coreCtx s.cur.1)).dbg = 0 → Retires (.brk u imm) s sl) ∧
     (∀ imm, Turn s u .scalar sl → (s.ctx (s.coreCtx s.cur.1)).dbg = 1 →
       Traps (.brk u imm) s sl .debugBreak (imm.setWidth 64)) ∧
     (∀ imm, Turn s u .scalar sl → Traps (.trap u imm) s sl .userTrap (imm.setWidth 64)) ∧
     (s.curSlot = some sl → TrapsOpen (.illegal u) s sl .instrIllegal))

/-- R86: an instruction whose predicate is false only advances: it reads no operand, pops nothing, writes nothing and traps nothing.
R75 and R77: an instruction that names a tag whose results are still out waits at its PC with the tags before it consumed, and one that
names a tag with an error result takes that trap at the PC of the instruction that allocated the result.
R72 and R73: a write with PD = n takes effect when the slot has retired n more instructions, and not before; a write to x0 takes no
effect. -/
def Obligations.IssueAndDistance : Prop :=
  ((∀ (i : Instr) (how : Under) (s : State) (sl0 sl : Slot),
     howOf i = some how → s.curSlot = some sl0 → sl0.consume (Slot.tagsOf i.ctl.ct) = .done sl → sl.acts i.ctl how = false →
     Retires i s sl) ∧
   (∀ (i : Instr) (how : Under) (s : State) (sl0 : Slot), howOf i = some how → s.curSlot = some sl0 →
     (∀ sl, sl0.consume (Slot.tagsOf i.ctl.ct) = .wait sl →
       exec i s = .next (s.putCur sl) ∧ OnlySlot s (s.putCur sl) s.cur.1 s.cur.2 ∧ sl.pc = sl0.pc) ∧
     (∀ pc tr, sl0.consume (Slot.tagsOf i.ctl.ct) = .fault pc tr →
       exec i s = .next (s.takeTrap s.cur.1 s.cur.2 pc tr)))) ∧
  (∀ (sl : Slot) (u : Ctl) (d : Reg) (x : Word), u.at' = 0 → Reg.isX d = true → (∀ e ∈ sl.late, e.2.d ≠ d) →
     let ages (n : Nat) := (List.range n).foldl (fun q _ => q.age) (sl.wr u (some { d := d, x := x }))
     (∀ n, n < u.pd.toNat → (ages n).getX d = sl.getX d) ∧
     (d ≠ 0 → (ages u.pd.toNat).getX d = x) ∧ (d = 0 → ∀ n, (ages n).getX d = sl.getX d))

/-- R105 to R114: an element-wise float instruction writes the operation's result whole, or in the acting lanes, and raises the flags
of the elements that act. A NaN that lane l generates carries the core and the index l. R115: `fcmp` writes all ones or none for
scalars, and for vectors the comparison in each acting lane with the old bit in every other; only acting lanes raise flags.
R108 to R115 with Tables 6.1 to 6.4: the operations' values and flags: propagated, generated and canonical NaNs, infinities, signed
zeros, the exact result rounded once, overflow, underflow after rounding, inexact, division by zero, minimum, maximum and comparison,
classes, and conversions. -/
def Obligations.FloatResult : Prop :=
  (∀ (i : Instr) (s : State) (sl : Slot) (u : Ctl) (d : Reg) (srcs : List Reg) (f : Float.Gen → List Word → Word × Float.Flags),
    floatForm i = some (u, d, srcs, f) → Turn s u (under d) sl →
    let at_ (l : Nat) := f { core := s.cur.1, idx := l } (srcs.map (fun r => (lane (sl.getV r) l).setWidth 64))
    let scalar := f { core := s.cur.1, idx := 0 } (srcs.map sl.getX)
    (Reg.isV d = false → Writes i u s (sl.raise scalar.2) { d := d, x := scalar.1 }) ∧
    (Reg.isV d = true → ∃ fl, FlagUnion (sl.predMask u) (fun l => (at_ l).2) fl ∧
      Writes i u s (sl.raise fl) { d := d, lanes := lanesOf (fun l => (at_ l).1.setWidth 32), mask := sl.predMask u })) ∧
  (∀ (s : State) (sl : Slot) (u : Ctl) (cc : FCond) (t : FTy) (d a b : Reg), Turn s u (under a) sl →
    let scalar := Float.cmp t cc ((sl.getX a).toNat % 2 ^ Float.width t) ((sl.getX b).toNat % 2 ^ Float.width t)
    let at_ (l : Nat) := Float.cmp t cc ((lane (sl.getV a) l).toNat % 2 ^ Float.width t) ((lane (sl.getV b) l).toNat % 2 ^ Float.width t)
    (Reg.isV a = false → Writes (.fcmp u cc t d a b) u s (sl.raise scalar.2)
      { d := d, x := if scalar.1 = true then 0xFFFF else 0 }) ∧
    (Reg.isV a = true → ∃ (r : BitVec 16) (fl : Float.Flags), FlagUnion (sl.predMask u) (fun l => (at_ l).2) fl ∧
      (∀ l, l < 16 → r.getLsbD l = if (sl.predMask u).getLsbD l then (at_ l).1 else (sl.getP d).getLsbD l) ∧
      Writes (.fcmp u cc t d a b) u s (sl.raise fl) { d := d, x := r.setWidth 64 })) ∧
  (∀ (t dst : FTy) (rm : Float.Mode) (g : Float.Gen) (a b c : Nat) (k : Int) (kind : IKind), a < 2 ^ Float.width t → b < 2 ^ Float.width t →
    c < 2 ^ Float.width t →
    Float.BinaryRules t rm g a b ∧ (∀ np nc, Float.FusedRule t rm g np nc a b c) ∧ Float.UnaryRules t rm g a k ∧ Float.OrderRules t a b ∧
    Float.ConvertRules t dst rm a ∧ Float.IntegerRules t kind rm a k)

/-- R116 and Table 6.6: vector data movement writes the acting lanes the table gives; all sources are read first. `vext` writes a scalar.
R117 and R118: `vred`, whatever its predicate, writes the combination of the acting lanes, that of floats by the tree of four levels, or
the identity when none acts; `vscan` writes the running combination in each acting lane. Both raise the flags of their float steps. What a
tagged instruction with an empty mask does is the model's choice (log 24): `vred` acts all the same, and another allocates nothing and
writes nothing. -/
def Obligations.VectorMove : Prop :=
  ((∀ (i : Instr) (s : State) (sl : Slot) (u : Ctl) (d : Reg) (m : BitVec 16) (f : Nat → BitVec 32),
    laneForm sl i = some (u, d, m, f) → Turn s u .lanes sl →
    Writes i u s sl { d := d, lanes := lanesOf f, mask := m }) ∧
  (∀ (s : State) (sl : Slot) (u : Ctl) (d a b : Reg) (k : BitVec 4), Turn s u .scalar sl →
    Writes (.vext u d a b k) u s sl
      { d := d, x := (lane (sl.getV a) (((sl.getX b).toNat + k.toNat) % 16)).setWidth 64 })) ∧
  (∀ (s : State) (sl : Slot) (u : Ctl) (op : VOp) (d a : Reg),
    (Turn s u .always sl → ∃ r fl, Reduced op s.cur.1 (sl.predMask u) (sl.getV a) r fl ∧
      Writes (.vred u op d a) u s (sl.raise fl) { d := d, x := r }) ∧
    (Turn s u .lanes sl → ∃ out fl, Scanned op s.cur.1 (sl.predMask u) (sl.getV a) out fl ∧
      Writes (.vscan u op d a) u s (sl.raise fl) { d := d, lanes := out, mask := sl.predMask u }))

/-- R120 and R121 with Table 7.1: how an address is checked, in order: alignment; the own window; the cluster's window, which reaches
only cores of the same context; then the range table of the core, with its permissions, its resident extent and its parcel's state.
R292: over a directory of at most 65,536 descriptors in ascending order that do not overlap, a walk returns the descriptor that
covers the address, and none when none does. -/
def Obligations.AddressesResolve : Prop :=
  (∀ (s : State) (sl : Slot) (va n : Nat) (need : BitVec 8),
     s.resolve sl va n need =
       if va % n ≠ 0 then .bad .memAlign
       else if va < 0x40000 then .pool s.cur.1 va
       else if 0x100000 ≤ va ∧ va < 0x500000 then
         (if (s.core (memberOf s.cur.1 ((va - 0x100000) / 0x40000))).ctx = (s.core s.cur.1).ctx
          then .pool (memberOf s.cur.1 ((va - 0x100000) / 0x40000)) (va % 0x40000) else .bad .memWindow)
       else if 2 ^ 52 ≤ va then .bad .rangeMiss
       else match (s.core s.cur.1).rtab.find? (fun e => decide (e.desc.vbase ≤ va ∧ va < e.desc.vbase + 256 * e.desc.size)) with
         | none => .miss
         | some e =>
           if e.desc.perm &&& need ≠ need then .bad .rangePerm
           else if va < e.desc.vbase + 256 * e.desc.rlo ∨ e.desc.vbase + 256 * e.desc.rhi ≤ va then .bad .rangePartial
           else if e.desc.st = 2 ∨ e.desc.st = 3 ∨ e.desc.st = 4 ∨ e.desc.vbase ∈ sl.posted then .bad .parcelAbsent
           else .far ((va + e.desc.off.toNat) % 2 ^ 52)) ∧
  (∀ (e : Nat → Desc) (dirn ea : Nat), dirn ≤ 65536 →
     (∀ i j, i < j → j < dirn → (e i).vbase + 256 * (e i).size ≤ (e j).vbase) →
     (∀ i, i < dirn → (e i).vbase ≤ ea → ea < (e i).vbase + 256 * (e i).size → walkFind e dirn ea = some (e i)) ∧
     ((∀ i, i < dirn → ¬ ((e i).vbase ≤ ea ∧ ea < (e i).vbase + 256 * (e i).size)) → walkFind e dirn ea = none))

/-- R122 to R124 and Table 7.3: `ld`. From a pool it reads at issue the youngest bytes of its own activation, zero outside the
scratchpad with an out-of-range event (R14) of the first such address; a translated address is read at once where its own buffered
stores supply every byte, else the result is outstanding and reads the bytes from the translated address on, with what those stores
forward; a failed check traps with the address; a range-table miss waits for a walk; poison is `mem.poison`. -/
def Obligations.LoadResult : Prop :=
  ∀ (s : State) (u : Ctl) (k : LdKind) (d a : Reg) (imm : BitVec 32) (sl : Slot),
    Turn s u .scalar sl → sl.mayAccess = true →
    let i : Instr := .ld u k d a imm
    let src := readSrc s sl a
    let va := (src.1 + imm.signExtend 64).toNat
    let n := ldSize k
    (∀ t off, s.resolve sl va n permR = .pool t off → s.clean src.2 t off n →
      ∃ base : State, OobNoted s base src.2 t off va n ∧
        WritesOver i u s base src.2 { d := d, x := loaded k (littleEndian (fun j => s.ownByte src.2 t (off + j)) n) }) ∧
    (∀ t off, s.resolve sl va n permR = .pool t off → ¬ s.clean src.2 t off n → u.at' = 0 →
      ∃ base : State, OobNoted s base src.2 t off va n ∧ exec i s = .next (base.takeTrap s.cur.1 s.cur.2 sl.pc
        { cause := .memPoison, info := BitVec.ofNat 64 va })) ∧
    (∀ pa, s.resolve sl va n permR = .far pa → (∀ e ∈ s.outstanding src.2 pa n, e.2.isSome = true) →
      WritesOver i u s (s.touch s.cur.1 va) src.2
        { d := d, x := loaded k (littleEndian (fun j => (s.fwd s.cur.1 src.2 (pa + j)).getD 0) n) }) ∧
    (∀ pa, s.resolve sl va n permR = .far pa → (∃ e ∈ s.outstanding src.2 pa n, e.2 = none) →
      LaunchesLoad i u s src.2 d (.mem k) va 0xFFFF (s.outstanding src.2 pa n)) ∧
    (∀ c, s.resolve sl va n permR = .bad c → Traps i s src.2 c (BitVec.ofNat 64 va)) ∧
    (s.resolve sl va n permR = .miss → (s.die (coreDie s.cur.1)).misses = [] → ∃ t, exec i s = .next t ∧
      t.curSlot = some { sl with hold := .walk } ∧ SameMem s t ∧
      (t.die (coreDie s.cur.1)).misses = [{ core := s.cur.1, slot := s.cur.2, act := sl.act, va := va }])

/-- R127 and R128: vector loads. When every acting lane's address is checked to a pool byte that is in range and not poisoned, each
acting lane takes the four bytes at its own address; where a lane's bytes must come from elsewhere the result is outstanding, each
acting lane reading the four bytes from its own translated address on; the first lane that fails a check traps with that lane. `ldvx`
admits pool addresses alone. -/
def Obligations.VectorLoad : Prop :=
  ∀ (s : State) (u : Ctl) (d a b : Reg) (imm : BitVec 32) (sl : Slot),
    Turn s u .lanes sl → sl.mayAccess = true →
    let src := readSrc s sl a
    let ea := (src.1 + imm.signExtend 64).toNat
    let run (l : Nat) := (ea + 4 * l) % 2 ^ 64
    let idx (l : Nat) := (ea + (lane (sl.getV b) l).toNat) % 2 ^ 64
    let acts (l : Nat) := l < 16 ∧ (sl.predMask u).getLsbD l = true
    let word (core off : Nat → Nat) (l : Nat) : BitVec 32 :=
      BitVec.ofNat 32 (littleEndian (fun j => s.ownByte src.2 (core l) (off l + j)) 4)
    (∀ core off : Nat → Nat, (∀ l, acts l → s.resolve sl (run l) 4 permR = .pool (core l) (off l) ∧
        s.clean src.2 (core l) (off l) 4 ∧ s.inside src.2 (core l) (off l) 4) →
      Writes (.ldv u d a imm) u s src.2 { d := d, lanes := lanesOf (fun l =>
        if (sl.predMask u).getLsbD l then word core off l else 0), mask := sl.predMask u }) ∧
    (∀ pa : Nat → Nat, (∀ l, acts l → s.resolve sl (run l) 4 permR = .far (pa l)) →
      (∃ l, acts l ∧ ∃ e ∈ s.outstanding src.2 (pa l) 4, e.2 = none) →
      LaunchesLoad (.ldv u d a imm) u s src.2 d .vec (run 0) (sl.predMask u) ((List.range 16).flatMap (fun l =>
        if (sl.predMask u).getLsbD l then s.outstanding src.2 (pa l) 4 else List.replicate 4 (0, some 0)))) ∧
    (∀ l c, acts l → (∀ j, acts j → j < l → ∃ pa, s.resolve sl (run j) 4 permR = .far pa ∨ ∃ t, s.resolve sl (run j) 4 permR = .pool t pa) →
      s.resolve sl (run l) 4 permR = .bad c →
      exec (.ldv u d a imm) s = .next (s.takeTrap s.cur.1 s.cur.2 sl.pc
        { cause := c, info := BitVec.ofNat 64 (run l), lane := some l })) ∧
    (∀ core off : Nat → Nat, (∀ l, acts l → s.resolve sl (idx l) 4 0 = .pool (core l) (off l) ∧
        s.clean src.2 (core l) (off l) 4 ∧ s.inside src.2 (core l) (off l) 4 ∧ (s.core (core l)).stage = []) →
      Writes (.ldvx u d a b imm) u s src.2 { d := d, lanes := lanesOf (fun l =>
        if (sl.predMask u).getLsbD l then word core off l else 0), mask := sl.predMask u }) ∧
    (∀ l, acts l → (∀ j, acts j → j < l → ∃ t off, s.resolve sl (idx j) 4 0 = .pool t off) →
      (∀ t off, s.resolve sl (idx l) 4 0 ≠ .pool t off) → idx l % 4 = 0 →
      exec (.ldvx u d a b imm) s = .next (s.takeTrap s.cur.1 s.cur.2 sl.pc
        { cause := .memWindow, info := BitVec.ofNat 64 (idx l), lane := some l }))

/-- R124 to R127: plain stores of a revocable span whose journal and store buffer have room. A pool store is staged at the port and
journalled word by word; bytes outside the scratchpad are dropped with an out-of-range event (R14) of the first such address; a store
to a translated address waits in the store buffer; no memory changes at issue. A failed check traps with the address. -/
def Obligations.StoreResult : Prop :=
  ∀ (s : State) (u : Ctl) (k : StKind) (a b : Reg) (imm : BitVec 32) (sl : Slot),
    Turn s u .scalar sl → sl.mayAccess = true → u.mo = 0 →
    let i : Instr := .st u k a b imm
    let src := readSrc s sl a
    let va := (src.1 + imm.signExtend 64).toNat
    let n := stSize k
    (∀ t off, s.resolve sl va n permW = .pool t off → off + n ≤ s.scrBytes t → src.2.irrev = false →
      src.2.journal.length + (s.newJournal src.2.journal (bytesAt va (poolKey t off) n (sl.getX b))).length ≤ 64 →
      StoresChecked i s s src.2 (bytesAt va (poolKey t off) n (sl.getX b)) []) ∧
    (∀ t off x, s.resolve sl va n permW = .pool t off → s.scrBytes t ≤ off → (s.core s.cur.1).ctx = some x →
      RetiresOver i s (s.modCtx x (fun y => { y with oobs := y.oobs ++ [(s.cur.1, va % 2 ^ 23)] })) src.2) ∧
    (∀ pa, s.resolve sl va n permW = .far pa → src.2.irrev = false → src.2.stores.length + 2 ≤ 64 →
      StoresChecked i s (s.touch s.cur.1 va) src.2 [] (bytesAt va pa n (sl.getX b))) ∧
    (∀ c, s.resolve sl va n permW = .bad c → Traps i s src.2 c (BitVec.ofNat 64 va))

/-- R127 and R128: vector stores of acting lanes that are checked to pool bytes in range; a later lane's bytes lie over an earlier
lane's. -/
def Obligations.VectorStore : Prop :=
  ∀ (s : State) (u : Ctl) (a b c : Reg) (imm : BitVec 32) (sl : Slot),
    Turn s u .lanes sl → sl.mayAccess = true → u.mo = 0 →
    let src := readSrc s sl a
    let ea := (src.1 + imm.signExtend 64).toNat
    let run (l : Nat) := (ea + 4 * l) % 2 ^ 64
    let idx (l : Nat) := (ea + (lane (sl.getV b) l).toNat) % 2 ^ 64
    let acts (l : Nat) := l < 16 ∧ (sl.predMask u).getLsbD l = true
    let bytes (v : Lanes) (core off va : Nat → Nat) := (lanesIn (sl.predMask u)).flatMap (fun l =>
      bytesAt (va l) (poolKey (core l) (off l)) 4 ((lane v l).setWidth 64))
    src.2.irrev = false →
    (∀ core off : Nat → Nat, (∀ l, acts l → s.resolve sl (run l) 4 permW = .pool (core l) (off l) ∧ off l + 4 ≤ s.scrBytes (core l)) →
      src.2.journal.length + (s.newJournal src.2.journal (bytes (sl.getV b) core off run)).length ≤ 64 →
      StoresChecked (.stv u a b imm) s s src.2 (bytes (sl.getV b) core off run) []) ∧
    (∀ pa : Nat → Nat, (∀ l, acts l → s.resolve sl (run l) 4 permW = .far (pa l)) → src.2.stores.length + 2 ≤ 64 →
      ∃ t, exec (.stv u a b imm) s = .next t ∧ SameMem s t ∧ ∃ sl', t.curSlot = some sl' ∧
        ∀ l, acts l → ∀ e ∈ bytesAt (run l) (pa l) 4 ((lane (sl.getV b) l).setWidth 64),
          ∃ x ∈ sl'.stores, ∃ bs, x.op = .store bs ∧ e ∈ bs) ∧
    (∀ core off : Nat → Nat, (∀ l, acts l → s.resolve sl (idx l) 4 0 = .pool (core l) (off l) ∧
        off l + 4 ≤ s.scrBytes (core l) ∧ (s.core (core l)).stage = []) →
      src.2.journal.length + (s.newJournal src.2.journal (bytes (sl.getV c) core off idx)).length ≤ 64 →
      StoresChecked (.stvx u a b c imm) s s src.2 (bytes (sl.getV c) core off idx) [])

/-- R198 and R129: `ldp` and `stp` translate only to parcel memory, convert between pointers and offsets, and trap `parcel.escape`, `stp`
with a pointer that lies outside its parcel, `ldp` with the address of an offset that does; `pref` never traps and waits for nothing. -/
def Obligations.ParcelPointersAndPrefetch : Prop :=
  ∀ (s : State) (u : Ctl) (d a b : Reg) (imm : BitVec 32) (sl : Slot), Turn s u .scalar sl →
    let src := readSrc s sl a
    let va := (src.1 + imm.signExtend 64).toNat
    let p := (((s.core s.cur.1).rtab.find? (fun e => e.desc.covers va)).map (fun e => e.desc)).getD {}
    let limit := p.vbase + 256 * p.size
    (sl.mayAccess = true →
      (∀ t off, s.resolve sl va 8 (permR ||| permP) = .pool t off → Traps (.ldp u d a imm) s src.2 .rangePerm (BitVec.ofNat 64 va)) ∧
      (∀ pa, s.resolve sl va 8 (permR ||| permP) = .far pa → (∃ e ∈ s.outstanding src.2 pa 8, e.2 = none) →
        LaunchesLoad (.ldp u d a imm) u s src.2 d (.ptr p.vbase (256 * p.size)) va 0xFFFF (s.outstanding src.2 pa 8)) ∧
      (∀ pa, s.resolve sl va 8 (permR ||| permP) = .far pa → (∀ e ∈ s.outstanding src.2 pa 8, e.2.isSome = true) →
        let o := littleEndian (fun j => (s.fwd s.cur.1 src.2 (pa + j)).getD 0) 8
        (o = 2 ^ 64 - 1 → WritesOver (.ldp u d a imm) u s (s.touch s.cur.1 va) src.2 { d := d, x := 0 }) ∧
        (o < 256 * p.size → o ≠ 2 ^ 64 - 1 →
          WritesOver (.ldp u d a imm) u s (s.touch s.cur.1 va) src.2 { d := d, x := BitVec.ofNat 64 (p.vbase + o) }) ∧
        (256 * p.size ≤ o → o ≠ 2 ^ 64 - 1 → u.at' = 0 → exec (.ldp u d a imm) s = .next ((s.touch s.cur.1 va).takeTrap s.cur.1 s.cur.2
          sl.pc { cause := .parcelEscape, info := BitVec.ofNat 64 va }))) ∧
      (∀ o : Nat, 256 * p.size ≤ o → o < 2 ^ 64 - 1 → ∃ tr, loadResult (.ptr p.vbase (256 * p.size)) d 0xFFFF va
        ((List.range 8).map (fun j => BitVec.ofNat 8 (o / 256 ^ j))) = .error tr ∧ tr.cause = .parcelEscape ∧ tr.info = BitVec.ofNat 64 va) ∧
      (∀ pa o, s.resolve sl va 8 (permW ||| permP) = .far pa → u.mo = 0 → src.2.irrev = false → src.2.stores.length + 2 ≤ 64 →
        ((sl.getX b = 0 ∧ o = BitVec.allOnes 64) ∨
          (sl.getX b ≠ 0 ∧ p.vbase ≤ (sl.getX b).toNat ∧ (sl.getX b).toNat < limit ∧ o = BitVec.ofNat 64 ((sl.getX b).toNat - p.vbase))) →
        StoresChecked (.stp u a b imm) s (s.touch s.cur.1 va) src.2 [] (bytesAt va pa 8 o)) ∧
      (∀ pa, s.resolve sl va 8 (permW ||| permP) = .far pa → sl.getX b ≠ 0 →
        ((sl.getX b).toNat < p.vbase ∨ limit ≤ (sl.getX b).toNat) → Traps (.stp u a b imm) s src.2 .parcelEscape (sl.getX b)) ∧
      (∀ c, s.resolve sl va 8 (permW ||| permP) = .bad c → Traps (.stp u a b imm) s src.2 c (BitVec.ofNat 64 va))) ∧
    (∀ t off, place s.cur.1 va = .pool t off → Retires (.pref u a imm) s src.2) ∧
    (place s.cur.1 va = .far va → s.translate s.cur.1 va 0 [] ≠ .miss → Retires (.pref u a imm) s src.2) ∧
    (place s.cur.1 va = .far va → s.translate s.cur.1 va 0 [] = .miss → (s.die (coreDie s.cur.1)).misses = [] →
      ∃ t sl', exec (.pref u a imm) s = .next t ∧ SameMem s t ∧ t.curSlot = some sl' ∧ Advanced (.pref u a imm) src.2 sl' ∧
        (t.die (coreDie s.cur.1)).misses.map (fun m => (m.va, m.waits)) = [(va, false)])

/-- R131 to R134 and Table 7.6: `atom` and `cas` on a pool word are performed at issue, after the port's stage has reached the bank; on
a translated address an `atom` without a result is posted, and one with a result makes the span irrevocable and is outstanding. -/
def Obligations.AtomicResult : Prop :=
  ∀ (s : State) (u : Ctl) (op : AtomOp) (w : BitVec 1) (d a b c : Reg) (imm : BitVec 32) (sl : Slot),
    Turn s u .scalar sl → sl.mayAccess = true →
    let src := readSrc s sl a
    let va := (src.1 + imm.signExtend 64).toNat
    let n := if w = 1 then 4 else 8
    let low (x : Word) := x.toNat % 2 ^ (8 * n)
    (∀ t off, s.resolve sl va n (permR ||| permW ||| permA) = .pool t off →
      (u.mo.getLsbD 1 = false ∨ (src.2.stores = [] ∧ s.relWaits src.2 u.sc = false)) → off + n ≤ s.scrBytes t → src.2.irrev = false →
      let base := s.bankFlush t
      base.clean src.2 t off n →
      let old := littleEndian (fun j => base.ownByte src.2 t (off + j)) n
      let stored (v : Nat) := bytesAt va (poolKey t off) n (BitVec.ofNat 64 v)
      let room (v : Nat) := src.2.journal.length + (base.newJournal src.2.journal (stored v)).length ≤ 64
      (room (atomResult op s.cur.1 n old (low (sl.getX b))) → (op = .fadd → n = 4) →
        StoresAndWrites (.atom u op w d a b imm) u s base src.2 (stored (atomResult op s.cur.1 n old (low (sl.getX b))))
          { d := d, x := BitVec.ofNat 64 old }) ∧
      (old = low (sl.getX b) → room (low (sl.getX c)) →
        StoresAndWrites (.cas u w d a b c imm) u s base src.2 (stored (low (sl.getX c))) { d := d, x := BitVec.ofNat 64 old }) ∧
      (old ≠ low (sl.getX b) → WritesOver (.cas u w d a b c imm) u s base src.2 { d := d, x := BitVec.ofNat 64 old })) ∧
    (∀ pa, s.resolve sl va n (permR ||| permW ||| permA) = .far pa → src.2.irrev = false →
      (d = 0 → u.at' = 0 → u.pd = 0 → src.2.stores.length < 64 → BuffersOver (.atom u op w d a b imm) s (s.touch s.cur.1 va) src.2
        (.posted va pa op n (sl.getX b)) (u.mo.getLsbD 1) u.sc) ∧
      (d ≠ 0 → LaunchesIrrevocable (.atom u op w d a b imm) u s src.2 d (.atom op n (sl.getX b))) ∧
      LaunchesIrrevocable (.cas u w d a b c imm) u s src.2 d (.cas n (sl.getX b) (sl.getX c))) ∧
    (∀ x, s.resolve sl va n (permR ||| permW ||| permA) = .bad x →
      Traps (.atom u op w d a b imm) s src.2 x (BitVec.ofNat 64 va) ∧ Traps (.cas u w d a b c imm) s src.2 x (BitVec.ofNat 64 va))

/-- R59, R135, R136 and R138: opening and closing an atomic line region, fences, and `ifence`. -/
def Obligations.RegionsAndFences : Prop :=
  ∀ (s : State) (u : Ctl) (sl : Slot),
    (∀ a imm, Turn s u .scalar sl → sl.mayAccess = true →
      let src := readSrc s sl a
      let line := (src.1 + imm.signExtend 64).toNat / 128 * 128
      (∀ t off, s.resolve sl line 8 (permR ||| permW ||| permA) = .pool t off → Retires (.alrB u a imm) s
        { src.2 with region := some { line := line, key := poolKey t off, remote := false, mo := u.mo, sc := u.sc } }) ∧
      (∀ pa, s.resolve sl line 8 (permR ||| permW ||| permA) = .far pa → RetiresOver (.alrB u a imm) s (s.touch s.cur.1 line)
        { src.2 with region := some { line := line, key := pa, remote := true, mo := u.mo, sc := u.sc } })) ∧
    (Turn s u .scalar sl → TrapsOpen (.alrE u) s sl .alrForm) ∧
    (∀ r, TurnIn s u .scalar sl r → sl.mayAccess = true → r.remote = true → r.accs = [] →
      Retires (.alrE u) s { sl with region := none }) ∧
    (∀ r, TurnIn s u .scalar sl r → sl.mayAccess = true → r.remote = true → r.accs ≠ [] →
      (∀ x ∈ r.accs, ∃ va bs, x = .store va bs) → sl.irrev = false → sl.stores.length < 64 →
      Buffers (.alrE u) s { sl with region := none } (.region r) (r.mo.getLsbD 1) r.sc) ∧
    (∀ r va bs, TurnIn s u .scalar sl r → sl.mayAccess = true → r.remote = false → r.mo.getLsbD 1 = false →
      r.accs = [.store va bs] → sl.irrev = false → sl.journal = [] → bs ≠ [] → r.line ≤ va →
      let key := r.key + (va - r.line)
      let t := keyCore r.key
      poolKey t 0 ≤ r.key → key + bs.length ≤ poolKey t (s.scrBytes t) → bs.length ≤ 128 →
      let base := s.bankFlush t
      (∀ j, j < bs.length → base.poisoned (key + j) = false) →
      ∃ q sl', exec (.alrE u) s = .next q ∧ q.curSlot = some sl' ∧ sl'.region = none ∧ sl'.pc = nextPc sl.pc ∧
        (∀ j, j < bs.length → q.byte (key + j) = bs.getD j 0) ∧
        (∀ x, (x < key ∨ key + bs.length ≤ x) → q.byte x = base.byte x)) ∧
    (Turn s u .scalar sl → u.mo = 1 → Retires (.fence u) s
      { sl with loads := sl.loads.map (fun l => if l.op.isAccess then { l with acq := true } else l) }) ∧
    (Turn s u .scalar sl → u.mo = 2 → sl.irrev = false → sl.stores.length < 64 → Buffers (.fence u) s sl .marker false u.sc) ∧
    (Turn s u .scalar sl → u.mo = 0 ∨ u.mo = 3 → sl.irrev = false → sl.stores.length < 64 → Buffers (.fence u) s
      { sl with loads := sl.loads.map (fun l => if l.op.isAccess then { l with acq := true } else l) } .marker false u.sc) ∧
    (Turn s u .scalar sl → s.staging s.cur.1 sl.act s.curCore.nextEntry = false →
      Retires (.ifence u) s { sl with line := none, ahead := [], fresh := s.tick })

/-- R139 to R144: counter instructions on a handle of the context. Adds and codes wait in the store buffer, reads and waits are
outstanding results; a handle that names no counter of the context traps `ctr.handle` with the handle, a code of 0 or above 0x7F traps
`ctr.code`. -/
def Obligations.CounterInstructions : Prop :=
  ∀ (s : State) (u : Ctl) (d a b : Reg) (imm : BitVec 32) (code : BitVec 8) (ch : BitVec 6) (e : BitVec 1) (sl : Slot),
    Turn s u .scalar sl →
    (∀ h, s.counterOf (s.coreCtx s.cur.1) (sl.getX a) = some h →
      (sl.irrev = false → sl.stores.length < 64 →
        Buffers (.cadd u a b imm) s sl (.cadd h ((sl.getX b).toNat + imm.toNat)) (u.mo.getLsbD 1) u.sc ∧
        (code ≠ 0 → code.toNat ≤ 0x7F → Buffers (.cerr u a code) s sl (.cerr h code) (u.mo.getLsbD 1) u.sc) ∧
        (s.prv sl = true → Buffers (.cinit u a b code) s sl (.cinit h (sl.getX b) code) false 0)) ∧
      (code = 0 ∨ 0x7F < code.toNat → Traps (.cerr u a code) s sl .ctrCode (code.setWidth 64)) ∧
      (sl.mayAccess = true → Launches (.cread u e d a) u s sl d (.counter (decide (e = 1)) h)) ∧
      Launches (.cwait u d a b ch imm) u s sl d (.cwait h (sl.getX b) ch imm)) ∧
    (s.counterOf (s.coreCtx s.cur.1) (sl.getX a) = none →
      Traps (.cadd u a b imm) s sl .ctrHandle (sl.getX a) ∧ Traps (.cerr u a code) s sl .ctrHandle (sl.getX a) ∧
      (s.prv sl = true → Traps (.cinit u a b code) s sl .ctrHandle (sl.getX a)) ∧
      (sl.mayAccess = true → Traps (.cread u e d a) s sl .ctrHandle (sl.getX a)) ∧
      Traps (.cwait u d a b ch imm) s sl .ctrHandle (sl.getX a))

/-- R145, R149, R152 and R181: what `send`, `reply`, `sysc`, `fork` and `gmcast` of a request-class activation place in the injection
queue; with no room they wait. That INFO of `msg.dest` is X[A] is the model's reading (log 38). -/
def Obligations.SendInstructions : Prop :=
  ∀ (s : State) (u : Ctl) (a b c : Reg) (n : BitVec 3) (q : BitVec 3) (ch : BitVec 6) (imm : BitVec 32) (sl : Slot),
    Turn s u .scalar sl → s.replyClass sl = false →
    let src := readSrc s sl a
    let k := s.coreCtx s.cur.1
    (src.1.toNat < 2 ^ 13 → s.injRoomFor sl 1 = true →
      Injects (.send u a b n ch) s src.2 (.msg (sentMsg s src.1.toNat ch false (registers sl b n.toNat))) 1 ∧
      Injects (.reply u a b n ch) s src.2 (.msg (sentMsg s src.1.toNat ch true (registers sl b n.toNat))) 1) ∧
    (src.1.toNat < 2 ^ 13 → s.injRoomFor sl 1 = false →
      Waits (.send u a b n ch) s sl ∧ Waits (.reply u a b n ch) s sl) ∧
    (2 ^ 13 ≤ src.1.toNat → Traps (.send u a b n ch) s sl .msgDest src.1 ∧ Traps (.reply u a b n ch) s sl .msgDest src.1) ∧
    (s.injRoomFor sl 1 = true →
      Injects (.sysc u imm) s sl (.msg (sentMsg s (s.ctx k).sup 2 false
        (imm.setWidth 64 :: registers sl 1 4 ++ [sl.pc.setWidth 64]))) 1) ∧
    (Group.v (s.group k (src.1.toNat % 256)) = true → s.injRoomFor sl 1 = true →
      Injects (.gmcast u a b n ch) s src.2 (.mcast (src.1.toNat % 256) (sentMsg s 0 ch false (registers sl b n.toNat)) []) 1) ∧
    (Group.v (s.group k (src.1.toNat % 256)) = false → Traps (.gmcast u a b n ch) s sl .msgDest src.1) ∧
    (∀ die, s.forkDie k s.cur.1 (sl.getX a) = some die → s.injRoomFor sl 1 = true →
      let task : Task := { target := sl.getX a, pc := imm.setWidth 64, args := registers sl c 4, cnt := sl.getX b, prio := q.toNat,
                           src := s.cur.1, ctx := k }
      Injects (.fork u q a b c imm) s sl (.fork task die (coreCluster s.cur.1 % 16)) 1) ∧
    (s.forkDie k s.cur.1 (sl.getX a) = none → Traps (.fork u q a b c imm) s sl .msgDest (sl.getX a))

/-- R35: in a reply-class activation every instruction that sends a message, a task, a card or an index request traps `send.reply`; a
request-class activation sends with `send` on the request network and with `reply` on the reply network. R202 and Table 9.14: from an activation
with PRV = 0 every privileged instruction traps `priv.instr`.
R147, R148, R150 and R151: `peek` reads the held messages, `spawn` asks its target, `pause` sets the slot's pause, `chstat` reads
Table 7.9, and `chmask` sets or clears MSK of the channels of its mask, of no other, with no trace in the span. -/
def Obligations.ChannelsAndModes : Prop :=
  ((∀ (s : State) (u : Ctl) (d a b c : Reg) (n q : BitVec 3) (ch : BitVec 6) (imm : BitVec 32) (sl : Slot),
     Turn s u .scalar sl → s.replyClass sl = true →
     TrapsOpen (.send u a b n ch) s sl .sendReply ∧ TrapsOpen (.reply u a b n ch) s sl .sendReply ∧
     TrapsOpen (.sysc u imm) s sl .sendReply ∧ TrapsOpen (.gmcast u a b n ch) s sl .sendReply ∧
     TrapsOpen (.spawn u d a b c imm) s sl .sendReply ∧ TrapsOpen (.fork u q a b c imm) s sl .sendReply ∧
     ∀ i ∈ [Instr.job u a, .gath u a, .scat u a, .ldnear u a, .stvec u a, .delvec u a, .ixsnap u a, .ixrel u a, .ixstat u a,
       .ixcfg u a, .ixcent u a], TrapsOpen i s sl .sendReply) ∧
   (∀ (s : State) (u : Ctl) (a b : Reg) (n : BitVec 3) (ch : BitVec 6) (sl : Slot), Turn s u .scalar sl →
     s.replyClass sl = false → let src := readSrc s sl a
     src.1.toNat < 2 ^ 13 → s.injRoomFor sl 1 = true →
     Injects (.send u a b n ch) s src.2 (.msg (sentMsg s src.1.toNat ch false (registers sl b n.toNat))) 1 ∧
     Injects (.reply u a b n ch) s src.2 (.msg (sentMsg s src.1.toNat ch true (registers sl b n.toNat))) 1) ∧
   (∀ (s : State) (u : Ctl) (d a b c : Reg) (code : BitVec 8) (op : BitVec 1) (ch : BitVec 6) (ctr : BitVec 18) (csr : BitVec 12) (sl : Slot),
     Turn s u .scalar sl → s.prv sl = false →
     (∀ i ∈ [Instr.cinit u a b code, .rres u a b c ctr, .rcompact u a b ctr, .sret u a b c, .halt u a op, .ctxsave u a b ctr,
       .ctxload u a b ctr, .prio u a ch, .scrub u a b, .errpop u d a b], TrapsOpen i s sl .privInstr) ∧
     ((1 ≤ csr.toNat ∧ csr.toNat ≤ 5) ∨ csr.toNat = 7 ∨ csr.toNat = 8 ∨ (0x100 ≤ csr.toNat ∧ csr.toNat < 0x180) →
       TrapsOpen (.csrw u a csr) s sl .privInstr))) ∧
  (∀ (s : State) (u : Ctl) (d a b c : Reg) (sl : Slot), Turn s u .scalar sl →
     (∀ m w, Writes (.peek u d m w) u s sl { d := d, x :=
       match sl.held[m.toNat]? with
       | none => 0
       | some x => if w = 0 then msgHeader x else x.body.getD (w.toNat - 1) 0 }) ∧
     (∀ imm, s.replyClass sl = false → Launches (.spawn u d a b c imm) u s sl d
       (.spawn (sl.getX a).toNat imm (registers sl c 4) (sl.getX b))) ∧
     (∀ n, n ≠ 0 → Retires (.pause u n) s { sl with paused := n.toNat + 1 }) ∧
     Retires (.pause u 0) s sl ∧
     (∀ ch, Writes (.chstat u d ch) u s sl { d := d, x := statusWord (s.core s.cur.1) ch.toNat }) ∧
     (∀ op, (s.prv sl = true ∨ ∀ ch, ch < 64 → (sl.getX a).getLsbD ch = true → (s.hte s.cur.1 ch).prv = false) →
       ∃ t sl', exec (.chmask u a op) s = .next t ∧ SameMem s t ∧ t.curSlot = some sl' ∧ Advanced (.chmask u a op) sl sl' ∧
         ∀ ch, t.hte s.cur.1 ch = if ch < 64 ∧ (sl.getX a).getLsbD ch = true then (s.hte s.cur.1 ch).setMsk (decide (op = 0))
           else s.hte s.cur.1 ch) ∧
     (∀ op, s.prv sl = false → (∃ ch, ch < 64 ∧ (sl.getX a).getLsbD ch = true ∧ (s.hte s.cur.1 ch).prv = true) →
       TrapsOpen (.chmask u a op) s sl .privInstr))

/-- R154, R158 to R162 and R165: `mzero`, `mscale`, `gang` and `mma` of a revocable span reserve a matrix-queue entry, or wait when all
sixteen are in use; a slice the core does not have traps `mat.slice`; an `mma` without an unpaired `gang` traps `mat.form`. -/
def Obligations.MatrixQueue : Prop :=
  ∀ (s : State) (u : Ctl) (n : BitVec 2) (bw : BitVec 1) (pa : BitVec 5) (a b c : Reg) (sl : Slot),
    Turn s u .scalar sl → sl.irrev = false →
    let core := s.core s.cur.1
    let slice := 4 * n.toNat + 3 < partA core.part
    let k := (sl.getX c).toNat
    let x := (sl.getX a).toNat
    let y := (sl.getX b).toNat
    (slice → core.matUsed < 16 →
      Retires (.mzero u n) s { sl with matq := sl.matq ++ [.zero n.toNat] } ∧
      Retires (.mscale u n a) s { sl with matq := sl.matq ++ [.scale n.toNat ((sl.getX a).setWidth 32)] }) ∧
    (slice → 16 ≤ core.matUsed → Waits (.mzero u n) s sl ∧ Waits (.mscale u n a) s sl) ∧
    (¬ slice → TrapsOpen (.mzero u n) s sl .matSlice ∧ TrapsOpen (.mscale u n a) s sl .matSlice ∧
      (sl.unpaired ≠ 0 → TrapsOpen (.mma u pa n bw a b c) s sl .matSlice)) ∧
    (∀ h, s.counterOf (s.coreCtx s.cur.1) (sl.getX a) = some h → core.matUsed < 16 →
      Retires (.gang u a) s { sl with unpaired := sl.unpaired + 1, matq := sl.matq ++ [.gang h] }) ∧
    (s.counterOf (s.coreCtx s.cur.1) (sl.getX a) = none → Traps (.gang u a) s sl .ctrHandle (sl.getX a)) ∧
    (sl.unpaired = 0 → TrapsOpen (.mma u pa n bw a b c) s sl .matForm) ∧
    (sl.unpaired ≠ 0 → slice →
      (¬ operandRegion x k (sizeA pa.toNat k) (s.scrBytes s.cur.1) → Traps (.mma u pa n bw a b c) s sl .matOperand (sl.getX a)) ∧
      (operandRegion x k (sizeA pa.toNat k) (s.scrBytes s.cur.1) →
        ¬ operandRegion y k (sizeB (decide (bw = 0)) k) (s.scrBytes s.cur.1) → Traps (.mma u pa n bw a b c) s sl .matOperand (sl.getX b)) ∧
      (operandRegion x k (sizeA pa.toNat k) (s.scrBytes s.cur.1) → operandRegion y k (sizeB (decide (bw = 0)) k) (s.scrBytes s.cur.1) →
        core.matUsed < 16 → Retires (.mma u pa n bw a b c) s { sl with
          unpaired := sl.unpaired - 1, matq := sl.matq ++ [.mma pa.toNat n.toNat (decide (bw = 1)) x y k] }))

/-- R160, R165, R168 and R169: `mlda` and `mldb` check their region, `mst` writes a slice row by row through the port without a journal
entry, `maxbar` contributes |X[A]| bits to a round of its group, and `mstat` reads the counters and the busy bits. That INFO of the
`msg.dest` of `maxbar` is X[A] (log 38), where the bytes of a slice lie that `mst` copies (log 10) and
that `mstat` waits for nothing (log 133) are the model's choices. -/
def Obligations.MatrixOperands : Prop :=
  ∀ (s : State) (u : Ctl) (n : BitVec 2) (bw : BitVec 1) (pa : BitVec 5) (d a b : Reg) (imm : BitVec 32) (sl : Slot),
    Turn s u .scalar sl →
    let core := s.core s.cur.1
    let k := (sl.getX b).toNat
    let ctx := s.ctx (s.coreCtx s.cur.1)
    (s.cur.1 % 4 ≠ 0 → TrapsOpen (.mlda u pa a b) s sl .matLeader) ∧
    (s.cur.1 % 4 = 0 → operandRegion (sl.getX a).toNat k (sizeA pa.toNat k) (s.scrBytes s.cur.1) → Retires (.mlda u pa a b) s sl) ∧
    (s.cur.1 % 4 = 0 → ¬ operandRegion (sl.getX a).toNat k (sizeA pa.toNat k) (s.scrBytes s.cur.1) →
      Traps (.mlda u pa a b) s sl .matOperand (sl.getX a)) ∧
    (operandRegion (sl.getX a).toNat k (sizeB (decide (bw = 0)) k) (s.scrBytes s.cur.1) → Retires (.mldb u bw a b) s sl) ∧
    (¬ operandRegion (sl.getX a).toNat k (sizeB (decide (bw = 0)) k) (s.scrBytes s.cur.1) →
      Traps (.mldb u bw a b) s sl .matOperand (sl.getX a)) ∧
    (∀ t off, sl.mayAccess = true → 4 * n.toNat + 3 < partA core.part →
      let ea := (sl.getX a + imm.signExtend 64).toNat
      place s.cur.1 ea = .pool t off → ea % 64 = 0 → (s.core t).ctx = core.ctx → off + 16384 ≤ s.scrBytes t →
      (core.sliceBusy n.toNat = true → Waits (.mst u n a imm) s sl) ∧
      (core.sliceBusy n.toNat = false → ∃ q sl', exec (.mst u n a imm) s = .next q ∧
        PoolStored s q s.cur.1 sl.act ((List.range 16384).map (fun j =>
          (ea + j, poolKey t (off + j), s.byte (poolKey s.cur.1 ((partScr core.part + 4 * n.toNat) * 4096 + j))))) ∧
        q.curSlot = some sl' ∧ ∃ later, Advanced (.mst u n a imm) { sl with newer := later } sl')) ∧
    (Group.v (s.group (s.coreCtx s.cur.1) ((sl.getX b).toNat % 256)) = true →
      s.groupHas (s.coreCtx s.cur.1) ((sl.getX b).toNat % 256) s.cur.1 = true →
      Launches (.maxbar u d a b) u s sl d (.maxbar ((sl.getX b).toNat % 256) ((sl.getX a).setWidth 32))) ∧
    (Group.v (s.group (s.coreCtx s.cur.1) ((sl.getX b).toNat % 256)) = false → Traps (.maxbar u d a b) s sl .msgDest (sl.getX b)) ∧
    Writes (.mstat u d 0) u s sl { d := d, x := ctx.mof.setWidth 64 } ∧
    Writes (.mstat u d 1) u s sl { d := d, x := ctx.mnv.setWidth 64 } ∧
    Writes (.mstat u d 2) u s sl { d := d, x := ctx.mnb.setWidth 64 } ∧
    Writes (.mstat u d 3) u s sl { d := d, x := ctx.msatNow.setWidth 64 } ∧
    (∃ v, Writes (.mstat u d 4) u s sl { d := d, x := v } ∧ (∀ j, j < 4 → v.getLsbD j = core.sliceBusy j) ∧
      (∀ j, 4 ≤ j → j < 8 → v.getLsbD j = false) ∧ (∀ j, j < 8 → v.getLsbD (8 + j) = core.matUsed.testBit j)) ∧
    Writes (.mstat u d 5) u s sl { d := d, x := core.gangFail.setWidth 64 }

/-- R166 and R167: `mquant` checks both regions, reads its FP32 source, and writes the blocks of the format and layout through the port
without a journal entry; what it stores there follows from the source alone, and nothing else changes but MSAT of the shadow. R166
steps 2 to 4 for the BX formats: a block of finite values whose own maximum decides has the smallest exponent e ≥ −127 that fits it
into Q steps, and each element is its value over 2^e rounded to nearest even, at most Q; a NaN or an infinity makes the header 0xFF. -/
def Obligations.Quantise : Prop :=
  (∀ (s : State) (u : Ctl) (fmt : BitVec 3) (lay loc : BitVec 1) (a b c : Reg) (imm : BitVec 32) (sl : Slot),
    Turn s u .scalar sl → sl.mayAccess = true → fmt.toNat ≤ 4 →
    let k := imm.toNat
    let src := (sl.getX a).toNat
    let dst := (sl.getX b).toNat
    let scr := s.scrBytes s.cur.1
    let size := if lay = 1 then sizeB (decide (fmt = 2 ∨ fmt = 3)) k else sizeA ([4, 8, 12, 16, 5].getD fmt.toNat 0) k
    (¬ operandRegion src k (256 * k) scr → Traps (.mquant u fmt lay loc a b c imm) s sl .matOperand (sl.getX a)) ∧
    (operandRegion src k (256 * k) scr → ¬ operandRegion dst k size scr →
      Traps (.mquant u fmt lay loc a b c imm) s sl .matOperand (sl.getX b)) ∧
    (operandRegion src k (256 * k) scr → operandRegion dst k size scr → s.clean sl s.cur.1 src (256 * k) →
      let blocks := quantAll (fun j => littleEndian (fun x => s.ownByte sl s.cur.1 (src + 4 * j + x)) 4) fmt.toNat
        (decide (lay = 1)) (if loc = 1 then none else some ((sl.getX c).toNat % 2 ^ 31)) k
      let bytes := blocks.flatMap (fun x => if lay = 1 then bBytes (if fmt = 2 ∨ fmt = 3 then 2 else 1) x
        else aBytes ([4, 8, 12, 16, 5].getD fmt.toNat 0) x)
      ∃ t sl' m later, exec (.mquant u fmt lay loc a b c imm) s = .next t ∧ bytes.length = size ∧
        PoolStored s t s.cur.1 sl.act (bytes.zipIdx.map (fun y => (dst + y.2, poolKey s.cur.1 (dst + y.2), y.1))) ∧
        t.curSlot = some sl' ∧ Advanced (.mquant u fmt lay loc a b c imm) { sl with newer := later, shadow := { sl.shadow with msat := m } } sl' ∧
        sl.shadow.msat ≤ m)) ∧
  (∀ (fmt : Nat) (xs : List Nat), fmt < 4 → xs.length = 32 → (∀ x ∈ xs, x < 2 ^ 32) →
    let q := 2 ^ ([4, 8, 12, 16].getD fmt 0 - 1) - 1
    let b := quantBlock fmt none xs
    ((∃ x ∈ xs, x / 2 ^ 23 % 256 = 255) → b.header = 0xFF ∧ b.elems = List.replicate 32 0) ∧
    ((∀ x ∈ xs, x / 2 ^ 23 % 256 ≠ 255) → b.header < 0xFF ∧ b.elems.length = 32 ∧
      (b.header ≠ 0 → ∃ x ∈ xs, ∃ (neg : Bool) (m : Nat) (e : Int), Float.dec .f32 x = .fin neg m e ∧
        q * 2 ^ (b.header + 21) < m * 2 ^ (e + 149).toNat) ∧
      ∀ i, i < 32 → ∃ (neg : Bool) (m : Nat) (e : Int), Float.dec .f32 (xs.getD i 0) = .fin neg m e ∧
        m * 2 ^ (e + 149).toNat ≤ q * 2 ^ (b.header + 22) ∧
        let r := (Float.quant 0 neg m e ((b.header : Int) - 127)).1
        b.elems.getD i 0 = if neg then -(min r q : Int) else (min r q : Int)))

/-- R123 and R173: `job`, `gath` and `scat` read the card of 32 words at issue, unless an acquire is outstanding, which they await, and
place one entry of four; a card in the wrong place or out of its limits traps `job.card` with its address. R175 and R180: `wptr` asks a
distributor for POS; `gbar` checks the group and reserves an arrival. That INFO of the traps of `gbar` is X[A] is the model's reading (log
38). -/
def Obligations.JobsAndBarriers : Prop :=
  (∀ (s : State) (u : Ctl) (a : Reg) (sl : Slot), Turn s u .scalar sl → s.replyClass sl = false →
    (sl.mayAccess = false → Waits (.job u a) s sl ∧ Waits (.gath u a) s sl ∧ Waits (.scat u a) s sl) ∧
    (sl.mayAccess = true →
    let va := (sl.getX a).toNat
    let j : Job := { core := s.cur.1, ctx := s.coreCtx s.cur.1, card := va, words := s.ownWords sl va 32 }
    (va < 0x40000 → s.holdsBlock sl va 256 → s.injRoomFor sl 4 = true →
      (s.cardOk j false = true → Injects (.job u a) s sl (.job j) 4) ∧
      (s.cardOk j true = true → Injects (.gath u a) s sl (.job j) 4 ∧ Injects (.scat u a) s sl (.job j) 4)) ∧
    (va < 0x40000 → s.holdsBlock sl va 256 → s.cardOk j false = false → Traps (.job u a) s sl .jobCard (sl.getX a)) ∧
    (va < 0x40000 → s.holdsBlock sl va 256 → s.cardOk j true = false →
      Traps (.gath u a) s sl .jobCard (sl.getX a) ∧ Traps (.scat u a) s sl .jobCard (sl.getX a)) ∧
    (0x40000 ≤ va → Traps (.job u a) s sl .jobCard (sl.getX a) ∧ Traps (.gath u a) s sl .jobCard (sl.getX a) ∧
      Traps (.scat u a) s sl .jobCard (sl.getX a)))) ∧
  (∀ (s : State) (u : Ctl) (d a b : Reg) (sl : Slot), Turn s u .scalar sl →
    let x := (sl.getX a).toNat
    let k := s.coreCtx s.cur.1
    let g := x % 256
    (sl.mayAccess = true → x < 2 ^ 11 → x / 8 % 32 = 0 → Launches (.wptr u d a) u s sl d (.wptr (x / 256) (x % 8))) ∧
    (sl.mayAccess = true → (2 ^ 11 ≤ x ∨ x / 8 % 32 ≠ 0) → Traps (.wptr u d a) s sl .engHandle (sl.getX a)) ∧
    (Group.v (s.group k g) = false → Traps (.gbar u a b) s sl .msgDest (sl.getX a)) ∧
    (Group.v (s.group k g) = true → Group.rc (s.group k g) = false → Traps (.gbar u a b) s sl .groupKind (sl.getX a)) ∧
    (Group.v (s.group k g) = true → Group.rc (s.group k g) = true → s.groupHas k g s.cur.1 = false →
      Traps (.gbar u a b) s sl .groupMember (sl.getX a)) ∧
    (∀ h, Group.v (s.group k g) = true → Group.rc (s.group k g) = true → s.groupHas k g s.cur.1 = true →
      s.counterOf k (sl.getX b) = some h → sl.irrev = false →
      Retires (.gbar u a b) s { sl with gbars := sl.gbars ++
        [{ id := (s.core s.cur.1).nextEntry, grp := g, ctr := h, pc := sl.pc, act := sl.act, upto := sl.nextId }] }))

/-- R123, R185 and R186: an index instruction reads its block of eight words at issue, unless an acquire is outstanding, which it awaits;
translates word 0 with the permission of Table 9.5, asks for an index range that starts there, and sends a request of two injection
entries to the engine of its die. In an irrevocable span the request is released at once, with the bytes at VEC. -/
def Obligations.IndexRequests : Prop :=
  ∀ (i : Instr) (s : State) (u : Ctl) (a : Reg) (fn : Nat) (sl : Slot), Turn s u .scalar sl → s.replyClass sl = false →
    (i, fn) ∈ [(.ldnear u a, 0), (.stvec u a, 1), (.delvec u a, 2), (.ixsnap u a, 3), (.ixrel u a, 4), (.ixstat u a, 5),
      (.ixcfg u a, 6), (.ixcent u a, 7)] →
    let va := (sl.getX a).toNat
    let r : IxReq := { core := s.cur.1, ctx := s.coreCtx s.cur.1, fn := fn, addr := va, words := s.ownWords sl va 8 }
    let base := (r.words.getD 0 0).toNat
    let need := if fn ∈ [1, 2, 6, 7] then permW else permR
    (sl.mayAccess = false → Waits i s sl) ∧
    (sl.mayAccess = true →
    (∀ pa e, va < 0x40000 → s.holdsBlock sl va 64 → r.blockOk = true → s.injRoomFor sl 2 = true →
      (sl.irrev = true → r.n 6 + 4096 ≤ s.scrBytes s.cur.1) →
      base < 2 ^ 52 → (s.core s.cur.1).rtab.find? (fun e => e.desc.covers base) = some e → e.desc.access base need sl.posted = .ok pa →
      (e.desc.has permI = true → e.desc.vbase = base →
        let sends : InjOp := .index r (homeDie pa)
        InjectsOver i s (s.touch s.cur.1 base) sl
          (if sl.irrev then (s.touch s.cur.1 base).captured s.cur.1 sl.act sends else sends) 2) ∧
      (e.desc.has permI = false ∨ e.desc.vbase ≠ base → Traps i s sl .rangePerm (BitVec.ofNat 64 base))) ∧
    (va < 0x40000 → s.holdsBlock sl va 64 → r.blockOk = false → Traps i s sl .ixBlock (sl.getX a)) ∧
    (0x40000 ≤ va → Traps i s sl .ixBlock (sl.getX a)))

/-- R190 to R193 and Table 9.7: `rsplit`, `rmerge`, `rinval`, `rres` and `rcompact` check coverage, permission and counter at issue, and
wait in the store buffer as entries of their own. Coverage and permission come before the counter (the model's choice, log 51), and the
directory as it stands at issue is what they check against (log 54). A malformed counter handle traps `ctr.handle`, for each of the five;
`rmerge` checks both its addresses. -/
def Obligations.RangeRequests : Prop :=
  ∀ (s : State) (u : Ctl) (reach : BitVec 2) (a b c : Reg) (ctr : BitVec 18) (sl : Slot), Turn s u .scalar sl →
    let x := (sl.getX a).toNat
    let y := (sl.getX b).toNat
    let z := (sl.getX c).toNat
    (sl.irrev = false → sl.stores.length < 64 → s.counterOk ctr →
      (∀ d, s.coveredBy (sl.getX a) = some d → d.has permM = true →
        Buffers (.rsplit u a b ctr) s sl (.dir (.split x y) ctr.toNat) false 0 ∧
        (∀ e, s.coveredBy (sl.getX b) = some e → e.has permM = true →
          Buffers (.rmerge u a b ctr) s sl (.dir (.merge x y) ctr.toNat) false 0)) ∧
      (sl.getX a = 0 → Buffers (.rinval u reach a ctr) s sl (.purge reach.toNat none ctr.toNat) false 0) ∧
      (∀ d, sl.getX a ≠ 0 → s.coveredBy (sl.getX a) = some d →
        Buffers (.rinval u reach a ctr) s sl (.purge reach.toNat (some d.vbase) ctr.toNat) false 0) ∧
      (∀ d, s.prv sl = true → s.coveredBy (sl.getX a) = some d →
        Buffers (.rres u a b c ctr) s sl (.dir (.res x y z) ctr.toNat) false 0 ∧
        Buffers (.rcompact u a b ctr) s sl (.dir (.compact x y) ctr.toNat) false 0)) ∧
    (¬ s.counterOk ctr →
      (∀ d, s.coveredBy (sl.getX a) = some d → d.has permM = true →
        Traps (.rsplit u a b ctr) s sl .ctrHandle (ctr.setWidth 64) ∧
        (∀ e, s.coveredBy (sl.getX b) = some e → e.has permM = true → Traps (.rmerge u a b ctr) s sl .ctrHandle (ctr.setWidth 64))) ∧
      (sl.getX a = 0 ∨ (s.coveredBy (sl.getX a)).isSome = true → Traps (.rinval u reach a ctr) s sl .ctrHandle (ctr.setWidth 64)) ∧
      (s.prv sl = true → (s.coveredBy (sl.getX a)).isSome = true → Traps (.rres u a b c ctr) s sl .ctrHandle (ctr.setWidth 64) ∧
        Traps (.rcompact u a b ctr) s sl .ctrHandle (ctr.setWidth 64))) ∧
    (∀ d, s.coveredBy (sl.getX a) = some d → d.has permM = true →
      (s.coveredBy (sl.getX b) = none → Traps (.rmerge u a b ctr) s sl .rangeMiss (sl.getX b)) ∧
      (∀ e, s.coveredBy (sl.getX b) = some e → e.has permM = false → Traps (.rmerge u a b ctr) s sl .rangePerm (sl.getX b))) ∧
    (∀ d, s.coveredBy (sl.getX a) = some d → d.has permM = false → Traps (.rsplit u a b ctr) s sl .rangePerm (sl.getX a) ∧
      Traps (.rmerge u a b ctr) s sl .rangePerm (sl.getX a)) ∧
    (s.coveredBy (sl.getX a) = none → Traps (.rsplit u a b ctr) s sl .rangeMiss (sl.getX a) ∧
      Traps (.rmerge u a b ctr) s sl .rangeMiss (sl.getX a) ∧
      (sl.getX a ≠ 0 → Traps (.rinval u reach a ctr) s sl .rangeMiss (sl.getX a)) ∧
      (s.prv sl = true → Traps (.rres u a b c ctr) s sl .rangeMiss (sl.getX a) ∧ Traps (.rcompact u a b ctr) s sl .rangeMiss (sl.getX a)))

/-- R123, R194, R195 and R201: `rprobe` pins a covered entry and writes Table 9.9, or asks for a walk, for which it waits while the walker
holds 64 misses; `runpin` removes one pin; `rquery` stores the descriptor's words, after an outstanding acquire; `pstat` asks walker 0.
None of `rprobe`, `runpin`, `pstat` traps on the address. The trap of `rquery` on a misaligned destination (log 53) and its reading of the
directory at issue (log 54) are the model's choices. -/
def Obligations.ProbesAndQueries : Prop :=
  ∀ (s : State) (u : Ctl) (d a b : Reg) (sl : Slot), Turn s u .scalar sl →
    let c := s.cur.1
    let va := (sl.getX a).toNat
    let hit := (s.core c).rtab.find? (fun e => e.desc.covers va)
    (∀ e, hit = some e → (e.pins ≠ 0 ∨ (s.core c).rtab.countP (fun x => decide (x.pins ≠ 0)) < 16) →
      ∃ t sl' v, exec (.rprobe u d a) s = .next t ∧ SameMem s t ∧ t.curSlot = some sl' ∧ sl'.pc = nextPc sl.pc ∧
        (∃ l ∈ sl'.loads, l.id = sl.nextId ∧ l.op = .probe va ∧ l.tag = u.at' ∧ l.res = some (.ready { d := d, x := v })) ∧
        (∃ x ∈ (t.core c).rtab, x.desc = e.desc ∧ x.pins = e.pins + 1) ∧
        v.extractLsb' 0 1 = 1 ∧ v.getLsbD 1 = e.desc.resident va ∧ v.getLsbD 2 = true ∧ v.getLsbD 3 = e.desc.pcl ∧
        v.extractLsb' 8 8 = e.desc.perm ∧ v.extractLsb' 16 3 = BitVec.ofNat 3 e.desc.st ∧ v.toNat < 2 ^ 19) ∧
    (∀ e, hit = some e → e.pins = 0 → 16 ≤ (s.core c).rtab.countP (fun x => decide (x.pins ≠ 0)) →
      ∃ t sl' v, exec (.rprobe u d a) s = .next t ∧ t.curSlot = some sl' ∧ (∀ x, x ∈ (t.core c).rtab ↔ x ∈ (s.core c).rtab) ∧
        (∃ l ∈ sl'.loads, l.id = sl.nextId ∧ l.res = some (.ready { d := d, x := v })) ∧ v.getLsbD 2 = false) ∧
    (hit = none → va < 2 ^ 52 → (s.die (coreDie c)).misses = [] → ∃ t sl', exec (.rprobe u d a) s = .next t ∧ SameMem s t ∧
      t.curSlot = some sl' ∧ Launched (.rprobe u d a) u d (.probe va) sl sl' ∧
      (t.die (coreDie c)).misses.map (fun m => (m.va, m.waits, m.probe)) = [(va, false, some sl.nextId)]) ∧
    (hit = none → va < 2 ^ 52 → 64 ≤ (s.die (coreDie c)).misses.countP (fun m => decide (coreCluster m.core % 4 = coreCluster c % 4)) →
      Waits (.rprobe u d a) s sl) ∧
    (∃ t sl', exec (.runpin u a) s = .next t ∧ OnlyCore s t c ∧ t.curSlot = some sl' ∧ Advanced (.runpin u a) sl sl' ∧
      (hit = none → (t.core c).rtab = (s.core c).rtab) ∧
      (∀ e, hit = some e → (t.core c).rtab = (s.core c).rtab.map (fun x => if x = e then { x with pins := x.pins - 1 } else x))) ∧
    (sl.mayAccess = false → Waits (.rquery u a b) s sl) ∧
    (sl.mayAccess = true → va % 32 = 0 → va + 32 ≤ s.scrBytes c → sl.irrev = false →
      let bytes := (List.range 4).flatMap (fun i => bytesAt (va + 8 * i) (poolKey c (va + 8 * i)) 8
        ((descWords (s.coveredBy (sl.getX b))).getD i 0))
      sl.journal.length + (s.newJournal sl.journal bytes).length ≤ 64 → StoresChecked (.rquery u a b) s s sl bytes []) ∧
    (sl.mayAccess = true → va % 32 ≠ 0 → Traps (.rquery u a b) s sl .memAlign (sl.getX a)) ∧
    Launches (.pstat u d a) u s sl d (.pstat va)

/-- R197 to R201 and R249: `pmake` writes the base of the range as handle, `post` is a release of scope `.sys` after which the span's
accesses to the parcel trap, and `pfree` asks for a deletion; each waits in the store buffer as an entry of its own. Coverage, permission
and state come before the counter (the model's choice, log 51), and the directory as it stands at issue is what they check against (log
54). -/
def Obligations.ParcelRequests : Prop :=
  ∀ (s : State) (u : Ctl) (d a b : Reg) (ch : BitVec 6) (ctr : BitVec 18) (sl : Slot), Turn s u .scalar sl →
    let x := (sl.getX a).toNat
    let dest := sl.getX b
    (∀ r, s.coveredBy (sl.getX a) = some r →
      (s.counterOk ctr → sl.irrev = false → sl.stores.length < 64 →
        ((r.pcl = true ∨ (r.has (permP ||| permM) = true ∧ r.fit = true)) →
          BuffersAndWrites (.pmake u d a ctr) u s sl (.dir (.make x) ctr.toNat) { d := d, x := BitVec.ofNat 64 r.vbase }) ∧
        (r.has permW = true → (r.pcl = true ∨ r.has permM = true) →
          Buffers (.pfree u a ctr) s sl (.dir (.free x) ctr.toNat) false 0) ∧
        (r.vbase = x → r.pcl = true → (r.st = 0 ∨ r.st = 5) → dest.toNat < 2 ^ 28 →
          Buffers (.post u a b ch ctr) s { sl with posted := sl.posted ++ [x] } (.dir (.post x dest ch) ctr.toNat) true 4)) ∧
      (r.pcl = false → r.has (permP ||| permM) = false → Traps (.pmake u d a ctr) s sl .rangePerm (sl.getX a)) ∧
      (r.pcl = false → r.has (permP ||| permM) = true → r.fit = false → Traps (.pmake u d a ctr) s sl .parcelState (sl.getX a)) ∧
      (r.has permW = false → Traps (.pfree u a ctr) s sl .rangePerm (sl.getX a)) ∧
      (r.has permW = true → r.pcl = false → r.has permM = false → Traps (.pfree u a ctr) s sl .rangePerm (sl.getX a)) ∧
      (¬ s.counterOk ctr →
        ((r.pcl = true ∨ (r.has (permP ||| permM) = true ∧ r.fit = true)) → Traps (.pmake u d a ctr) s sl .ctrHandle (ctr.setWidth 64)) ∧
        (r.has permW = true → (r.pcl = true ∨ r.has permM = true) → Traps (.pfree u a ctr) s sl .ctrHandle (ctr.setWidth 64)) ∧
        (r.vbase = x → r.pcl = true → (r.st = 0 ∨ r.st = 5) → dest.toNat < 2 ^ 28 →
          Traps (.post u a b ch ctr) s sl .ctrHandle (ctr.setWidth 64))) ∧
      (r.vbase = x → r.pcl = true → (r.st = 0 ∨ r.st = 5) → 2 ^ 28 ≤ dest.toNat → Traps (.post u a b ch ctr) s sl .msgDest dest) ∧
      ((r.vbase ≠ x ∨ r.pcl = false ∨ (r.st ≠ 0 ∧ r.st ≠ 5)) → Traps (.post u a b ch ctr) s sl .parcelState (sl.getX a))) ∧
    (s.coveredBy (sl.getX a) = none → Traps (.pmake u d a ctr) s sl .rangeMiss (sl.getX a) ∧
      Traps (.pfree u a ctr) s sl .rangeMiss (sl.getX a) ∧ Traps (.post u a b ch ctr) s sl .parcelState (sl.getX a))

/-- R202 and Table 9.13: what `csrr` reads and where; an unlisted number traps `csr.num`. R202: `csrw` by a supervisor. A context CSR
of another core is sent there; on the supervisor core it is written at once; `sel.age` is the core's own; a handler entry is staged by
its even half and written whole by its odd half. -/
def Obligations.CsrAccess : Prop :=
  (∀ (s : State) (u : Ctl) (d : Reg) (csr : BitVec 12) (sl : Slot), Turn s u .scalar sl →
    let n := csr.toNat
    let c := s.cur.1
    let k := s.coreCtx c
    let x := s.ctx k
    let values := s.ctxCsrs k
    (n = 5 → Writes (.csrr u d csr) u s sl { d := d, x := (s.core c).selAge.setWidth 64 }) ∧
    (n = 9 → Writes (.csrr u d csr) u s sl { d := d, x := match sl.budget with | some b => BitVec.ofNat 64 b | none => BitVec.allOnes 64 }) ∧
    (∀ m, n = 0x100 + 2 * m → m < 64 → s.prv sl = true →
      Writes (.csrr u d csr) u s sl { d := d, x := (s.hte c m).extractLsb' 0 64 }) ∧
    (∀ m, n = 0x101 + 2 * m → m < 64 → s.prv sl = true →
      Writes (.csrr u d csr) u s sl { d := d, x := (s.hte c m).extractLsb' 64 64 }) ∧
    (∀ v, (n, v) ∈ values → x.sup = c → Writes (.csrr u d csr) u s sl { d := d, x := v }) ∧
    (∀ v, (n, v) ∈ values → x.sup ≠ c → ∃ t sl', exec (.csrr u d csr) s = .next t ∧ SameMem s t ∧ t.curSlot = some sl' ∧
      Launched (.csrr u d csr) u d (.csr n) sl sl' ∧ (t.ctx k).csrs = x.csrs ++ [.read c s.cur.2 sl.act sl.nextId]) ∧
    (10 ≤ n → n < 0x100 ∨ 0x180 ≤ n → TrapsOpen (.csrr u d csr) s sl .csrNum) ∧
    (0x100 ≤ n → n < 0x180 → s.prv sl = false → TrapsOpen (.csrr u d csr) s sl .privInstr)) ∧
  (∀ (s : State) (u : Ctl) (a : Reg) (csr : BitVec 12) (sl : Slot), Turn s u .scalar sl → s.prv sl = true →
    let n := csr.toNat
    let c := s.cur.1
    let k := s.coreCtx c
    let x := s.ctx k
    let v := sl.getX a
    let allowed := (n = 0 ∧ v.toNat < 2 ^ 7) ∨ (n = 1 ∧ v.extractLsb' 23 28 = 0) ∨ (n = 2 ∧ v.toNat < 2) ∨
      ((n = 3 ∨ n = 4) ∧ 256 ≤ v.toNat ∧ v.toNat < 2 ^ 32) ∨ ((n = 7 ∨ n = 8) ∧ v.extractLsb' 0 8 = 0 ∧ v.extractLsb' 52 12 = 0)
    (allowed → x.sup ≠ c → RetiresOver (.csrw u a csr) s (s.modCtx k (fun y => { y with csrs := y.csrs ++ [.write c n v] })) sl) ∧
    (allowed → x.sup = c → ∃ base y : _, base = s.modCtx k (fun _ => y) ∧ RetiresOver (.csrw u a csr) s base sl ∧ CsrWritten x y n v) ∧
    (n = 5 → 1 ≤ v.toNat → v.toNat ≤ 255 →
      RetiresOver (.csrw u a csr) s (s.modCore c (fun co => { co with selAge := v.setWidth 8 })) sl) ∧
    (∀ m, n = 0x100 + 2 * m → m < 64 → Retires (.csrw u a csr) s { sl with halfHte := some (m, v) }) ∧
    (∀ m, n = 0x101 + 2 * m → m < 64 →
      let low := match sl.halfHte with
        | some h => if h.1 = m then h.2 else (s.hte c m).extractLsb' 0 64
        | none => (s.hte c m).extractLsb' 0 64
      (Hte.ok m (v ++ low) = true → ∃ t, exec (.csrw u a csr) s = .next t ∧ t.hte c m = v ++ low) ∧
      (Hte.ok m (v ++ low) = false → TrapsOpen (.csrw u a csr) s sl .instrOperand)) ∧
    (n = 6 ∨ n = 9 ∨ (10 ≤ n ∧ n < 0x100) ∨ 0x180 ≤ n → TrapsOpen (.csrw u a csr) s sl .csrNum) ∧
    (n ≤ 8 → n ≠ 6 → n ≠ 5 → ¬ allowed → TrapsOpen (.csrw u a csr) s sl .instrOperand))

/-- R203 to R206 and Table 9.14: the supervisor's instructions, and `wdset` and `cap`, which any activation may use; each completes on
operands within its limits and traps on others: a target that is no core of the context, a save area that is not 64-aligned, a counter
operand that names none, a priority, level or interval out of range, a destination of `errpop` outside the scratchpad. The information
word of `instr.operand` is a free value (log 67), and the trap on a misaligned save area is the model's choice (log 59). -/
def Obligations.SupervisorInstructions : Prop :=
  ∀ (s : State) (u : Ctl) (d a b c : Reg) (op : BitVec 1) (ch : BitVec 6) (ctr : BitVec 18) (sl : Slot), Turn s u .scalar sl →
    let core := s.cur.1
    let k := s.coreCtx core
    let x := (sl.getX a).toNat
    let y := (sl.getX b).toNat
    (s.prv sl = true → s.inSet k x = true → sl.irrev = false → sl.stores.length < 64 →
      Buffers (.sret u a b c) s sl (.sret x ((sl.getX b).setWidth 6) (sl.getX c)) false 0 ∧
      Buffers (.halt u a op) s sl (.halt x (decide (op = 1))) false 0 ∧
      (y % 64 = 0 → s.counterOk ctr → Buffers (.ctxsave u a b ctr) s sl (.ctxsave x y ctr.toNat) false 0 ∧
        Buffers (.ctxload u a b ctr) s sl (.ctxload x y ctr.toNat) false 0)) ∧
    (s.prv sl = true → s.inSet k x = true →
      (y % 64 ≠ 0 → Traps (.ctxsave u a b ctr) s sl .memAlign (sl.getX b) ∧ Traps (.ctxload u a b ctr) s sl .memAlign (sl.getX b)) ∧
      (y % 64 = 0 → ¬ s.counterOk ctr → Traps (.ctxsave u a b ctr) s sl .ctrHandle (ctr.setWidth 64) ∧
        Traps (.ctxload u a b ctr) s sl .ctrHandle (ctr.setWidth 64))) ∧
    (s.prv sl = true →
      (7 < x → TrapsOpen (.prio u a ch) s sl .instrOperand) ∧
      ((2 < x ∨ (y ≠ 0 ∧ y < 65536) ∨ 2 ^ 32 < y) → TrapsOpen (.scrub u a b) s sl .instrOperand) ∧
      (5 < x → TrapsOpen (.errpop u d a b) s sl .instrOperand) ∧
      (x ≤ 5 → (y % 64 ≠ 0 ∨ s.scrBytes core ≤ y) → Traps (.errpop u d a b) s sl .memWindow (sl.getX b))) ∧
    (s.prv sl = true → s.inSet k x = false → Traps (.sret u a b c) s sl .msgDest (sl.getX a) ∧
      Traps (.halt u a op) s sl .msgDest (sl.getX a) ∧ Traps (.ctxsave u a b ctr) s sl .msgDest (sl.getX a) ∧
      Traps (.ctxload u a b ctr) s sl .msgDest (sl.getX a)) ∧
    (s.prv sl = true → Retires (.wdset u a) s { sl with budget := if x = 0 then none else some x }) ∧
    (s.prv sl = false → Retires (.wdset u a) s { sl with budget := some (match sl.budget with | some old => min old x | none => x) }) ∧
    (s.prv sl = true → x ≤ 7 → ∃ t sl', exec (.prio u a ch) s = .next t ∧ OnlyCore s t core ∧ t.curSlot = some sl' ∧
      Advanced (.prio u a ch) sl sl' ∧ t.hte core ch.toNat = (s.hte core ch.toNat).setPri x ∧
      ∀ o, o ≠ ch.toNat → t.hte core o = s.hte core o) ∧
    (s.prv sl = true → x ≤ 2 → (y = 0 ∨ (65536 ≤ y ∧ y ≤ 2 ^ 32)) → RetiresOver (.scrub u a b) s
      (s.modCtx k (fun z => { z with sweep := Sparse.set 0 z.sweep x y })) sl) ∧
    (s.prv sl = true → x ≤ 5 → y % 64 = 0 → y < s.scrBytes core →
      (∀ r rs, ((s.ctx k).ring x).recs = r :: rs → ∃ t sl', exec (.errpop u d a b) s = .next t ∧
        PoolStored s t core sl.act ((List.range 8).flatMap (fun i => bytesAt (y + 8 * i) (poolKey core (y + 8 * i)) 8 (r.getD i 0))) ∧
        ((t.ctx k).ring x).recs = rs ∧ t.curSlot = some sl' ∧
        Retired (.errpop u d a b) u { d := d, x := BitVec.ofNat 64 rs.length } sl sl') ∧
      (((s.ctx k).ring x).recs = [] → Writes (.errpop u d a b) u s sl { d := d, x := BitVec.allOnes 64 })) ∧
    (x % 8 = 0 → Writes (.cap u d a) u s sl { d := d, x := s.capList.getD (x / 8) 0 }) ∧
    (x % 8 ≠ 0 → TrapsOpen (.cap u d a) s sl .instrOperand)

/-- R77, R101, R102, R137 and R161: how `done`, `commit` and `fence.sc` end a span. An unpaired `gang` traps; pending tags and loads are
awaited, the slot as it was meanwhile; then the store buffer is released in order, injection entries are released, and the slot is free or
drains. R102: the drain of a `commit` ends when every store and counter write of the activation is performed, at a bank, a home, another
device or the host, and everything else that it released has left the core; that of a `fence.sc` waits for stores in flight that answered
its loads too (R137, R242). The checkpoint then holds the registers and the next PC, the journal is clear, the span is revocable again.
That `done` with a CNT that names no counter traps `ctr.handle` is the model's choice (log 25). -/
def Obligations.SpanEnds : Prop :=
  (∀ (i : Instr) (s : State) (u : Ctl) (sl sl1 : Slot), i ∈ [.done u, .commit u, .fenceSc u] → Turn s u .scalar sl →
    let c := s.cur.1
    let k := s.cur.2
    let all : List (BitVec 3) := [1, 2, 3, 4, 5, 6, 7]
    (sl.unpaired ≠ 0 → TrapsOpen i s sl .matForm) ∧
    (sl.unpaired = 0 →
      (sl.flushLate.consume all = .wait sl1 → Waits i s sl) ∧
      (∀ pc tr, sl.flushLate.consume all = .fault pc tr → exec i s = .next (s.takeTrap c k pc tr)) ∧
      (sl.flushLate.consume all = .done sl1 → sl1.loads ≠ [] → Waits i s sl) ∧
      (sl.flushLate.consume all = .done sl1 → sl1.loads = [] →
        (i = .done u → s.optCounter (s.coreCtx c) sl1.cnt = none → Traps i s sl1 .ctrHandle sl1.cnt) ∧
        (∀ h, i = .done u → s.optCounter (s.coreCtx c) sl1.cnt = some h → ∃ t, exec i s = .next t ∧ SameMem s t ∧ t.slot c k = none ∧
          (t.core c).released = (s.core c).released ++ releasedAs sl1.act k true (sl1.stores ++ match h with
            | none => []
            | some h => [{ id := (s.core c).nextEntry, op := .cadd h 1, rel := true, sc := 4, completion := true, upto := sl1.nextId }]) ∧
          (∀ e ∈ (t.core c).inj, e.act = sl1.act → e.released = true)) ∧
        (i ≠ .done u → ∃ t sl', exec i s = .next t ∧ SameMem s t ∧ t.curSlot = some sl' ∧ sl'.hold = .drain ∧ sl'.pc = sl1.pc ∧
          (sl'.scDrain = true ↔ i = .fenceSc u) ∧
          sl'.stores = [] ∧ sl'.x = sl1.x ∧ sl'.v = sl1.v ∧ sl'.p = sl1.p ∧ sl'.held = sl1.held ∧
          ((s.core c).ctx ≠ none → sl'.shadow.isClear = true) ∧
          (t.core c).released = (s.core c).released ++ releasedAs sl1.act k false sl1.stores ∧
          (∀ e ∈ (t.core c).inj, e.act = sl1.act → e.released = true))))) ∧
  (∀ (s : State) (core slot : Nat) (sl : Slot), s.slot core slot = some sl → sl.hold = .drain → (s.core core).failed = false →
    ((∀ r ∈ (s.core core).released, r.act = sl.act → r.e.op = .marker ∨ (r.left ≠ none ∧ r.e.op.isWrite = false)) →
      (∀ e ∈ (s.core core).inj, e.act = sl.act → e.released = false) →
      (∀ m, m < 16 → ∀ e ∈ (s.core (memberOf core m)).stage, e.core = core → e.act = sl.act → (s.core core).nextEntry < e.id) →
      (∀ p ∈ s.fab.peers, ∀ x ∈ p.2.kept ++ p.2.waiting, x.posted = true → x.core = core → x.act ≠ sl.act) →
      (∀ w ∈ s.hostOut, w.core = core → w.act ≠ sl.act) →
      (sl.scDrain = true → ∀ a ∈ (s.core core).answered, a.1 = sl.act → s.inFlight a.2.1 a.2.2 = false) → ∃ t, exec (.commitDrainEnd core slot) s = .next t ∧ (∀ a, t.byte a = s.byte a) ∧
        (∀ c', c' ≠ core → t.core c' = s.core c') ∧ t.slot core slot = some { sl with
          ckpt := some { x := sl.x, v := sl.v, p := sl.p, cursor := sl.cursor, pc := nextPc sl.pc }, commits := sl.commits + 1,
          journal := [], irrev := false, hold := .ready, newer := [], marker := none, scDrain := false, unpaired := 0, fails := 0, kept := sl.posted,
          pc := nextPc sl.pc, entry := none, sig := (nextPc sl.pc).setWidth 24 }) ∧
    ((∃ r ∈ (s.core core).released, r.act = sl.act ∧ r.e.op ≠ .marker ∧ (r.e.op.isWrite = true ∨ r.left = none)) ∨
      (∃ e ∈ (s.core core).inj, e.act = sl.act ∧ e.released = true) ∨
      (∃ m, m < 16 ∧ ∃ e ∈ (s.core (memberOf core m)).stage, e.core = core ∧ e.act = sl.act ∧ e.id ≤ (s.core core).nextEntry) ∨
      (∃ p ∈ s.fab.peers, ∃ x ∈ p.2.kept ++ p.2.waiting, x.posted = true ∧ x.core = core ∧ x.act = sl.act) ∨
      (∃ w ∈ s.hostOut, w.core = core ∧ w.act = sl.act) ∨
      (sl.scDrain = true ∧ ∃ a ∈ (s.core core).answered, a.1 = sl.act ∧ s.inFlight a.2.1 a.2.2 = true) →
      exec (.commitDrainEnd core slot) s = .next s))

/-- R33, R103 and R125: `abort` of a revocable span gives every journalled word its old value again, releases nothing, drops the span's
injection entries, and ends the activation (`.d`), returns it to its checkpoint, or returns its messages to the head of the inbox. In
an irrevocable span it traps `span.abort`. -/
def Obligations.AbortRestores : Prop :=
  ∀ (s : State) (u : Ctl) (drop : BitVec 1) (sl : Slot), Turn s u .scalar sl →
    let c := s.cur.1
    let k := s.cur.2
    (sl.irrev = true → TrapsOpen (.abort u drop) s sl .spanAbort) ∧
    (sl.irrev = false → s.journalBad c k sl.journal.length = false → (sl.journal.map Journal.key).Nodup →
      (∀ e ∈ sl.journal, e.key % 8 = 0 ∧ ∃ o off, e.key = poolKey o off ∧ off + 8 ≤ s.scrBytes o) →
      ∃ t, exec (.abort u drop) s = .next t ∧ SameMem s t ∧
        (∀ e ∈ sl.journal, ∀ o off j, e.key = poolKey o off → off + 8 ≤ s.scrBytes o → j < 8 →
          t.poolByte c sl.act o (off + j) = (e.old.extractLsb' (8 * j) 8, e.poison, false)) ∧
        (sl.hold ≠ .drain → (t.core c).released = (s.core c).released) ∧
        (∀ e ∈ (t.core c).inj, e.act = sl.act → e.released = true) ∧
        (drop = 1 → t.slot c k = none) ∧
        (∀ ck, drop = 0 → sl.ckpt = some ck → s.ckptBad c k = false → ∃ sl', t.slot c k = some sl' ∧ sl'.x = ck.x ∧ sl'.v = ck.v ∧
          sl'.p = ck.p ∧ sl'.cursor = ck.cursor ∧ sl'.pc = ck.pc ∧ sl'.stores = [] ∧ sl'.loads = [] ∧ sl'.landing = [] ∧
          sl'.hold = .ready ∧ sl'.commits = sl.commits) ∧
        (drop = 0 → sl.ckpt = none → sl.child = none → t.slot c k = none ∧
          (t.core c).inbox.map (fun m => { m with area := 0 }) = (sl.held ++ (s.core c).inbox).map (fun m => { m with area := 0 })))

/-- R33, R34, R310, R312 and R362: what a trap does, by the class of its cause and the revocability of its span. A class M trap masks
the channel; a class T trap runs again up to three times; any other ends the activation, as every trap of an irrevocable span does. One
record goes to the supervisor. No memory changes, and nothing that was released is taken back but for what in the drain of a `commit`
still waits at the core (log 106).
R203 and R294: SRET_PERFORMED of an `sret` that may be performed makes the next binding of the channel enter at the given PC and
clears MSK of that channel alone, and the entry is gone from the released ones. -/
def Obligations.TrapsAndReturns : Prop :=
  (∀ (s : State) (c k x : Nat) (sl : Slot) (pc : Pc) (tr : Trap), s.slot c k = some sl → (s.core c).ctx = some x →
     s.journalBad c k sl.journal.length = false →
     let t := s.takeTrap c k pc tr
     SameMem s t ∧ (sl.hold ≠ .drain ∨ sl.irrev = true → (t.core c).released = (s.core c).released) ∧
     (∀ r ∈ (s.core c).released, r.act ≠ sl.act ∨ r.left ≠ none → r ∈ (t.core c).released) ∧
     (sl.irrev = true → Recorded s t c x k pc tr 2 sl.att ∧ t.slot c k = none) ∧
     (sl.irrev = false → tr.cause.klass ≠ .m → tr.cause.klass ≠ .t → Recorded s t c x k pc tr 2 sl.att ∧ t.slot c k = none) ∧
     (sl.irrev = false → tr.cause.klass = .m → Recorded s t c x k pc tr 1 sl.att ∧ (t.hte c sl.chan.toNat).msk = true ∧
       (sl.ckpt = none → sl.child = none → Returned s t c k sl.held) ∧
       (sl.ckpt.isSome = true ∨ sl.child.isSome = true → ∃ sl', t.slot c k = some sl' ∧ sl'.hold = .parked ∧ sl'.held = sl.held)) ∧
     (sl.irrev = false → tr.cause.klass = .t → sl.att < 3 → Recorded s t c x k pc tr 0 (sl.att + 1) ∧
       (sl.ckpt = none → sl.child = none → Returned s t c k (setAtt (sl.att + 1) sl.held)) ∧
       (∀ ck, sl.ckpt = some ck → s.ckptBad c k = false → Reentered t c k ck)) ∧
     (sl.irrev = false → tr.cause.klass = .t → 3 ≤ sl.att → Recorded s t c x k pc tr 2 3 ∧
       (sl.ckpt.isSome = true → t.slot c k = none) ∧
       (sl.ckpt = none → sl.child = none → (t.hte c sl.chan.toNat).msk = true ∧ Returned s t c k sl.held))) ∧
  (∀ (s : State) (c n target : Nat) (ch : BitVec 6) (pc : Word) (r : Rel), s.performable c n = some r → r.e.op = .sret target ch pc →
     (∀ e ∈ (s.core target).slots, ∀ sl, e.2 = some sl → sl.hold ≠ .parked) →
     ∃ t, exec (.sretPerformed c n) s = .next t ∧ SameMem s t ∧ (t.hte target ch.toNat).msk = false ∧
       (∀ o, o ≠ ch.toNat → t.hte target o = s.hte target o) ∧
       (pc ≠ 0 → (ch.toNat, pc) ∈ (t.core target).resume ∧ ∀ v, (ch.toNat, v) ∈ (t.core target).resume → v = pc) ∧
       (pc = 0 → (t.core target).resume = (s.core target).resume) ∧
       (∀ k, t.slot target k = s.slot target k))

/-- R28 to R30, R36, R38 and R271: the selector chooses an aged channel, the one runnable longest, or of the highest priority the first
that follows LAST, which then becomes that channel. A channel that is bound occupies the lowest free slot with its held messages, enters
at the PC that a return gave, the task's PC or the entry's EPC, has zero registers but for a task's arguments, a fresh budget, and six
cycles before its first issue.
R36 and R37: an expired budget aborts the span with `budget.expired`: an irrevocable or committed activation takes the trap,
another masks its channel and waits. A quiescent core reports `core.quiet` once. -/
def Obligations.BindingAndBudget : Prop :=
  (∀ (co : Core) (ch : Nat) (aged : Bool), (∀ p, co.lastOf p < 64) → co.select = some (ch, aged) → Chosen co ch aged) ∧
  (∀ (s : State) (c ch k : Nat) (aged : Bool), (s.core c).mayBind = true → (s.core c).select = some (ch, aged) → ch < 64 →
     (s.core c).freeSlot = some k →
     let h := (s.core c).entryOf ch
     let own := (s.core c).inbox.filter (fun m => decide (m.chan.toNat = ch))
     let held := own.take (max 1 h.rate)
     (∀ m ∈ held, m.bad = false) → own ≠ [] →
     ∃ t sl, exec (.activationBind c) s = .next t ∧ SameMem s t ∧ t.slot c k = some sl ∧ (∀ k', k' ≠ k → t.slot c k' = s.slot c k') ∧
       (∀ c', c' ≠ c → t.core c' = s.core c') ∧
       sl.chan.toNat = ch ∧ sl.held = held ∧ sl.resv = h.bnd ∧ sl.budget = (if h.bud = 0 then none else some (h.bud * 256)) ∧
       sl.irrev = false ∧ sl.journal = [] ∧ sl.stores = [] ∧ sl.loads = [] ∧ sl.ckpt = none ∧ sl.entry = some sl.pc ∧
       sl.sig = sl.pc.setWidth 24 ∧ sl.lead = 6 ∧
       (∀ p, (t.core c).lastOf p = if aged = false ∧ p = h.pri then ch else (s.core c).lastOf p) ∧
       (∀ r, Reg.isV r = true → sl.getV r = zeroLanes) ∧ (∀ r, Reg.isPd r = true → sl.getP r = 0) ∧
       let task : Bool := decide (ch = 0) && (own.headD {}).task
       let body := (own.headD {}).body
       (∀ pc, (s.core c).resume.find? (fun e => decide (e.1 = ch)) = some (ch, pc) → sl.pc = pc.setWidth 32) ∧
       ((s.core c).resume.find? (fun e => decide (e.1 = ch)) = none →
         sl.pc = if task = true then (body.getD 0 0).setWidth 32 else h.epc) ∧
       (∀ r : Reg, Reg.isX r = true → sl.getX r = if task = true ∧ 1 ≤ r.toNat ∧ r.toNat ≤ 4 then body.getD r.toNat 0 else 0) ∧
       (task = true → sl.cnt = body.getD 5 0) ∧ (task = false → sl.cnt = 0)) ∧
  ((∀ (s : State) (c k x : Nat) (sl : Slot), s.slot c k = some sl → sl.budget = some 0 → sl.hold ≠ .parked → sl.hold ≠ .drain →
     (s.core c).ctx = some x → s.journalBad c k sl.journal.length = false →
     ∃ t info, exec (.budgetExpired c k) s = .next t ∧ SameMem s t ∧
       (sl.irrev = false → sl.ckpt = none → sl.child = none → Recorded s t c x k sl.pc { cause := .budgetExpired, info := info } 1 sl.att ∧
         (t.hte c sl.chan.toNat).msk = true ∧ Returned s t c k sl.held) ∧
       (sl.irrev = true ∨ sl.ckpt.isSome = true →
         Recorded s t c x k sl.pc { cause := .budgetExpired, info := info } 2 sl.att ∧ t.slot c k = none)) ∧
   (∀ (s : State) (c k : Nat) (sl : Slot), s.slot c k = some sl → sl.budget ≠ some 0 → exec (.budgetExpired c k) s = .next s) ∧
   (∀ (s : State) (c x : Nat), (s.core c).ctx = some x →
     ((s.core c).preempt = true → (∀ e ∈ (s.core c).slots, e.2 = none) → (s.core c).spawns = [] → (s.core c).quietSent = false →
       ∃ t m, exec (.coreQuiescent c) s = .next t ∧ SameMem s t ∧ (t.core c).recs = (s.core c).recs ++ [m] ∧
         (m.body.getD 0 0).extractLsb' 48 16 = BitVec.ofNat 16 Cause.coreQuiet.code ∧ (t.core c).quietSent = true) ∧
     ((s.core c).quietSent = true → exec (.coreQuiescent c) s = .next s)))

/-- The state right after reset (R334, R291, R202, R307; the values the spec does not state are log 1): no core belongs to a context,
no slot is occupied, nothing is on its way, the measured registers, DEVNUM, the health word and the leaf index are zero, no context-
table entry is valid, and the time-outs have their defaults. Memory has its canonical form. -/
def Obligations.ResetState : Prop :=
  let s := State.reset
  (∀ c, (s.core c).ctx = none ∧ (s.core c).inbox = [] ∧ (s.core c).seq = 0 ∧ ∀ k, s.slot c k = none) ∧
  s.flight = [] ∧ s.agenda = [] ∧ s.cycle = 0 ∧ s.mgmt.up = false ∧ s.mgmt.mr = [] ∧ s.mgmt.devnum = 0 ∧ s.mgmt.health = 0 ∧
  s.mgmt.leaf = 0 ∧ (∀ k, s.ctxValid k = false ∧ (s.ctx k).live = false) ∧
  (∀ k, (s.ctx k).gangTo = 65536 ∧ (s.ctx k).grpTo = 65536 ∧ (s.ctx k).flags = 0) ∧ (∀ a, s.byte a = 0 ∧ s.poisoned a = false) ∧
  Memory.wf s.mem = true

/-- Every step keeps the canonical form of memory: equal memories are equal lists. -/
def Obligations.StepKeepsMemory : Prop :=
  ∀ s t : State, step s = .next t → Memory.wf s.mem = true → Memory.wf t.mem = true

/-- A step runs what the agenda schedules (logs 3 and 4): an instruction, command or event that it names; cycles, of which what falls
due in them interrupts the count; or an issue, in which a ready slot whose line holds a legal instruction at its PC runs exactly that
instruction, when its port is free in this cycle, the selector has nothing to bind, and no slot comes before it (R31). -/
def Obligations.StepRunsDecoded : Prop :=
  ∀ (s : State) (rest : List Act),
    let s1 := { s with tick := s.tick + 1, agenda := rest }
    (∀ i, s.agenda = .take i :: rest → step s = exec i s1) ∧
    (∀ n, s.agenda = .wait n :: rest →
      (n = 0 → step s = .next s1) ∧
      (n ≠ 0 → s1.slack n = n → step s = .next (State.pass n s1)) ∧
      (∀ m, s1.slack n = m → m ≠ 0 → m < n → step s = .next (State.pass m { s1 with agenda := .wait (n - m) :: rest })) ∧
      (∀ e es, n ≠ 0 → s1.slack n = 0 → s1.due = e :: es → step s = e { s1 with agenda := .wait n :: rest })) ∧
    (∀ (c k : Nat) (sl : Slot) (bs : List Byte) (i : Instr), s.agenda = .issue c k :: rest → s.slot c k = some sl →
      sl.hold = .ready → sl.lead = 0 → sl.budget ≠ some 0 → (s.core c).failed = false → sl.task = none →
      (sl.pc.toNat % 64) % 12 = 0 → sl.pc.toNat % 64 < 60 → sl.line = some (BitVec.ofNat 32 (sl.pc.toNat / 64 * 64), bs) →
      (sl.entry = none ∨ lineTm (leNat bs) (sl.pc.toNat % 64 / 12) = true) → lineLk (leNat bs) = 0 →
      lineIllegal (leNat bs) (sl.pc.toNat % 64 / 12) = false →
      decode (BitVec.ofNat 96 (leNat bs / 2 ^ (96 * (sl.pc.toNat % 64 / 12)))) = .ok i →
      let port := (instrPortM i).getD true
      (s1.binds c = true → step s = execActivationBind c { s1 with agenda := .issue c k :: rest }) ∧
      (s1.binds c = false → (s.core c).issued = [] → s1.yields c port k = true → step s = .next s1) ∧
      (s1.binds c = false → (s.core c).issued = [] → s1.yields c port k = false →
        ∃ s2, OnlySlot s1 s2 c k ∧ s2.slot c k = some { sl with
            ahead := sl.ahead.filter (fun e => decide (e.1 ≠ BitVec.ofNat 32 (sl.pc.toNat / 64 * 64))) } ∧
          step s = match exec i { s2 with cur := (c, k) } with
            | .next t => .next (t.noteIssue c k port (some sl))
            | o => o)) ∧
    (∀ (c k : Nat), s.agenda = .issue c k :: rest → s.slot c k = none → step s = .next s1)

/-- R63, R65, R80 and R239: a fetch from local code reads the 64 bytes of the line at the PC's offset in the pool; with correct check
bits it decodes the slot at the PC, with one wrong bit it decodes the corrected line, and a line that the check bits fail or that holds
a poisoned word traps `fetch.ue`; a line outside the scratchpad traps `fetch.fault`.
R62 and R63: the check bits that R62 sets are read as correct, and a line with any one of its 512 bits inverted is corrected to the
line as it was. -/
def Obligations.FetchAndCorrection : Prop :=
  (∀ (s : State) (c k : Nat) (sl : Slot), s.slot c k = some sl → sl.task = none → sl.line = none →
     (sl.pc.toNat % 64) % 12 = 0 → sl.pc.toNat % 64 < 60 → 2 ^ 31 ≤ sl.pc.toNat →
     let off := sl.pc.toNat % 2 ^ 31 / 64 * 64
     let line := leNat (s.bytes (poolKey c off) 64)
     let bad := (List.range 8).any (fun i => s.poisoned (poolKey c off + 8 * i))
     (∀ e ∈ sl.ahead, e.1 ≠ BitVec.ofNat 32 (sl.pc.toNat / 64 * 64)) →
     (s.scrBytes c ≤ off → s.fetch c k = .trap sl.pc { cause := .fetchFault, info := sl.pc.setWidth 64 } s) ∧
     (off < s.scrBytes c →
       (bad = true ∨ eccRead line = .failed → s.fetch c k = .trap sl.pc { cause := .fetchUe, info := sl.pc.setWidth 64 } s) ∧
       (bad = false → ∀ l, eccRead line = .corrected l → ∀ i, decode (lineSlot l (sl.pc.toNat % 64 / 12)) = .ok i →
         lineLk l = 0 → lineIllegal l (sl.pc.toNat % 64 / 12) = false →
         (sl.entry = none ∨ lineTm l (sl.pc.toNat % 64 / 12) = true) →
         ∃ t, s.fetch c k = .instr i t ∧ SameMem s t ∧ t.slot c k = some { sl with
           line := some (BitVec.ofNat 32 (sl.pc.toNat / 64 * 64), leBytes 64 l), ahead := sl.ahead, task := none }) ∧
       (bad = false → eccRead line = .ok line → ∀ i, decode (lineSlot line (sl.pc.toNat % 64 / 12)) = .ok i →
         lineLk line = 0 → lineIllegal line (sl.pc.toNat % 64 / 12) = false →
         (sl.entry = none ∨ lineTm line (sl.pc.toNat % 64 / 12) = true) →
         ∃ t, s.fetch c k = .instr i t ∧ OnlySlot s t c k ∧
           t.slot c k = some { sl with line := some (BitVec.ofNat 32 (sl.pc.toNat / 64 * 64), leBytes 64 line), task := none }))) ∧
  (∀ line n : Nat, line < 2 ^ 512 → n < 512 →
     eccRead (eccFill line) = .ok (eccFill line) ∧ (eccFill line) % 2 ^ 502 = line % 2 ^ 502 ∧
     ∃ l, eccRead (eccFill line ^^^ 2 ^ n) = .corrected l ∧ l % 2 ^ 502 = line % 2 ^ 502)

/-- Tables 4.3 and 4.7: words written out from the encodings decode to the instructions they stand for. -/
def Obligations.WordsDecode : Prop :=
  decode (0x00#8 ++ 1#4 ++ 3#6 ++ 1#6 ++ 2#6 ++ 0#66) = .ok (.add {} 3 1 2) ∧
  decode (0x10#8 ++ 1#4 ++ 3#6 ++ 1#6 ++ 0#6 ++ 0#34 ++ 0xFFFFFFFF#32) = .ok (.addImm {} 3 1 0xFFFFFFFF) ∧
  decode (0x21#8 ++ 0#4 ++ 3#6 ++ 0#12 ++ 0#34 ++ 7#32) = .ok (.li {} 3 7) ∧
  decode (0x31#8 ++ 1#4 ++ 0#84) = .ok (.nop {}) ∧
  decode (0x32#8 ++ 0#4 ++ 0#84) = .ok (.done {}) ∧
  decode (0x00#8 ++ 0#4 ++ 0#84) = .error .illegal ∧
  decode (0x31#8 ++ 1#4 ++ 0#83 ++ 1#1) = .error .illegal

/-- R60, R69 and R83: decoding the word of a well-formed instruction gives that instruction, with every operand at every value.
R69: what the decoder accepts is well formed, and its word is the word that was read: no nonzero unused bit is accepted. -/
def Obligations.DecodeEncode : Prop :=
  (∀ (i : Instr) (w : IWord), i.WellFormed = true → encode i = some w → decode w = .ok i) ∧
  (∀ (w : IWord) (i : Instr), decode w = .ok i → i.WellFormed = true ∧ encode i = some w)

/-- R25, R145, R181, R173 and R186: an entry of the injection queue that may leave goes onto the mesh; a message takes the core's next
MID, a multicast becomes one message for each member in order, a member that waits for credit or behind an earlier message getting its own
later (R277), a card waits for room at its front-end. R313: the oldest record of a core and of a die's units leaves with the MID of its
sender. That each copy of a `gmcast` takes the next MID is the model's choice (log 96), as is when an entry may leave (logs 34 and 68). -/
def Obligations.MessagesLeave : Prop :=
  (∀ (s : State) (c n : Nat) (e : Inj), s.mayInject c n = some e →
    (∀ m, e.op = .msg m → ∃ t, exec (.injectionForward c n) s = .next t ∧ SameMem s t ∧
      t.flight = s.flight ++ [sentBy c e.act m (s.core c).mid] ∧ (t.core c).mid = (s.core c).mid + 1 ∧
      (t.core c).inj = (s.core c).inj.eraseIdx n ∧ ∀ o, o ≠ c → t.core o = s.core o) ∧
    (∀ g m done, e.op = .mcast g m done → ∃ t fs, exec (.injectionForward c n) s = .next t ∧ SameMem s t ∧ t.flight = s.flight ++ fs ∧
      let left := (s.groupMembers (s.coreCtx c) g).filter (fun d => !done.contains d)
      let ms := s.castReady c n e.op
      fs.length = ms.length ∧
      (ms = left → (t.core c).inj = (s.core c).inj.eraseIdx n) ∧
      ((∃ d ∈ left, d ∉ ms) → (t.core c).inj = (s.core c).inj.set n { e with op := .mcast g m (done ++ ms) }) ∧
      (∀ d, d ∈ ms ↔ d ∈ left ∧ (s.core d).withholds false = false ∧
        ∀ x ∈ (s.core c).inj.take n, x.released = true → d ∉ s.sendsTo c x.op) ∧
      (t.core c).mid = (s.core c).mid + BitVec.ofNat 16 ms.length ∧
      ∀ j, j < ms.length → fs[j]? =
        some (sentBy c e.act { m with dst := BitVec.ofNat 13 (ms.getD j 0) } ((s.core c).mid + BitVec.ofNat 16 j))) ∧
    (∀ j, e.op = .job j →
      (s.jobLoad j.die < 512 → ∃ t, exec (.injectionForward c n) s = .next t ∧ SameMem s t ∧
        t.flight = s.flight ++ [{ src := c, act := e.act, op := e.op, after := e.behind }] ∧
        (t.core c).inj = (s.core c).inj.eraseIdx n) ∧
      (512 ≤ s.jobLoad j.die → exec (.injectionForward c n) s = .next s)) ∧
    (∀ r die, e.op = .index r die → ∃ t, exec (.injectionForward c n) s = .next t ∧ SameMem s t ∧
      t.flight = s.flight ++ [{ src := c, act := e.act, op := e.op, ent := e.ent, upto := e.upto }] ∧ (t.core c).inj = (s.core c).inj.eraseIdx n)) ∧
  (∀ (s : State) (c n : Nat), s.mayInject c n = none → exec (.injectionForward c n) s = .next s) ∧
  (∀ (s : State) (c : Nat) (m : Msg) (rs : List Msg), (s.core c).recs = m :: rs →
    ∃ t, exec (.recordBufferSend false c) s = .next t ∧ SameMem s t ∧ (t.core c).recs = rs ∧
      t.flight = s.flight ++ [sentBy c 0 m (s.core c).mid] ∧ (t.core c).mid = (s.core c).mid + 1) ∧
  (∀ (s : State) (d u : Nat) (m : Msg) (rs : List (Nat × Msg)), (s.die d).recs = (u, m) :: rs →
    ∃ t, exec (.recordBufferSend true d) s = .next t ∧ SameMem s t ∧ (t.die d).recs = rs ∧
      t.flight = s.flight ++ [sentBy 8192 0 m (Sparse.get 0 (s.die d).unitMid u)] ∧
      Sparse.get 0 (t.die d).unitMid u = Sparse.get 0 (s.die d).unitMid u + 1)

/-- R23, R26, R146, R275 and R276: a message that reaches its core takes an inbox entry of its class, is discarded with the record of the
first check that fails, or waits while the core withholds credits, a reply with its number among those held back, behind which later
replies wait; and a core that has withheld request credits for 2^20 cycles reports once, with the map of the channels that hold messages.
The numbering of replies held back, and that later ones wait behind them, is the model's choice (log 34), as is what a core of no context
does with a message (log 66). -/
def Obligations.MessageArrives : Prop :=
  (∀ (s : State) (n x : Nat) (f : Flight) (m : Msg), s.flight[n]? = some f → f.op = .msg m → s.behindFlight n f m = false →
    let c := m.dst.toNat
    let h := s.hte c m.chan.toNat
    let out (t : State) : Prop := t.flight = s.flight.eraseIdx n ∧ SameMem s t ∧ (∀ o, o ≠ c → t.core o = s.core o) ∧
      ∀ cl ent, f.wait = some (cl, ent) → ∀ y ∈ (t.cluster cl).waits, y.ent ≠ ent
    let held : Prop := ∃ t, exec (.messageArrival n) s = .next t ∧ SameMem s t ∧ (t.core c).inbox = (s.core c).inbox ∧
      t.flight = s.flight.set n { f with back := some (f.back.getD (s.core c).nextBack) }
    let discarded (cause : Cause) : Prop := ∃ t, exec (.messageArrival n) s = .next t ∧ out t ∧
      Recorded s t c x 0 0 { cause := cause, info := msgHeader m } 4 0 ∧ (t.core c).inbox = (s.core c).inbox
    (s.core c).ctx = some x → (s.core c).lost = false →
    (m.cls = true → s.behindBack f m = true → held) ∧
    (s.behindBack f m = false →
    (h.v = false → discarded .msgNohandler) ∧
    (h.v = true → m.ctx.toNat ≠ x → (h.gw = false ∨ 64 ≤ m.ctx.toNat ∨ h.ctxs.getLsbD m.ctx.toNat = false) → discarded .msgContext) ∧
    (h.v = true → m.ctx.toNat = x → m.cls ≠ h.cls → discarded .msgClass) ∧
    (h.v = true → m.ctx.toNat = x → m.cls = h.cls →
      let accepted (area : Nat) : Prop := ∃ t, exec (.messageArrival n) s = .next t ∧ out t ∧
        (t.core c).inbox = (s.core c).inbox ++ [{ m with area := area }]
      let used := (s.core c).areaUsed
      (m.cls = true → used 1 < 8 → accepted 1) ∧
      (m.cls = true → 8 ≤ used 1 → used 0 < 56 → accepted 0) ∧
      (m.cls = true → 8 ≤ used 1 → 56 ≤ used 0 → held) ∧
      (m.cls = false → used 0 < 56 → accepted 0) ∧
      (m.cls = false → 56 ≤ used 0 → used 2 < 40 → accepted 2) ∧
      (m.cls = false → 56 ≤ used 0 → 40 ≤ used 2 → exec (.messageArrival n) s = .next s)))) ∧
  (∀ (s : State) (c x since : Nat), (s.core c).ctx = some x → (s.core c).stallSince = some since → (s.core c).stallSent = false →
    (56 ≤ (s.core c).areaUsed 0 → 40 ≤ (s.core c).areaUsed 2 →
    (s.cycle < since + 2 ^ 20 → exec (.msgStall c) s = .next s) ∧
    (since + 2 ^ 20 ≤ s.cycle → ∃ t info, exec (.msgStall c) s = .next t ∧
      Recorded s t c x 0 0 { cause := .msgStall, info := info } 4 0 ∧ (t.core c).stallSent = true ∧
      ∀ ch, ch < 64 → (info.getLsbD ch = true ↔ ∃ m ∈ (s.core c).inbox, m.chan.toNat = ch ∧ m.area ≤ 2))) ∧
    ((s.core c).areaUsed 0 < 56 ∨ (s.core c).areaUsed 2 < 40 → exec (.msgStall c) s = .next s))

/-- R40, R278, R38, R41 and R148: a fork enters its bank while that holds fewer than 4,096 tasks; the bank dispatches, of the tasks whose
target has a free prefetch entry, the first by priority and then by age; and a spawn request reserves a slot or is refused. -/
def Obligations.Tasks : Prop :=
  (∀ (s : State) (c n die b : Nat) (e : Inj) (k : Task), s.mayInject c n = some e → e.op = .fork k die b →
    ((s.bank die b).tasks.length < 4096 → ∃ t sq, exec (.forkEnterBank c n) s = .next t ∧ SameMem s t ∧
      (t.bank die b).tasks = (s.bank die b).tasks ++ [{ k with seq := sq }] ∧ (t.core c).inj = (s.core c).inj.eraseIdx n) ∧
    (4096 ≤ (s.bank die b).tasks.length → exec (.forkEnterBank c n) s = .next s)) ∧
  (∀ (s : State) (die b c : Nat) (k : Task), s.nextTask die b = some (k, c) →
    k ∈ (s.bank die b).tasks ∧ s.taskCore die b k = some c ∧
    (∀ o ∈ (s.bank die b).tasks, (s.taskCore die b o).isSome = true → k.leads o) ∧
    ((s.hte c 0).v = true → ∃ t, exec (.quinceDispatch die b) s = .next t ∧ SameMem s t ∧
      (t.bank die b).tasks = (s.bank die b).tasks.filter (fun o => decide (o.seq ≠ k.seq)) ∧
      (t.core c).inbox = (s.core c).inbox ++ [{ k.msg c with mid := Sparse.get 0 (s.die die).unitMid (unitQuince b) }])) ∧
  (∀ (s : State) (c k id target : Nat) (sl : Slot) (l : Load) (pc : Pc) (args : List Word) (cnt : Word), s.slot c k = some sl →
    sl.loads.find? (fun y => decide (y.id = id)) = some l → l.op = .spawn target pc args cnt → l.res = none →
    let free : Prop := coreDie target = coreDie c ∧ s.inSet (s.coreCtx c) target = true ∧ (s.core target).ctx = some (s.coreCtx c) ∧
      (s.core target).lost = false ∧ (s.core target).failed = false ∧ (s.core target).hasFree = true ∧
      (s.core target).runnables = [] ∧ (s.core target).preempt = false ∧ (s.core target).recs.length < 8
    (¬ free → ∃ t, exec (.spawnRequestArrival c k id) s = .next t ∧ SameMem s t ∧ Decided s t c k id { d := l.d, x := 0, mask := l.mask } ∧
      ∀ o, (t.core o).spawns = (s.core o).spawns) ∧
    (free → sl.irrev = false → ∃ t, exec (.spawnRequestArrival c k id) s = .next t ∧ SameMem s t ∧
      Decided s t c k id { d := l.d, x := 0xFFFF, mask := l.mask } ∧
      (t.core target).spawns = (s.core target).spawns ++
        [{ core := c, act := sl.act, child := { pc := pc, args := args, cnt := cnt } }]))

/-- R140 to R144: what a released add, error or initialisation does to its counter, that the waits of a counter that is initialised wake
first, when a wait sends its wake and what the wake holds, and how a bank answers a request to wait. The waking of the waits of an
initialised counter and its order are the model's choice (log 35). -/
def Obligations.CounterEvents : Prop :=
  (∀ (s : State) (c n h amt : Nat) (r : Rel), s.performable c n = some r → r.e.op = .cadd h amt →
    ∃ t, exec (.caddPerformed c n) s = .next t ∧ SameMem s t ∧ Performed s t c n ∧ CounterIs s t h ((s.counter h).plus amt)) ∧
  (∀ (s : State) (c n h : Nat) (code : BitVec 8) (r : Rel), s.performable c n = some r → r.e.op = .cerr h code →
    ∃ t, exec (.cerrPerformed c n) s = .next t ∧ SameMem s t ∧ Performed s t c n ∧ CounterIs s t h ((s.counter h).failed code)) ∧
  (∀ (s : State) (c n h : Nat) (v : Word) (code : BitVec 8) (r : Rel), s.performable c n = some r → r.e.op = .cinit h v code →
    ∃ t, exec (.cinitPerformed c n) s = .next t ∧ SameMem s t ∧ Performed s t c n ∧ CounterIs s t h { val := v, code := code } ∧
      ∀ w ∈ (s.cluster (h / 256)).waits, w.ctr = h → w.armed = true → w.fired = none → w.sent = false →
        (w.value.toNat ≤ (s.counter h).val.toNat ∨ (s.counter h).code ≠ 0 →
          { w with fired := some ((s.counter h).val, (s.counter h).code) } ∈ (t.cluster (h / 256)).waits) ∧
        ((s.counter h).val.toNat < w.value.toNat → (s.counter h).code = 0 →
          { w with fired := some ((s.counter h).val, 0xFE) } ∈ (t.cluster (h / 256)).waits)) ∧
  (∀ (s : State) (cl n : Nat) (w : Wait), (s.cluster cl).waits[n]? = some w →
    let wake (val : Word) (code : BitVec 8) : Prop := ∃ t, exec (.counterWake cl n) s = .next t ∧ SameMem s t ∧
      (t.cluster cl).waits = (s.cluster cl).waits.set n { w with sent := true } ∧
      t.flight = s.flight ++ [{ sentBy 8192 0 { dst := BitVec.ofNat 13 w.core, chan := w.chan, ctx := BitVec.ofNat 8 (s.coreCtx w.core), src := BitVec.ofNat 13 w.core, err := decide (code ≠ 0), wake := true, body := [val, w.word.setWidth 64, code.setWidth 64] }
        (Sparse.get 0 (s.die (cl / 64)).unitMid (unitBank cl)) with wait := some (cl, w.ent) }]
    (w.armed = false ∨ w.sent = true → exec (.counterWake cl n) s = .next s) ∧
    (w.sent = false → (∀ v code, w.armed = true → w.fired = some (v, code) → wake v code) ∧
    (w.armed = true → w.fired = none → w.value.toNat ≤ (s.counter w.ctr).val.toNat ∨ (s.counter w.ctr).code ≠ 0 →
      wake (s.counter w.ctr).val (s.counter w.ctr).code) ∧
    (w.armed = true → w.fired = none → (s.counter w.ctr).val.toNat < w.value.toNat → (s.counter w.ctr).code = 0 →
      exec (.counterWake cl n) s = .next s))) ∧
  (∀ (s : State) (c k id h : Nat) (v : Word) (ch : BitVec 6) (word : BitVec 32) (sl : Slot) (l : Load), s.slot c k = some sl →
    sl.loads.find? (fun y => decide (y.id = id)) = some l → l.op = .cwait h v ch word → l.res = none →
    ((s.cluster (h / 256)).waits.length < 1024 → ∃ t w, exec (.cwaitReservation c k id) s = .next t ∧ SameMem s t ∧
      Decided s t c k id { d := l.d, x := 0xFFFF, mask := l.mask } ∧
      (t.cluster (h / 256)).waits = (s.cluster (h / 256)).waits ++ [w] ∧ w.ent < 1024 ∧
      (∀ y ∈ (s.cluster (h / 256)).waits, y.ent ≠ w.ent) ∧ w.ctr = h ∧ w.value = v ∧ w.core = c ∧ w.act = sl.act ∧ w.chan = ch ∧
      w.word = word ∧ w.armed = sl.irrev ∧ w.fired = none ∧ w.sent = false) ∧
    (1024 ≤ (s.cluster (h / 256)).waits.length → ∃ t, exec (.cwaitReservation c k id) s = .next t ∧ SameMem s t ∧
      Decided s t c k id { d := l.d, x := 0, mask := l.mask } ∧ t.clusters = s.clusters))

/-- R58, R77, R131 to R134 and R239: LOAD_REPLY. A load brings the bytes that its performing point holds; an atomic stores its new value
and brings the old one; a poisoned byte brings `mem.poison`; and a result that its unit has decided comes as decided. When the hold of an
untagged result ends, and how one with PD nonzero is written, is the model's choice (log 103). -/
def Obligations.LoadReply : Prop :=
  ∀ (s : State) (c k id : Nat) (sl : Slot) (l : Load), s.slot c k = some sl →
    sl.loads.find? (fun y => decide (y.id = id)) = some l →
    let x := s.coreCtx c
    (∀ w src, l.res = some (.ready w) → ∃ t, exec (.loadReply c k id src) s = .next t ∧ SameMem s t ∧ Delivered s t c k l w) ∧
    (∀ (kd : LdKind) (f : Nat → Byte) (p : Nat → Nat), l.res = none → l.op = .mem kd → s.loadMay c sl l = true →
      l.bytes.length = ldSize kd →
      (∀ j b, l.bytes[j]? = some b → (∀ y, b.2 = some y → f j = y) ∧
        (b.2 = none → s.reach x b.1 permR = .mem (p j) ∧ s.poisoned (p j) = false ∧ f j = s.byte (p j))) →
      ∃ t, exec (.loadReply c k id .home) s = .next t ∧ SameMem s t ∧
        Delivered s t c k l { d := l.d, x := loaded kd (littleEndian f (ldSize kd)) }) ∧
    (∀ (kd : LdKind) (key p : Nat) (bs : List (Nat × Option Byte)), l.res = none → l.op = .mem kd → s.loadMay c sl l = true →
      l.bytes = (key, none) :: bs → s.reach x key permR = .mem p → s.poisoned p = true →
      ∃ t, exec (.loadReply c k id .home) s = .next t ∧ Failed s t c k l { cause := .memPoison, info := BitVec.ofNat 64 l.va }) ∧
    (∀ (op : AtomOp) (n p : Nat) (b : Word), l.res = none → l.op = .atom op n b → n = 4 ∨ n = 8 → (op = .fadd → n = 4) →
      s.loadMay c sl l = true → s.atomMay c sl l = true →
      s.reach x (l.keys.headD 0) (permR ||| permW ||| permA) = .mem p → (∀ j, j < n → s.poisoned (p + j) = false) →
      let old := littleEndian (fun j => s.byte (p + j)) n
      ∃ t, exec (.loadReply c k id .home) s = .next t ∧ (∀ a, t.poisoned a = s.poisoned a) ∧
        Delivered s t c k l { d := l.d, x := BitVec.ofNat 64 old, mask := l.mask } ∧
        Written s t ((bytesAt l.va p n (BitVec.ofNat 64 (atomResult op c n old (b.toNat % 2 ^ (8 * n))))).map Prod.snd)) ∧
    (∀ code h, l.res = none → l.op = .counter code h → sl.loadBefore l = false →
      ∃ t, exec (.loadReply c k id .home) s = .next t ∧ SameMem s t ∧
        Delivered s t c k l { d := l.d, x := if code then (s.counter h).code.setWidth 64 else (s.counter h).val, mask := l.mask })

/-- R126, R237 and R239: a released store writes exactly its bytes where its address leads, or joins the write stage of a pool; a store
that faults reports its address, here or by the fault reply of another device (the model's choice, log 61: its record has KIND 4 and names
no slot); a posted atomic writes its new value; and a directory change or purge reaches its walker. -/
def Obligations.StorePerformed : Prop :=
  (∀ (s : State) (c x id dev e : Nat) (code : BitVec 16) (info : Word), (s.core c).ctx = some x → s.slot c 8 = none →
    (s.peer dev).holds e 2 = true → ∃ t, exec (.loadReply c 8 id (.peerFault dev e code info)) s = .next t ∧ SameMem s t ∧
      Recorded s t c x 0 0 { cause := Cause.ofCode code.toNat, info := info } 4 0 ∧ (t.peer dev).handed = (s.peer dev).handed.erase (e, 2)) ∧
  ∀ (s : State) (c n x : Nat) (r : Rel), s.performable c n = some r → (s.core c).ctx = some x →
    (∀ va key b bs, r.e.op = .store ((va, key, b) :: bs) →
      (keyIsPool key = true → ∃ t, exec (.storeEntryPerformed c n) s = .next t ∧ Performed s t c n ∧
        PoolStored s t c r.act ((va, key, b) :: bs)) ∧
      (∀ p, keyIsPool key = false → s.reach x key permW = .mem p →
        (∀ e ∈ (va, key, b) :: bs, s.poisoned (p + e.2.1 - key) = false) →
        ∃ t, exec (.storeEntryPerformed c n) s = .next t ∧ Performed s t c n ∧ (∀ a, t.poisoned a = s.poisoned a) ∧
          Written s t (((va, key, b) :: bs).map (fun e => (p + e.2.1 - key, e.2.2)))) ∧
      (∀ cause, keyIsPool key = false → s.reach x key permW = .fault cause →
        ∃ t, exec (.storeEntryPerformed c n) s = .next t ∧ SameMem s t ∧ Performed s t c n ∧
          Recorded s t c x 0 0 { cause := cause, info := BitVec.ofNat 64 va } 4 0)) ∧
    (∀ va key op m p v, r.e.op = .posted va key op m v → m = 4 ∨ m = 8 → (op = .fadd → m = 4) →
      s.reach x key (permR ||| permW ||| permA) = .mem p → (∀ j, j < m → s.poisoned (p + j) = false) →
      ∃ t, exec (.storeEntryPerformed c n) s = .next t ∧ Performed s t c n ∧ (∀ a, t.poisoned a = s.poisoned a) ∧
        let new := atomResult op c m (littleEndian (fun j => s.byte (p + j)) m) (v.toNat % 2 ^ (8 * m))
        Written s t ((bytesAt va p m (BitVec.ofNat 64 new)).map Prod.snd)) ∧
    (∀ op ctr, r.e.op = .dir op ctr → ∃ t, exec (.storeEntryPerformed c n) s = .next t ∧ SameMem s t ∧ Performed s t c n ∧
      (t.ctx x).dirq = (s.ctx x).dirq ++ [{ core := c, op := op, ctr := ctr }]) ∧
    (∀ reach vb ctr, r.e.op = .purge reach vb ctr → ∃ t, exec (.storeEntryPerformed c n) s = .next t ∧ SameMem s t ∧
      Performed s t c n ∧ (t.ctx x).purges = (s.ctx x).purges ++ [{ core := c, reach := reach, vbase := vb, ctr := ctr }])

/-- R227, R239 and R292: the oldest store of a port's write stage writes its bytes to the bank; over a poisoned word it clears the poison
when it writes all of it, and is otherwise dropped with a record; and a range walk fills the table, where an entry of the range keeps its
pins (R194), and lets the access go on, or traps `range.miss`. KIND and PC of that record are the model's choice (log 23). -/
def Obligations.BanksAndWalks : Prop :=
  (∀ (s : State) (c : Nat) (e : Staged) (es : List Staged), (s.core c).stage = e :: es → e.poison = false →
    ((∀ b ∈ e.bytes, s.poisoned b.2.1 = false) → ∃ t, exec (.poolBankWrite c) s = .next t ∧ (t.core c).stage = es ∧
      (∀ a, t.poisoned a = s.poisoned a) ∧ Written s t (e.bytes.map Prod.snd)) ∧
    (∀ va w (v : Word), e.bytes = bytesAt va (8 * w) 8 v → s.poisoned (8 * w) = true →
      ∃ t, exec (.poolBankWrite c) s = .next t ∧ (t.core c).stage = es ∧ Written s t (e.bytes.map Prod.snd) ∧
        t.poisoned (8 * w) = false ∧ ∀ a, a / 8 ≠ w → t.poisoned a = s.poisoned a) ∧
    (∀ va key b x, e.bytes = [(va, key, b)] → s.poisoned key = true → (s.core e.core).ctx = some x →
      ∃ t, exec (.poolBankWrite c) s = .next t ∧ (t.core c).stage = es ∧ SameMem s t ∧
        Recorded s t e.core x 0 0 { cause := .memPoison, info := BitVec.ofNat 64 va } 2 0)) ∧
  (∀ (s : State) (die n : Nat) (m : Miss) (sl : Slot), (s.die die).misses[n]? = some m → s.slot m.core m.slot = some sl →
    sl.act = m.act → sl.hold = .walk → m.waits = true → m.probe = none → m.va < 2 ^ 52 →
    let gone := s.modDie die (fun d => { d with misses := d.misses.eraseIdx n })
    (∀ d, s.dirFind (s.coreCtx m.core) m.va = some d → (s.core m.core).rtab.length < 32 →
      let pins := (((s.core m.core).rtab.find? (fun e => decide (e.desc.vbase = d.vbase))).map RtEntry.pins).getD 0
      ∃ t, exec (.rangeWalk die n) s = .next t ∧ SameMem s t ∧ (t.die die).misses = (s.die die).misses.eraseIdx n ∧
        t.slot m.core m.slot = some { sl with hold := .ready } ∧ (∃ e ∈ (t.core m.core).rtab, e.desc = d ∧ e.pins = pins)) ∧
    (s.dirFind (s.coreCtx m.core) m.va = none → exec (.rangeWalk die n) s =
      .next (gone.takeTrap m.core m.slot sl.pc { cause := .rangeMiss, info := BitVec.ofNat 64 m.va, lane := m.lane })))

/-- R14, R107, R202, R203, R37 and Table 9.11: what reaches the supervisor core: a fold of a span's sticky flags, which for a `commit`
waits for its drain while no entry with release order is left, and otherwise counts only until the drain ends or the span aborts (log
108); an out-of-range event, of which the first latches, and accesses
to context CSRs, each core's in its order and among cores in any (log 107); `pstat` reads its parcel's status; and a released `halt`
requests or withdraws pre-emption. -/
def Obligations.SupervisorArrivals : Prop :=
  (∀ (s : State) (k : Nat) (f : Fold), (s.ctx k).folds = [f] → (∃ e ∈ (s.core f.core).slots, ∃ sl, e.2 = some sl ∧ sl.act = f.act ∧
      sl.hold = .drain ∧ sl.commits = f.commits) → (∀ r ∈ (s.core f.core).released, r.act = f.act → r.e.rel = false ∧ r.e.op ≠ .marker) →
    exec (.shadowFold k) s = .next s) ∧
  (∀ (s : State) (k i : Nat) (f : Fold) (r : Rel), (s.ctx k).folds = [f] → s.foldDrains f = true →
    (s.core f.core).released[i]? = some r → r.act = f.act → (r.e.rel = true ∨ r.e.op = .marker) →
    s.acked f.core f.act ((s.core f.core).released.take i) r.e.id r.e.upto r.e.sc = true →
    ∃ t, exec (.shadowFold k) s = .next t ∧ SameMem s t ∧ (t.ctx k).folds = [] ∧ (t.ctx k).folded = (s.ctx k).folded ++ [f] ∧
      (t.ctx k).flags = (s.ctx k).flags ∧ (t.ctx k).flagsNow = (s.ctx k).flagsNow ||| f.shadow.flags) ∧
  (∀ (s : State) (k : Nat) (f : Fold) (fs : List Fold), (s.ctx k).folds = f :: fs →
    (∀ e ∈ (s.core f.core).slots, ∀ sl, e.2 = some sl → sl.act = f.act → sl.hold ≠ .drain ∨ sl.commits ≠ f.commits) →
    ∃ t, exec (.shadowFold k) s = .next t ∧ SameMem s t ∧ (t.ctx k).folds = fs ∧
      (t.ctx k).flags = (s.ctx k).flags ||| f.shadow.flags ∧
      (t.ctx k).msat.toNat = min ((s.ctx k).msat.toNat + f.shadow.msat) (2 ^ 32 - 1)) ∧
  (∀ (s : State) (k : Nat), (s.ctx k).oobs ≠ [] →
    ∃ t i c a, exec (.oobEvent k) s = .next t ∧ SameMem s t ∧ (s.ctx k).oobs[i]? = some (c, a) ∧
      (∀ (j : Nat) (e : Nat × Nat), j < i → (s.ctx k).oobs[j]? = some e → e.1 ≠ c) ∧ (t.ctx k).oobs = (s.ctx k).oobs.eraseIdx i ∧
      ((s.ctx k).flags.getLsbD 0 = true → (t.ctx k).flags = (s.ctx k).flags ∧ (t.ctx k).oobaddr = (s.ctx k).oobaddr) ∧
      ((s.ctx k).flags.getLsbD 0 = false → c < 8192 → a < 2 ^ 23 → (t.ctx k).flags = (s.ctx k).flags ||| 1 ∧
        (t.ctx k).oobaddr.extractLsb' 51 13 = BitVec.ofNat 13 c ∧ (t.ctx k).oobaddr.extractLsb' 0 51 = BitVec.ofNat 51 a)) ∧
  (∀ (s : State) (k c n : Nat) (v : Word) (rs : List CsrReq), (s.ctx k).csrs = .write c n v :: rs → n ∈ [0, 1, 2, 3, 4, 7, 8] →
    (∀ q ∈ rs, q.from_ = c) → ∃ t, exec (.contextCsrArrival k) s = .next t ∧ SameMem s t ∧ (t.ctx k).csrs = rs ∧ CsrWritten (s.ctx k) (t.ctx k) n v) ∧
  (∀ (s : State) (k c slot id n : Nat) (v : Word) (sl : Slot) (l : Load) (rs : List CsrReq), (s.ctx k).csrs = .read c slot sl.act id :: rs →
    (∀ q ∈ rs, q.from_ = c) → s.slot c slot = some sl → sl.loads.find? (fun y => decide (y.id = id)) = some l → l.op = .csr n → (n, v) ∈ s.ctxCsrs k →
    ∃ t, exec (.contextCsrArrival k) s = .next t ∧ SameMem s t ∧ (t.ctx k).csrs = rs ∧
      Decided s t c slot id { d := l.d, x := v, mask := l.mask }) ∧
  (∀ (s : State) (k : Nat), (s.ctx k).csrs ≠ [] →
    ∃ t i q, exec (.contextCsrArrival k) s = .next t ∧ SameMem s t ∧ (s.ctx k).csrs[i]? = some q ∧
      (∀ (j : Nat) (e : CsrReq), j < i → (s.ctx k).csrs[j]? = some e → e.from_ ≠ q.from_) ∧ (t.ctx k).csrs = (s.ctx k).csrs.eraseIdx i) ∧
  (∀ (s : State) (c slot id va : Nat) (sl : Slot) (l : Load), s.slot c slot = some sl →
    sl.loads.find? (fun y => decide (y.id = id)) = some l → l.op = .pstat va → l.res = none → va < 2 ^ 52 →
    let is (v : Word) : Prop := ∃ t, exec (.pstatArrival c slot id) s = .next t ∧ SameMem s t ∧
      Decided s t c slot id { d := l.d, x := v, mask := l.mask }
    (s.dirFind (s.coreCtx c) va = none → is 0) ∧
    (∀ d, s.dirFind (s.coreCtx c) va = some d → ∃ v, is v ∧ v.getLsbD 0 = true ∧ v.getLsbD 1 = d.resident va ∧ v.getLsbD 2 = false ∧
      v.getLsbD 3 = d.pcl ∧ v.extractLsb' 8 8 = d.perm ∧ v.extractLsb' 16 3 = BitVec.ofNat 3 d.st ∧
      v.extractLsb' 20 44 = BitVec.ofNat 44 d.size)) ∧
  (∀ (s : State) (c n target : Nat) (withdraw : Bool) (r : Rel), s.performable c n = some r → r.e.op = .halt target withdraw →
    ∃ t, exec (.haltPerformed c n) s = .next t ∧ SameMem s t ∧ Performed s t c n ∧ (t.core target).preempt = !withdraw)

/-- R204, R12, R317 and Table 9.15: a save of a quiescent core of the context writes its image, header, scratchpad and accumulator bytes,
slot units (free where an activation has run, log 112; reserved bytes zero) and handler entries, and leaves the core alone but for its
emergency area, where zeros stand (log 113); a load puts the pool and the handler entries back, clears the emergency area (log 113),
withdraws the pre-emption request and checks the header; a core that is not quiescent is neither saved nor loaded. -/
def Obligations.SaveAndLoad : Prop :=
  ∀ (s : State) (c n x core va ctr : Nat) (r : Rel), s.performable c n = some r → r.asked = none → s.coreCtx c = x →
    let h := s.dirCounter x ctr
    let flushed := s.bankFlush core
    (s.coreCtx core ≠ x ∨ (s.core core).quiescent = false →
      (r.e.op = .ctxsave core va ctr → ∃ t, exec (.ctxsavePerformed c n) s = .next t ∧ SameMem s t ∧ Completes s t h 0xB9) ∧
      (r.e.op = .ctxload core va ctr → ∃ t, exec (.ctxloadPerformed c n) s = .next t ∧ SameMem s t ∧ Completes s t h 0xB9)) ∧
    (s.coreCtx core = x → (s.core core).quiescent = true → r.e.op = .ctxsave core va ctr →
      ∀ pa, flushed.area x va pa 266496 permW → core < 2 ^ 64 → x < 2 ^ 64 →
      flushed.poolPoison core = none →
      ∃ t, exec (.ctxsavePerformed c n) s = .next t ∧ Completes s t h 0 ∧
        t.wordAt pa = 0x4B580001 ∧ t.wordAt (pa + 8) = core ∧ t.wordAt (pa + 16) = x ∧
        t.wordAt (pa + 24) = (s.core core).part.toNat ∧
        (∀ j, j < (partScr (s.core core).part + partA (s.core core).part) * 4096 → t.byte (pa + 64 + j) = flushed.byte (poolKey core j)) ∧
        (∀ k i, k < partS (s.core core).part → i < 4096 →
          let j := (partScr (s.core core).part + partA (s.core core).part + k) * 4096 + i
          (3600 ≤ i → t.byte (pa + 64 + j) = 0) ∧
          (i < 3600 → k ∉ (s.core core).used → t.byte (pa + 64 + j) = flushed.byte (poolKey core j))) ∧
        (∀ ch, ch < 64 → ∀ j, j < 16 → t.byte (pa + 64 + 63 * 4096 + 16 * ch + j) = (s.hte core ch).extractLsb' (8 * j) 8) ∧
        (∀ j, j < 512 → t.byte (poolKey core (63 * 4096 + 3584 + j)) = 0) ∧
        (∀ a, a < pa ∨ pa + 266496 ≤ a → a < poolKey core (63 * 4096 + 3584) ∨ poolKey core (2 ^ 18) ≤ a → t.byte a = flushed.byte a) ∧
        (t.core core).inbox = (s.core core).inbox ∧ (t.core core).preempt = (s.core core).preempt) ∧
    (s.coreCtx core = x → (s.core core).quiescent = true → r.e.op = .ctxload core va ctr →
      ∀ pa, s.area x va pa 266496 permR →
      (s.wordAt pa ≠ 0x4B580001 ∨ s.wordAt (pa + 8) ≠ core ∨ s.wordAt (pa + 24) ≠ (s.core core).part.toNat →
        ∃ t, exec (.ctxloadPerformed c n) s = .next t ∧ SameMem s t ∧ Completes s t h 0xBB) ∧
      (s.wordAt pa = 0x4B580001 → s.wordAt (pa + 8) = core → s.wordAt (pa + 24) = (s.core core).part.toNat →
        ∃ t, exec (.ctxloadPerformed c n) s = .next t ∧ Completes s t h 0 ∧ (t.core core).preempt = false ∧
          (∀ j, j < 63 * 4096 → t.byte (poolKey core j) = s.byte (pa + 64 + j)) ∧
          (∀ ch, ch < 64 → (t.hte core ch).toNat = littleEndian (fun j => s.byte (pa + 64 + 63 * 4096 + 16 * ch + j)) 16) ∧
          (∀ j, j < 512 → t.byte (poolKey core (63 * 4096 + 3584 + j)) = 0) ∧ (t.core core).used = [] ∧
          (∀ e ∈ (t.core core).rtab, e.pins = 0)))

/-- R158, R159 and R165: the head of a matrix queue clears or scales its slice, with one rounding for each element, and leaves the queue;
nothing else of memory changes and overflows count in MOF. R162: a joined step adds, for each member, the blocks of A and B in ascending
order to the member's slice and adds 1 to the counter. Where the elements of a slice lie (log 10), that operands are read when the
operation is performed (log 19) and the sign of a sum that underflows (log 132) are the model's choices. -/
def Obligations.MatrixPerformed : Prop :=
  (∀ (s : State) (c act commits sl : Nat) (es : List MatEntry), s.hasSlice c sl = true →
    ((s.core c).matq = { act := act, commits := commits, op := .zero sl } :: es →
      ∃ t, exec (.matrixOpPerformed c) s = .next t ∧ (t.core c).matq = es ∧ SameBut s t (s.sliceKey c sl) 16384 ∧
        ∀ n, n < 4096 → t.cell c sl n = 0) ∧
    (∀ f, (s.core c).matq = { act := act, commits := commits, op := .scale sl f } :: es →
      let r (n : Nat) := Sys2Proof.Machine.Float.mul .f32 0 { core := c, idx := 0 } (s.cell c sl n) f.toNat
      ∃ t, exec (.matrixOpPerformed c) s = .next t ∧ (t.core c).matq = es ∧ SameBut s t (s.sliceKey c sl) 16384 ∧
        (∀ n, n < 4096 → t.cell c sl n = (r n).1 % 2 ^ 32) ∧
        Counted (s.ctx (s.coreCtx c)).mof (t.ctx (s.coreCtx c)).mof
          ((List.range 4096).countP (fun n => decide ((r n).2 &&& Sys2Proof.Machine.Float.fof ≠ 0))))) ∧
  (∀ (s : State) (g h pa k : Nat) (sl a b : Nat → Nat) (bw : Nat → Bool), (s.gang g).step = some h →
    (∀ m, m < 4 → (s.core (g + m)).matq.head?.map MatEntry.op = some (.mma pa (sl m) (bw m) (a m) (b m) k) ∧
      s.hasSlice (g + m) (sl m) = true ∧ operandRegion (b m) k (sizeB (!bw m) k) (s.scrBytes (g + m))) →
    operandRegion (a 0) k (sizeA pa k) (s.scrBytes g) →
    let s0 := (List.range 4).foldl (fun t m => t.bankFlush (g + m)) s
    let pool (c o : Nat) : Byte := s0.byte (poolKey c o)
    let bad (c o : Nat) : Bool := s0.poisoned (poolKey c o)
    let term (m n kb : Nat) := blockTerm (pool g) (pool (g + m)) (bad g) (bad (g + m)) (a 0) pa (b m) (if bw m then 1 else 2) kb
      (n / 64) (n % 64)
    ∃ t, exec (.mmaStepComplete g none) s = .next t ∧ Completes s t (some h) 0 ∧ (t.gang g).step = none ∧
      (∀ x ∈ (t.gang g).arrivals, x ∈ (s.gang g).arrivals) ∧
      ((s.gang g).arrivals.length = 4 → (∀ m, m < 4 → ∃ x ∈ (s.gang g).arrivals, ∃ e, (s.core (g + m)).matq.head? = some e ∧
        x.core = g + m ∧ x.act = e.act ∧ x.commits = e.commits) → (t.gang g).arrivals = []) ∧
      (∀ m, m < 4 → (t.core (g + m)).matq = (s.core (g + m)).matq.tail ∧
        ∀ n, n < 4096 → t.cell (g + m) (sl m) n =
          (cellStep (g + m) (term m n) (k / 32) (s0.cell (g + m) (sl m) n)).1 % 2 ^ 32) ∧
      (∀ x, (∀ m, m < 4 → x < s.sliceKey (g + m) (sl m) ∨ s.sliceKey (g + m) (sl m) + 16384 ≤ x) → t.byte x = s0.byte x))

/-- R161 and Table 8.2: an arrival on a gang's barrier, the join with agreeing and with differing members, and the time-out, which a join
that every member has reached does not meet; a failed join performs no `mma`, drops the spans' matrix operations and names its counter,
and a member that comes late loses the rest of its span's matrix operations. A `gang` leaves its queue at once, though another of its span
has arrived before (log 131). -/
def Obligations.GangJoins : Prop :=
  (∀ (s : State) (c act commits h : Nat) (es : List MatEntry), let g := c / 4 * 4
    (s.core c).matq = { act := act, commits := commits, op := .gang h } :: es → s.gangExpired g = false →
    ((s.gang g).late.contains c = false →
      ∃ t, exec (.gangArrival c) s = .next t ∧ SameMem s t ∧ (t.core c).matq = es ∧ (t.gang g).arrivals =
        (s.gang g).arrivals ++ [{ core := c, cycle := s.cycle, ctr := h, act := act, commits := commits }]) ∧
    ((s.gang g).late.contains c = true → ∃ t, exec (.gangArrival c) s = .next t ∧ SameMem s t ∧
      (t.core c).matq = es.filter (fun e => !decide (e.act = act ∧ e.commits = commits)) ∧
      (t.gang g).arrivals = (s.gang g).arrivals ∧ (t.gang g).late = (s.gang g).late.erase c ∧ (t.core c).gangFail = 0x90 ∧
      (act, commits) ∈ (t.core c).deadMat ∧
      UnitRecorded s t (coreDie c) (unitGang g) (s.coreCtx c) c .gangTimeout (counterHandle h))) ∧
  (∀ (s : State) (g h k pa : Nat), s.gangReady g = true → s.gangTerms g g = some (h, k, pa) →
    ((∀ m, m < 4 → s.gangTerms g (g + m) = some (h, k, pa)) →
      ∃ t, exec (.gangJoin g) s = .next t ∧ SameMem s t ∧ (t.gang g).step = some h) ∧
    ((∃ m, m < 4 ∧ s.gangTerms g (g + m) ≠ some (h, k, pa)) →
      ∃ t, exec (.gangJoin g) s = .next t ∧ SameMem s t ∧ Completes s t (some h) 0x91 ∧ (t.gang g).step = none ∧
        (∀ m e, m < 4 → (s.core (g + m)).matq.head? = some e →
          ∀ e' ∈ (t.core (g + m)).matq, ¬ (e'.act = e.act ∧ e'.commits = e.commits)) ∧
        UnitRecorded s t (coreDie g) (unitGang g) (s.coreCtx g) g .gangMismatch (counterHandle h))) ∧
  (∀ (s : State) (g : Nat) (a : GangArr), a.leads (s.gang g).arrivals → (∀ b, b.leads (s.gang g).arrivals → b = a) →
    ((∀ m, m < 4 → ∃ b ∈ (s.gang g).arrivals, b.core = g + m) → exec (.gangTimeout g) s = .next s) ∧
    ((∃ m, m < 4 ∧ ∀ b ∈ (s.gang g).arrivals, b.core ≠ g + m) → (s.cycle < a.cycle + (s.ctx (s.coreCtx g)).gangTo.toNat → exec (.gangTimeout g) s = .next s) ∧
    (a.cycle + (s.ctx (s.coreCtx g)).gangTo.toNat ≤ s.cycle →
      ∃ t, exec (.gangTimeout g) s = .next t ∧ SameMem s t ∧ Completes s t (some a.ctr) 0x90 ∧
        (∀ b ∈ (t.gang g).arrivals, b ∈ (s.gang g).arrivals ∧ ∃ y, (s.gang g).arrivals.find? (fun y => decide (y.core = b.core)) = some y ∧
          ¬ (y.act = b.act ∧ y.commits = b.commits)) ∧
        (∀ m, m < 4 → (∀ b ∈ (s.gang g).arrivals, b.core ≠ g + m) → (t.gang g).late.contains (g + m) = true) ∧
        (∀ b, (s.gang g).arrivals.find? (fun y => decide (y.core = b.core)) = some b →
          ∀ e ∈ (t.core b.core).matq, ¬ (e.act = b.act ∧ e.commits = b.commits)) ∧
        UnitRecorded s t (coreDie g) (unitGang g) (s.coreCtx g) g .gangTimeout (counterHandle a.ctr))))

/-- R168 and R180: contributions to a round, after the last of which the next round begins, and arrivals on a barrier, the completion, when every member has the largest
contribution and the barrier's first arrival names the counter, and the time-outs. -/
def Obligations.Agreement : Prop :=
  (∀ (s : State) (c k id g : Nat) (v : BitVec 32) (sl : Slot) (l : Load), s.slot c k = some sl →
    sl.loads.find? (fun y => decide (y.id = id)) = some l → l.op = .maxbar g v → l.res = none →
    let x := s.coreCtx c
    let r := s.maxRound x g
    let mark (y : LandSt) : Option Slot := some { sl with loads := sl.loads.map (fun q => if q.id = id then { q with res := some y } else q) }
    let low := v &&& 0x7FFFFFFF
    (r.votes ≠ [] → (∀ m ∈ s.groupMembers x g, ∃ e ∈ r.votes, e.1 = m) → c ∉ r.late → ∃ t, exec (.maxbarContribution c k id) s = .next t ∧
      SameMem s t ∧ (t.maxRound x g).votes = [(c, low)] ∧ (t.maxRound x g).first = s.cycle) ∧
    ((r.votes ≠ [] → (∃ m ∈ s.groupMembers x g, ∀ e ∈ r.votes, e.1 ≠ m) ∧ s.cycle < r.first + (s.ctx x).grpTo.toNat) →
    (c ∈ r.late → ∃ t, exec (.maxbarContribution c k id) s = .next t ∧ SameMem s t ∧ (t.maxRound x g).votes = r.votes ∧
      t.slot c k = mark (.fault { cause := .groupTimeout, info := BitVec.ofNat 64 g })) ∧
    (c ∉ r.late → (∀ e ∈ r.votes, e.1 ≠ c) → ∃ t, exec (.maxbarContribution c k id) s = .next t ∧ SameMem s t ∧
      (t.maxRound x g).votes = r.votes ++ [(c, low)] ∧ t.slot c k = mark (.wait 0)) ∧
    (c ∉ r.late → ∀ old, r.votes = [(c, old)] → ∃ t, exec (.maxbarContribution c k id) s = .next t ∧ SameMem s t ∧
      (t.maxRound x g).votes = [(c, if old.toNat < low.toNat then low else old)] ∧ t.slot c k = mark (.wait 0)))) ∧
  (∀ (s : State) (x g : Nat), let r := s.maxRound x g
    let members := s.groupMembers x g
    let waits (l : Load) : Prop := (∃ v, l.op = .maxbar g v) ∧ l.res = some (.wait 0)
    let answered (t : State) (c : Nat) (y : Load → LandSt) : Prop := ∀ k sl, s.slot c k = some sl → ∃ sl', t.slot c k = some sl' ∧
      sl'.loads.length = sl.loads.length ∧ ∀ (j : Nat) (l : Load), sl.loads[j]? = some l →
        (waits l → sl'.loads[j]? = some { l with res := some (y l) }) ∧ (¬ waits l → sl'.loads[j]? = some l)
    (r.votes ≠ [] → (∀ c ∈ members, ∃ e ∈ r.votes, e.1 = c) →
      ∃ t top, exec (.maxbarRoundComplete x g) s = .next t ∧ SameMem s t ∧ (∃ e ∈ r.votes, e.2.toNat = top) ∧
        (∀ e ∈ r.votes, e.2.toNat ≤ top) ∧ (t.maxRound x g).votes = [] ∧
        ∀ c ∈ members, answered t c (fun l => .ready { d := l.d, x := BitVec.ofNat 64 top })) ∧
    (r.votes ≠ [] → (∃ c ∈ members, ∀ e ∈ r.votes, e.1 ≠ c) →
      (s.cycle < r.first + (s.ctx x).grpTo.toNat → exec (.maxbarTimeout x g) s = .next s) ∧
      (r.first + (s.ctx x).grpTo.toNat ≤ s.cycle → ∃ t, exec (.maxbarTimeout x g) s = .next t ∧ SameMem s t ∧
        (t.maxRound x g).votes = [] ∧ (∀ c ∈ members, (∀ e ∈ r.votes, e.1 ≠ c) → c ∈ (t.maxRound x g).late) ∧
        ∀ e ∈ r.votes, answered t e.1 (fun _ => .fault { cause := .groupTimeout, info := BitVec.ofNat 64 g })))) ∧
  (∀ (s : State) (c x : Nat) (e : Gbar) (es : List Gbar), (s.core c).gbars = e :: es → s.barMay c e = true → (s.core c).ctx = some x →
    s.barExpired x e.grp = false ∨ s.barFull x e.grp = true →
    let r := s.barRound x e.grp
    (c ∈ r.late → ∃ t, exec (.gbarArrival c) s = .next t ∧ (t.core c).gbars = es ∧ (t.barRound x e.grp).arrived = r.arrived ∧
      Recorded s t c x 0 e.pc { cause := .groupTimeout, info := BitVec.ofNat 64 e.grp, info2 := counterHandle e.ctr } 3 0) ∧
    (c ∉ r.late → (∀ y ∈ r.arrived, y.1 ≠ c) → ∃ t, exec (.gbarArrival c) s = .next t ∧ SameMem s t ∧ (t.core c).gbars = es ∧
      (t.barRound x e.grp).arrived = r.arrived ++ [(c, s.cycle, e.ctr)])) ∧
  (∀ (s : State) (x g c cyc ctr : Nat), let r := s.barRound x g
    (c, cyc, ctr) ∈ r.arrived → (∀ y ∈ r.arrived, y ≠ (c, cyc, ctr) → cyc < y.2.1 ∨ (cyc = y.2.1 ∧ c < y.1)) →
    ((∀ m ∈ s.groupMembers x g, ∃ y ∈ r.arrived, y.1 = m) → ∃ t, exec (.gbarRelease x g) s = .next t ∧ SameMem s t ∧
      Completes s t (some ctr) 0 ∧ (t.barRound x g).arrived = [] ∧ (t.barRound x g).late = r.late) ∧
    ((∃ m ∈ s.groupMembers x g, ∀ y ∈ r.arrived, y.1 ≠ m) →
      (s.cycle < cyc + (s.ctx x).grpTo.toNat → exec (.gbarTimeout x g) s = .next s) ∧
      (cyc + (s.ctx x).grpTo.toNat ≤ s.cycle → ∃ t, exec (.gbarTimeout x g) s = .next t ∧ SameMem s t ∧
        Completes s t (some ctr) 0x93 ∧ (t.barRound x g).arrived = [] ∧
        ∀ m ∈ s.groupMembers x g, (∀ y ∈ r.arrived, y.1 ≠ m) → m ∈ (t.barRound x g).late)))

/-- R171 to R174, R176, R245, R296 and R323 with Table 8.5: a card reaches its front-end behind the stores of its release; a unit's jobs
start in order, and none while a range it names is moving; a copy writes its bytes and raises POS, over a host link once that has been
read back, stops at a poisoned byte, first asks another device for what it reads there with its ranges pinned, and moves nothing when an
address fails; a distributor writes each byte to the core and offset of its block; each ends with its result word and its counter, or with
its code and record. That a copy reads its source when its event is taken and one that poison stops has written a free subset (log 19),
and that a job whose access to another device has been given up ends once its other writes are performed (log 87), are the model's
choices. -/
def Obligations.JobsMoveData : Prop :=
  (∀ (s : State) (die n : Nat) (f : Flight) (j : Job), s.flight[n]? = some f → f.op = .job j → j.die = die →
    ((s.die die).jobs.length < 512 → (s.die die).recs.length < 64 → s.storesBefore f.src f.act f.after = false → ∃ t, exec (.jobArrival die n) s = .next t ∧ SameMem s t ∧
      (t.die die).jobs = (s.die die).jobs ++ [j] ∧ t.flight = s.flight.eraseIdx n) ∧
    (512 ≤ (s.die die).jobs.length ∨ 64 ≤ (s.die die).recs.length ∨ s.storesBefore f.src f.act f.after = true →
      exec (.jobArrival die n) s = .next s)) ∧
  (∀ (s : State) (die n : Nat) (j e : Job), (s.die die).jobs[n]? = some j → e ∈ (s.die die).jobs.take n →
    e.unitId = j.unitId ∨ (e.ctx = j.ctx ∧ e.clashes j = true) →
    exec (.copyJobComplete die n) s = .next s ∧ exec (.distributorJobComplete die n) s = .next s ∧
    exec (.brambleJobComplete die n) s = .next s ∧ exec (.gatherJobComplete die n) s = .next s) ∧
  (∀ (s : State) (die n : Nat) (j : Job), s.startable die n = some j → j.pins = [] → s.moves j.ctx j.core j.runs = true →
    exec (.copyJobComplete die n) s = .next s ∧ exec (.distributorJobComplete die n) s = .next s ∧
    exec (.brambleJobComplete die n) s = .next s ∧ exec (.gatherJobComplete die n) s = .next s) ∧
  (∀ (s : State) (die n : Nat) (j : Job) (id : Nat) (v : Word), s.workable die n = some j → j.sent = some (id, v) → j.eng ∈ [1, 3, 4] →
    let ends : Instr := if j.eng = 1 then .copyJobComplete die n else if j.eng = 3 then .brambleJobComplete die n else .gatherJobComplete die n
    (s.engOut j.core id = true → exec ends s = .next s) ∧
    (s.engOut j.core id = false → ∃ t, exec ends s = .next t ∧
      (j.gone = none → j.stop = none → Resulted s t j v.toNat ∧ JobEnded s t die n j 0) ∧
      (j.gone = none → j.stop.isSome = true →
        SameMem s t ∧ JobEnded s t die n j 0xA2 ∧ UnitRecorded s t die j.unitNo j.ctx j.core .jobPoison (j.w 1)) ∧
      (j.gone.isSome = true → SameMem s t ∧ JobEnded s t die n j 0xA0 ∧ UnitRecorded s t die j.unitNo j.ctx j.core .jobFault (j.w 1)) ∧
      (j.gone = none → j.eng = 1 → t.pos die j.unit = (s.pos die j.unit + v.toNat) % 2 ^ 64))) ∧
  (∀ (s : State) (die n : Nat) (j : Job), s.workable die n = some j → j.eng = 1 → j.sent = none →
    let b := s.flushCluster j.core
    let src := j.n 3
    let dst := j.n 4
    let len := j.n 5
    let bytes (f : Nat → Byte) (key : Nat → Nat) (m : Nat) := (List.range m).map (fun i => (key i, f i))
    (∀ f key, b.engHolds j.ctx j.core src len f → b.engTakes j.ctx j.core dst len key → (src < dst → src + len ≤ dst) →
      (b.engSettles j.core len key → ∃ t, exec (.copyJobComplete die n) s = .next t ∧ (j.n 2 = 0 → Written b t (bytes f key len)) ∧
        Resulted b t j len ∧ t.pos die j.unit = (s.pos die j.unit + len) % 2 ^ 64 ∧ JobEnded s t die n j 0) ∧
      (∀ i, i < len → keyIsPool (key i) = false → paClass (key i) = .host → ∃ t, exec (.copyJobComplete die n) s = .next t ∧
        Written b t (bytes f key len) ∧ t.counters = s.counters ∧ t.pos die j.unit = s.pos die j.unit ∧
        (t.die die).jobs[n]? = some { j with sent := some (s.tick, BitVec.ofNat 64 len), stop := none, pins := b.pinsOf j j.runs } ∧
        { link := key i / 4096 % 2, core := j.core, act := 0, ent := s.tick } ∈ t.hostOut)) ∧
    (∀ f key m bad, m < len → b.engHolds j.ctx j.core src m f → b.engTakes j.ctx j.core dst len key → b.engSettles j.core m key →
      b.readsAway j j.runs = false →
      b.engKey j.ctx j.core (src + m) permR = .ok (.mem bad) → b.poisoned bad = true → (keyIsPool bad = false → paClass bad ≠ .peer) →
      b.engFault j.ctx j.core [(src, len, permR)] = none → (src < dst → src + len ≤ dst) →
      ∃ t, exec (.copyJobComplete die n) s = .next t ∧ Written b t (bytes f key m) ∧
        t.pos die j.unit = (s.pos die j.unit + m) % 2 ^ 64 ∧ JobEnded s t die n j 0xA2 ∧
        UnitRecorded s t die (unitCopy j.unit) j.ctx j.core .jobPoison (j.w 1)) ∧
    (b.readsAway j j.runs = true → j.asks = [] → b.engMiss j.ctx j.core j.runs = none →
      ∃ t, exec (.copyJobComplete die n) s = .next t ∧ SameMem b t ∧ t.counters = s.counters ∧
        (t.die die).jobs[n]? = some { j with asks := [(0, s.tick)], pins := b.pinsOf j (j.runs ++ j.runs) }) ∧
    (∀ va, j.asks = [] → b.engMiss j.ctx j.core [(src, len, permR), (dst, len, permW)] = some va →
      ∃ t, exec (.copyJobComplete die n) s = .next t ∧ SameMem b t ∧ JobEnded s t die n j 0xA0 ∧
        t.pos die j.unit = s.pos die j.unit ∧ UnitRecorded s t die (unitCopy j.unit) j.ctx j.core .jobFault (j.w 1))) ∧
  (∀ (s : State) (die n : Nat) (j : Job) (f : Nat → Byte), s.workable die n = some j → j.eng = 2 → 64 ≤ j.n 7 →
    let b0 := s.flushCluster j.core
    let len := j.n 4
    let wd := j.n 5 / 2 ^ 10 % 32 + 1
    let ht := j.n 5 / 2 ^ 15 % 32 + 1
    let core (x : Nat) := let q := x / j.n 7 % (wd * ht)
      die * 1024 + (j.n 5 / 32 % 32 + q / wd) * 32 + (j.n 5 % 32 + q % wd)
    let off (x : Nat) := j.n 6 + x / j.n 7 / (wd * ht) * j.n 7 + x % j.n 7
    let b := ((List.range len).map core).eraseDups.foldl State.bankFlush b0
    b0.engFault j.ctx j.core [(j.n 3, len, permR)] = none → b0.readsAway j j.runs = false →
    (b0.distOk die j = true → b.engHolds j.ctx j.core (j.n 3) len f →
      (∀ x, x < len → b.poisoned (poolKey (core x) (off x)) = false) →
      ∃ t, exec (.distributorJobComplete die n) s = .next t ∧ JobEnded s t die n j 0 ∧
        (j.n 2 = 0 → (∀ x, x < len → t.byte (poolKey (core x) (off x)) = f x) ∧
          ∀ a, (∀ x, x < len → a ≠ poolKey (core x) (off x)) → t.byte a = b.byte a)) ∧
    (32 < j.n 5 % 32 + wd ∨ 32 < j.n 5 / 32 % 32 + ht ∨ (∃ x, x < len ∧ b0.scrBytes (core x) ≤ off x) →
      ∃ t, exec (.distributorJobComplete die n) s = .next t ∧ SameMem b0 t ∧ JobEnded s t die n j 0xA0 ∧
        UnitRecorded s t die unitDist j.ctx j.core .jobFault (j.w 1)))

/-- R177: a Bramble job writes, in strictly ascending order, exactly the union of the indices of its two streams, each with the value of
its stream or the operation's value, without the zeros under CAN; its result word counts them; and an input that is not strictly
ascending fails with 0xA3. -/
def Obligations.BrambleMerges : Prop :=
  ∀ (s : State) (die n : Nat) (j : Job) (ia va ib vb : Nat → Nat), s.workable die n = some j → j.eng = 3 → j.sent = none →
    let b := s.flushCluster j.core
    let na := j.n 9
    let nb := j.n 10
    let holds (w m : Nat) (g : Nat → Nat) : Prop :=
      (∀ p, p < m → g p < 2 ^ 32) ∧ b.engHolds j.ctx j.core (j.n w) (4 * m) (fun i => byteOf (g (i / 4)) (i % 4))
    na ≤ 2 ^ 24 → nb ≤ 2 ^ 24 → holds 3 na ia → holds 4 na va → holds 5 nb ib → holds 6 nb vb →
    (∀ ki kv, b.engTakes j.ctx j.core (j.n 7) (4 * (na + nb)) ki → b.engTakes j.ctx j.core (j.n 8) (4 * (na + nb)) kv →
      b.engSettles j.core (4 * (na + nb)) ki → b.engSettles j.core (4 * (na + nb)) kv →
      (∀ p, p + 1 < na → ia p < ia (p + 1)) → (∀ p, p + 1 < nb → ib p < ib (p + 1)) →
      ∃ t out, exec (.brambleJobComplete die n) s = .next t ∧ JobEnded s t die n j 0 ∧ Resulted b t j (List.length out) ∧
        List.Pairwise (fun x y : Nat × Nat => x.1 < y.1) out ∧
        (∀ i v, (i, v) ∈ out ↔ (j.n 11 = 1 → v % 2 ^ 31 ≠ 0) ∧
          ((∃ p, p < na ∧ ia p = i ∧ va p = v ∧ ∀ q, q < nb → ib q ≠ i) ∨
           (∃ q, q < nb ∧ ib q = i ∧ vb q = v ∧ ∀ p, p < na → ia p ≠ i) ∨
           (∃ p q, p < na ∧ q < nb ∧ ia p = i ∧ ib q = i ∧ v = brambleOp j.opc j.core (va p) (vb q)))) ∧
        (j.n 2 = 0 → Written b t
          ((List.range (4 * out.length)).map (fun i => (ki i, byteOf (out.getD (i / 4) (0, 0)).1 (i % 4))) ++
           (List.range (4 * out.length)).map (fun i => (kv i, byteOf (out.getD (i / 4) (0, 0)).2 (i % 4)))))) ∧
    (∀ ki kv p, b.engTakes j.ctx j.core (j.n 7) (4 * (na + nb)) ki → b.engTakes j.ctx j.core (j.n 8) (4 * (na + nb)) kv →
      (p + 1 < na ∧ ia (p + 1) ≤ ia p) ∨ (p + 1 < nb ∧ ib (p + 1) ≤ ib p) →
      ∃ t, exec (.brambleJobComplete die n) s = .next t ∧ SameMem b t ∧ JobEnded s t die n j 0xA3 ∧
        UnitRecorded s t die (unitBramble j.unit) j.ctx j.core .mergeOrder (j.w 1))

/-- R178 and R179: a kernel runs on the next line of the index list, whose rewritten indices the job keeps, or fails it with 0xA4, and
what its counter adds have done by then stands; a gather or scatter without a kernel moves one element for each index, in lane order, and
fails with 0xA1 at the first index that is not below BOUND. What a kernel takes as its line of the index list, where its staged copy
stands and how it starts is the model's choice (log 41), as is that every source is read before any element is written (log 125). -/
def Obligations.GatherMoves : Prop :=
  ∀ (s : State) (die n : Nat) (j : Job), s.workable die n = some j → j.eng = 4 → j.sent = none →
    let b := s.flushCluster j.core
    (∀ (f : Nat → Byte), j.n 9 ≠ 0 → j.lines < j.lineCount → b.engFault j.ctx j.core [(j.n 3, 4 * j.n 4, permR)] = none →
      b.readsAway j j.runs = false →
      let m := 4 * min 32 (j.n 4 - 32 * j.lines)
      let run := b.runKernel j (32 * j.lines) ((List.range m).map f)
      b.engHolds j.ctx j.core (j.n 3 + 128 * j.lines) m f →
      exec (.gatherJobComplete die n) s = .next s ∧
      (∀ line, run.2 = .ok line →
        ∃ t y, exec (.gatherKernel die n) s = .next t ∧ (t.die die).jobs[n]? = some y ∧ y.lines = j.lines + 1 ∧
          y.idx = j.idx ++ (words32 line (m / 4)).map (BitVec.ofNat 32) ∧ y.words = j.words ∧ SameMem b t ∧
          t.counters = run.1.counters) ∧
      (∀ pc, run.2 = .error pc →
        ∃ t, exec (.gatherKernel die n) s = .next t ∧ SameMem b t ∧ Completes run.1 t (s.jobCounter j) 0xA4 ∧
          (t.die die).jobs = (s.die die).jobs.eraseIdx n ∧
          UnitRecorded s t die (unitGather j.core) j.ctx j.core .gathKernel (j.w 1))) ∧
    (∀ (ix : Nat → Nat), j.n 9 = 0 → exec (.gatherKernel die n) s = .next s ∧ ((∀ i, i < j.n 4 → ix i < 2 ^ 32) →
      b.engHolds j.ctx j.core (j.n 3) (4 * j.n 4) (fun i => byteOf (ix (i / 4)) (i % 4)) →
      let far (i : Nat) := j.n 6 + ix i * j.n 7
      let near (i : Nat) := j.n 8 + i * j.n 7
      let src := if j.opc = 0 then far else near
      let dst := if j.opc = 0 then near else far
      (∀ (f : Nat → Nat → Byte) (key : Nat → Nat → Nat), (∀ i, i < j.n 4 → ix i < j.n 5 ∧
          b.engHolds j.ctx j.core (src i) (j.n 7) (f i) ∧ b.engTakes j.ctx j.core (dst i) (j.n 7) (key i) ∧
          b.engSettles j.core (j.n 7) (key i)) → b.engOut j.core s.tick = false →
          b.moves j.ctx j.core ((List.range (j.n 4)).flatMap (fun i => [(src i, j.n 7, permR), (dst i, j.n 7, permW)])) = false →
        ∃ t, exec (.gatherJobComplete die n) s = .next t ∧ JobEnded s t die n j 0 ∧ (j.n 2 = 0 → Written b t
          ((List.range (j.n 4)).flatMap (fun i => (List.range (j.n 7)).map (fun y => (key i y, f i y)))))) ∧
      (∀ i, i < j.n 4 → j.n 5 ≤ ix i → (∀ y, y < i → ix y < j.n 5) →
        ∃ t, exec (.gatherJobComplete die n) s = .next t ∧ SameMem b t ∧ JobEnded s t die n j 0xA1 ∧
          UnitRecorded s t die (unitGather j.core) j.ctx j.core .gathBound (BitVec.ofNat 64 (ix i)))))

/-- R187, R189, R251, R252 and Tables 9.5 and 9.6: the arrival step gives a search its snapshot, a change its number, and an
administration request its answer, or the status that refuses it; the request then waits for its work step. The abstract form of index
data and which part of it is uncorrectable (log 18), the refusals in corner cases (log 49) and what a pinned or moving range does (log
134) are the model's choices. -/
def Obligations.IndexArrivals : Prop :=
  ∀ (s : State) (die n : Nat) (f : Flight) (r : IxReq), s.flight[n]? = some f → f.op = .index r die → s.ixBehind n f r = false →
    (s.die die).recs.length < 64 →
    let vb := r.n 0
    let x := s.index r.ctx vb
    let size := 256 * ((s.descOf r.ctx vb).map Desc.size).getD 0
    let arrives (r' : IxReq) (y : Index) : Prop := ∃ t, exec (.indexArrivalStep die n) s = .next t ∧
      t.flight = s.flight.eraseIdx n ∧ (t.die die).works = (s.die die).works ++ [r'] ∧ t.index r.ctx vb = y
    let status (st : Nat) : IxReq := { r with out := some [BitVec.ofNat 64 st, 0, 0, 0, 0] }
    let answer (a b c d : Nat) : IxReq :=
      { r with out := some [0, BitVec.ofNat 64 a, BitVec.ofNat 64 b, BitVec.ofNat 64 c, BitVec.ofNat 64 d] }
    (x.configured = false → r.fn ≤ 5 → arrives (status 3) x) ∧
    (x.configured = true →
      (r.fn = 0 → r.hs = true → r.n 2 ∉ x.holds → arrives (status 1) x) ∧
      (r.fn = 0 → (r.hs = true → r.n 2 ∈ x.holds) → r.mode ≠ 0 → x.nc < r.probes → arrives (status 3) x) ∧
      (∀ v, r.fn = 0 → (r.hs = true → r.n 2 ∈ x.holds) → (r.mode = 0 ∨ r.probes ≤ x.nc) → r.vector 0 x.dim = .ok v →
        arrives { r with snap := if r.hs then r.n 2 else x.cur } x) ∧
      (∀ v, r.fn = 1 → r.vector x.fmt x.dim = .ok v → x.next + 1 < 2 ^ 48 →
        arrives (status 2) x ∨ arrives { r with seq := x.next + 1 } { x with next := x.next + 1 }) ∧
      (∀ v, r.fn = 1 → r.vector x.fmt x.dim = .ok v → x.next + 1 < 2 ^ 48 → x.entries.length + s.ixPending x < 2 ^ 32 →
        16 * x.bytesNeeded (s.ixPending x) ≤ size → arrives { r with seq := x.next + 1 } { x with next := x.next + 1 }) ∧
      (∀ v, r.fn = 1 → r.vector x.fmt x.dim = .ok v → 2 ^ 48 ≤ x.next + 1 ∨ 2 ^ 32 ≤ x.entries.length + s.ixPending x ∨
        size < x.bytesNeeded (s.ixPending x) → arrives (status 2) x) ∧
      (∀ e, r.fn = 1 → r.vector x.fmt x.dim = .error e → arrives (status e) x) ∧
      (r.fn = 2 → x.next + 1 < 2 ^ 48 → arrives { r with seq := x.next + 1 } { x with next := x.next + 1 }) ∧
      (r.fn = 2 → 2 ^ 48 ≤ x.next + 1 → arrives (status 2) x) ∧
      (r.fn = 3 → x.holds.length < 64 → arrives (answer x.cur (x.holds.count x.cur + 1) 0 0) { x with holds := x.holds ++ [x.cur] }) ∧
      (r.fn = 3 → 64 ≤ x.holds.length → arrives (status 4) x) ∧
      (r.fn = 4 → r.n 2 ∈ x.holds → arrives (answer (r.n 2) (x.holds.count (r.n 2) - 1) 0 0) { x with holds := x.holds.erase (r.n 2) }) ∧
      (r.fn = 4 → r.n 2 ∉ x.holds → arrives (status 1) x) ∧
      (∀ o, r.fn = 5 → (x.holds = [] → o = x.cur) → (x.holds ≠ [] → o ∈ x.holds ∧ ∀ h ∈ x.holds, o ≤ h) →
        arrives (answer x.cur o (x.entries.countP (fun e => e.live x.cur)) x.holds.length) x)) ∧
    (r.fn = 6 → x.next = x.cur → x.entries = [] → ∃ y, arrives (answer 0 0 0 0) y ∧ y.configured = true ∧
      y.nc = (r.n 7) / 2 ^ 16 % 2 ^ 13 ∧ y.dim = r.n 7 % 2 ^ 7 ∧ y.fmt = r.n 7 / 2 ^ 8 % 4 ∧ y.lnk = r.n 7 / 2 ^ 32 % 2 ^ 6 ∧
      y.met = (r.words.getD 7 0).getLsbD 12 ∧ y.next = 0 ∧ y.cur = 0 ∧ y.entries = [] ∧ y.holds = x.holds ∧
      ∀ c, y.cent c = List.replicate (16 * y.dim) 0) ∧
    (r.fn = 6 → (x.next ≠ x.cur ∨ x.entries ≠ []) → arrives (status 3) x) ∧
    (r.fn = 7 → (x.configured = false ∨ x.next ≠ x.cur ∨ x.entries ≠ [] ∨ x.nc ≤ r.n 4) → arrives (status 3) x) ∧
    (∀ v, r.fn = 7 → x.configured = true → x.next = x.cur → x.entries = [] → r.n 4 < x.nc → r.vector 0 x.dim = .ok v →
      ∃ y, arrives (answer 0 0 0 0) y ∧ y.cent (r.n 4) = v ∧ ∀ c, c ≠ r.n 4 → y.cent c = x.cent c)

/-- R187, R188, R253 to R255, R257, R260 to R262 and R267: the work step completes each request once; a change commits in the order of the
numbers; a search of every cell brings the K nearest entries that are live at its snapshot; uncorrectable index data (a free value) brings
status 5, again for whatever reads the same part; and reclaiming removes exactly the entries whose tombstone no reader can be before.
Which part of an index is uncorrectable, and that it stays so (log 18), and the corner cases of requests (log 49) are the model's choices.
-/
def Obligations.IndexWork : Prop :=
  (∀ (s : State) (die n e : Nat) (r : IxReq), (s.die die).works[n]? = some r → e < 4 → (s.die die).recs.length < 64 →
    let vb := r.n 0
    let x := s.index r.ctx vb
    let done (t : State) (ws : List Word) : Prop := CompletionSent s t die e r ws ∧ (t.die die).works = (s.die die).works.eraseIdx n
    let spoilt (t : State) : Prop := done t [5, 0, 0, 0, 0] ∧ (∀ a, a < 0x010000000000 ∨ 0x800000000000 ≤ a → t.byte a = s.byte a) ∧
      UnitRecorded s t die (16 + e) r.ctx r.core .ixPoison (r.words.getD 0 0) ∧
      ((∀ p ∈ x.reads r, x.partBad r p = false) → ∃ a, Ringed (s.ringOf (some r.ctx) 3) (t.ringOf (some r.ctx) 3) 3 1
        Cause.ixPoison.code 5 die die a s.cycle)
    (∀ ws, r.out = some ws → ∃ t, exec (.indexWorkStep die n e) s = .next t ∧ SameMem s t ∧ done t ws ∧ t.indexes = s.indexes) ∧
    (r.out = none → r.seq = 0 → r.fn = 0 → (∃ p ∈ x.reads r, x.partBad r p = true) →
      ∃ t, exec (.indexWorkStep die n e) s = .next t ∧ spoilt t) ∧
    (r.out = none → r.seq ≠ 0 → x.cur + 1 ≠ r.seq → exec (.indexWorkStep die n e) s = .next s) ∧
    (r.out = none → r.seq = x.cur + 1 → r.fn = 2 → ∃ t, exec (.indexWorkStep die n e) s = .next t ∧ (t.index r.ctx vb).cur = r.seq ∧
      (spoilt t ∨
        let hit (y : IxEntry) : Bool := decide (y.key = r.words.getD 4 0) && decide (y.seq < r.seq) && y.tomb.isNone
        SameMem s t ∧ (t.index r.ctx vb).entries = x.entries.map (fun y => if hit y then { y with tomb := some r.seq } else y) ∧
        (x.entries.countP hit = 0 → done t [7, 0, 0, 0, 0]) ∧
        (x.entries.countP hit ≠ 0 → done t [0, BitVec.ofNat 64 r.seq, BitVec.ofNat 64 (x.entries.countP hit), 0, 0]))) ∧
    (∀ v, r.out = none → r.seq = x.cur + 1 → r.fn = 1 → r.vector x.fmt x.dim = .ok v →
      ∃ t, exec (.indexWorkStep die n e) s = .next t ∧ (t.index r.ctx vb).cur = r.seq ∧
      (spoilt t ∨ ∃ y, SameMem s t ∧ y ∈ (t.index r.ctx vb).entries ∧ y.seq = r.seq ∧ y.key = r.words.getD 4 0 ∧ y.vec = v ∧
        y.tomb = none ∧ y.links.length ≤ x.lnk ∧ (t.index r.ctx vb).entries.length = x.entries.length + 1 ∧
        done t [0, BitVec.ofNat 64 r.seq, 0, BitVec.ofNat 64 y.cell, 0])) ∧
    (∀ q, r.out = none → r.seq = 0 → r.fn = 0 → r.mode = 0 → r.vector 0 x.dim = .ok q →
      List.Pairwise (fun a b : IxEntry => a.seq ≠ b.seq) x.entries → (∀ y ∈ x.entries, y.cell < x.nc) → r.k ≤ 64 →
      r.n 3 + 2048 ≤ s.scrBytes r.core → (∀ j, j < 2048 → (s.bankFlush r.core).poisoned (poolKey r.core (r.n 3 + j)) = false) →
      ∃ t, exec (.indexWorkStep die n e) s = .next t ∧ (spoilt t ∨ ∃ top : List Rank,
        let live := x.entries.countP (fun y => y.live r.snap)
        top.length = min r.k live ∧ List.Pairwise (fun a b => a.le b = true) top ∧
        (∀ a ∈ top, ∃ y ∈ x.entries, y.live r.snap = true ∧ a = x.place q y) ∧
        (∀ y ∈ x.entries, y.live r.snap = true → x.place q y ∈ top ∨ ∀ a ∈ top, a.le (x.place q y) = true) ∧
        done t [BitVec.ofNat 64 (top.length * 256), BitVec.ofNat 64 r.snap, BitVec.ofNat 64 live, BitVec.ofNat 64 x.nc, 0x17F800000] ∧
        ∀ (i : Nat) (a : Rank), top[i]? = some a → let at_ := poolKey r.core (r.n 3 + 32 * i)
          t.wordAt at_ = a.key ∧ t.wordAt (at_ + 8) = a.seq % 2 ^ 64 ∧
          littleEndian (fun j => t.byte (at_ + 16 + j)) 4 = a.d % 2 ^ 32))) ∧
  (∀ (s : State) (k vb floor : Nat) (x : Index), s.index k vb = x → x ∈ s.indexes →
    let running : List Nat := (s.dies.flatMap (fun d => d.2.works)).filterMap (fun r =>
      if r.ctx = k ∧ r.n 0 = vb ∧ r.fn = 0 ∧ r.out = none then some r.snap else none)
    floor ∈ x.cur :: (x.holds ++ running) → (∀ b ∈ x.cur :: (x.holds ++ running), floor ≤ b) →
    ∃ t, exec (.indexReclaim k vb) s = .next t ∧ SameMem s t ∧
      ((t.index k vb).entries.map (fun y => (y.seq, y.key, y.cell, y.vec, y.tomb)) =
        (x.entries.filter (fun y => !x.entries.any (fun z => decide (z.seq = y.seq) &&
          match z.tomb with | some d => decide (d ≤ floor) | none => false))).map (fun y => (y.seq, y.key, y.cell, y.vec, y.tomb))) ∧
      (t.index k vb).cur = x.cur ∧ (t.index k vb).next = x.next ∧ (t.index k vb).holds = x.holds)

/-- R191 to R193, R195, R197, R199, R201, R248, R293 and Table 9.8: what the walker makes of the oldest update of a context, against the
directory as it then stands: the ranges replaced, the purge of the range tables and the counter, or the code of the check that fails; an
update waits while a replaced descriptor is pinned or has accesses to be performed; `rinval` drops the descriptors of its reach; and a
compaction moves the resident bytes, with their poison, to the new base. That updates of a pinned range wait or fail as they do (log 50),
that a compaction waits for pins until it starts and then moves in one event (log 17), and that an update waits for the accesses on their
way (log 57) are the model's choices. -/
def Obligations.DirectoryUpdates : Prop :=
  (∀ (s : State) (k a : Nat) (r : DirReq) (rs : List DirReq) (d : Desc), (s.ctx k).dirq = r :: rs → s.dirFind k a = some d →
    a < 2 ^ 52 → s.dirOrdered k → s.dirN k < 65536 →
    let runs (t : State) : Prop := exec (.directoryUpdate k) s = .next t ∧ (t.ctx k).dirq = rs
    let swaps (gone : List Desc) (new : List Desc) : Prop := ∃ t, runs t ∧ Swapped s t k (gone.map Desc.vbase) new ∧
      Purged t k (gone.map Desc.vbase) ∧ Completes s t (s.dirCounter k r.ctr) 0
    let fails (code : BitVec 8) : Prop := ∃ t, runs t ∧ SameMem s t ∧ Completes s t (s.dirCounter k r.ctr) code ∧
      ∀ x, x ∈ t.dir k ↔ x ∈ s.dir k
    let waits : Prop := exec (.directoryUpdate k) s = .next s
    let pinned := s.pinned k d
    let at_ (b : Nat) := (b - d.vbase) / 256
    (∀ b, r.op = .split a b → d.st = 0 → d.pcl = false → d.has permM = true →
      (pinned = true → waits) ∧
      (pinned = false → b % 256 ≠ 0 ∨ b ≤ d.vbase ∨ d.limit ≤ b → fails 0xB0) ∧
      (pinned = false → b % 256 = 0 → d.vbase < b → b < d.limit →
        (s.quiet k d = false → waits) ∧
        (s.quiet k d = true → swaps [d] [{ d with size := at_ b, rlo := min d.rlo (at_ b), rhi := min d.rhi (at_ b) },
          { d with vbase := b, size := d.size - at_ b, rlo := d.rlo - at_ b, rhi := d.rhi - at_ b }]))) ∧
    (∀ b, r.op = .split a b → d.st ≠ 0 ∨ d.pcl = true ∨ d.has permM = false → fails 0xB2) ∧
    (∀ b e, r.op = .merge a b → b < 2 ^ 52 → s.dirFind k b = some e → pinned = false → s.pinned k e = false →
      d.st = 0 → e.st = 0 → d.pcl = false → e.pcl = false → d.has permM = true → e.has permM = true →
      (d.limit ≠ e.vbase ∨ d.perm ≠ e.perm ∨ d.fmt ≠ e.fmt ∨ d.geo ≠ e.geo ∨ d.off ≠ e.off → fails 0xB1) ∧
      (d.limit = e.vbase → d.perm = e.perm → d.fmt = e.fmt → d.geo = e.geo → d.off = e.off →
        d.rlo < d.rhi → e.rlo < e.rhi →
        (d.rhi ≠ d.size ∨ e.rlo ≠ 0 → fails 0xB1) ∧
        (d.rhi = d.size → e.rlo = 0 → d.size + e.size < 2 ^ 32 → s.quiet k d = true → s.quiet k e = true →
          swaps [d, e] [{ d with size := d.size + e.size, rhi := d.size + e.rhi }]))) ∧
    (∀ lo hi, r.op = .res a lo hi → d.st = 0 → pinned = false →
      (hi < lo ∨ lo < d.vbase ∨ d.limit < hi ∨ lo % 256 ≠ 0 ∨ hi % 256 ≠ 0 → fails 0xB4) ∧
      (lo ≤ hi → d.vbase ≤ lo → hi ≤ d.limit → lo % 256 = 0 → hi % 256 = 0 → s.quiet k d = true →
        swaps [d] [{ d with rlo := at_ lo, rhi := at_ hi }])) ∧
    (r.op = .make a → d.pcl = true → ∃ t, runs t ∧ SameMem s t ∧ Completes s t (s.dirCounter k r.ctr) 0) ∧
    (r.op = .make a → d.pcl = false → d.has permP = true → d.has permM = true → d.st = 0 → d.rlo = 0 → d.rhi = d.size →
      d.has permG = false → d.has permI = false → pinned = false → s.quiet k d = true →
      swaps [d] [{ d with pcl := true, perm := d.perm &&& ~~~permM }]) ∧
    (r.op = .free a → d.st = 0 ∨ d.st = 5 → pinned = false → d.has permW = true → (d.pcl = true ∨ d.has permM = true) →
      s.quiet k d = true → swaps [d] []) ∧
    (r.op = .free a → (d.st ≠ 0 ∧ d.st ≠ 5) ∨ pinned = true → fails 0xB2) ∧
    (∀ dest ch, r.op = .post a dest ch → d.vbase = a → d.pcl = true → d.st = 0 ∨ d.st = 5 →
      ∃ t, runs t ∧ Swapped s t k [a] [{ d with st := 2 }] ∧ t.counters = s.counters ∧
        t.xfers = s.xfers ++ [{ ctx := k, vbase := a, core := r.core, dest := dest, chan := ch, ctr := r.ctr }]) ∧
    (∀ pa, r.op = .compact a pa → d.st = 0 → pinned = false → pa % 256 ≠ 0 → fails 0xB2)) ∧
  (∀ (s : State) (k a : Nat) (r : DirReq) (rs : List DirReq), (s.ctx k).dirq = r :: rs → s.dirFind k a = none →
    (r.op = .free a ∨ r.op = .make a ∨ (∃ b, r.op = .split a b) ∨ (∃ pa, r.op = .compact a pa)) →
    ∃ t, exec (.directoryUpdate k) s = .next t ∧ SameMem s t ∧ Completes s t (s.dirCounter k r.ctr) 0xB2) ∧
  (∀ (s : State) (k n : Nat) (p : Purge), (s.ctx k).purges[n]? = some p →
    (∀ e ∈ s.cores, ∀ d, s.quietOn k (fun c => decide (c = e.1)) d = true) →
    ∃ t, exec (.rinvalComplete k n) s = .next t ∧ SameMem s t ∧ Completes s t (s.dirCounter k p.ctr) 0 ∧
      (t.ctx k).purges = (s.ctx k).purges.eraseIdx n ∧
      ∀ c, (s.core c).ctx = some k → inReach p.reach p.core c = true → ∀ e ∈ (t.core c).rtab,
        ∃ v, p.vbase = some v ∧ e.desc.vbase ≠ v ∧ e ∈ (s.core c).rtab) ∧
  (∀ (s : State) (die : Nat) (c : Compaction) (cs : List Compaction) (d : Desc), (s.die die).compactions = c :: cs →
    s.dirFind c.ctx c.vbase = some d → c.vbase < 2 ^ 52 → s.quiet c.ctx d = true → s.dirOrdered c.ctx → s.dirN c.ctx ≤ 65536 →
    c.newPa % 256 = 0 → c.newPa < 2 ^ 48 → s.apart c.ctx (c.newPa + 256 * d.rlo) (256 * (d.rhi - d.rlo)) →
    c.moving = true ∨ s.pinned c.ctx d = false →
    ∃ t d', exec (.compactionComplete die) s = .next t ∧ (t.die die).compactions = cs ∧
      Completes s t (s.dirCounter c.ctx c.ctr) 0 ∧ Swapped s t c.ctx [d.vbase] [d'] ∧
      (∀ o, (s.core o).ctx = some c.ctx → (t.core o).rtab =
        (s.core o).rtab.map (fun x => if x.desc.vbase = d.vbase then { x with desc := d' } else x)) ∧
      d' = { d with st := 0, off := d'.off } ∧ d'.pa d.vbase = c.newPa ∧
      ∀ i, i < 256 * (d.rhi - d.rlo) → t.byte (c.newPa + 256 * d.rlo + i) = s.byte (d.pa d.vbase + 256 * d.rlo + i) ∧
        t.poisoned (c.newPa + 256 * d.rlo + i) = s.poisoned (d.pa d.vbase + 256 * d.rlo + i)) ∧
  (∀ (s : State) (die : Nat) (c : Compaction) (cs : List Compaction) (d : Desc), (s.die die).compactions = c :: cs →
    s.dirFind c.ctx c.vbase = some d → c.vbase < 2 ^ 52 → (c.moving = false ∧ s.pinned c.ctx d = true) ∨ s.quiet c.ctx d = false →
    exec (.compactionComplete die) s = .next s)

/-- R199, R200, R249, R300, R301 and Table 9.11: a posted parcel leaves once it is unpinned, unused and quiet; it is deleted when the
destination accepts and returned with 0xB8 when it refuses; a parcel that arrives is placed at the lowest free address of the window,
or refused; and its range becomes normal, with the message, when its bytes have been written. -/
def Obligations.Parcels : Prop :=
  (∀ (s : State) (n : Nat) (x : Xfer) (d : Desc), s.xfers[n]? = some x → x.vbase < 2 ^ 52 → s.dirFind x.ctx x.vbase = some d →
    s.dirOrdered x.ctx → s.dirN x.ctx ≤ 65536 →
    (x.inTransit = false → s.pinned x.ctx d = false → s.jobsOn x.ctx d = false → s.quiet x.ctx d = true →
      ∃ t, exec (.parcelPurgeComplete n) s = .next t ∧ Swapped s t x.ctx [d.vbase] [{ d with st := 3 }] ∧ Purged t x.ctx [d.vbase] ∧
        t.xfers[n]? = some { x with inTransit := true } ∧ ∀ k sl, t.slot x.core k = some sl → x.vbase ∉ sl.posted) ∧
    (s.pinned x.ctx d = true ∨ s.jobsOn x.ctx d = true ∨ s.quiet x.ctx d = false → exec (.parcelPurgeComplete n) s = .next s) ∧
    (x.inTransit = true → (x.dest.toNat / 2 ^ 13 % 2 ^ 15 ≠ s.mgmt.devnum.toNat ∨ x.answer = 1) →
      ∃ t, exec (.parcelAccepted n) s = .next t ∧ Swapped s t x.ctx [d.vbase] [] ∧ t.xfers = s.xfers.eraseIdx n ∧
        Completes s t (s.dirCounter x.ctx x.ctr) 0) ∧
    (x.inTransit = true → (x.dest.toNat / 2 ^ 13 % 2 ^ 15 ≠ s.mgmt.devnum.toNat ∨ x.answer = 2) →
      ∃ t, exec (.parcelReturned n) s = .next t ∧ Swapped s t x.ctx [d.vbase] [{ d with st := 5 }] ∧ t.xfers = s.xfers.eraseIdx n ∧
        Completes s t (s.dirCounter x.ctx x.ctr) 0xB8)) ∧
  (∀ (s : State) (p : ParcelIn) (k : Nat), p.srcDev ≠ s.mgmt.devnum → (s.core p.core).ctx = some k → s.dirOrdered k →
    let h := s.hte p.core p.chan
    let x := s.ctx k
    let n := 256 * p.units
    let fits (a : Nat) : Prop := x.parcBase.toNat ≤ a ∧ a + n ≤ x.parcBase.toNat + x.parcSize.toNat ∧
      ∀ d ∈ s.dir k, a + n ≤ d.vbase ∨ d.limit ≤ a
    let takes : Prop := p.core < 8192 ∧ h.v = true ∧ h.cls = false ∧
      ((h.gw = true ∧ h.ctxs.getLsbD p.srcCtx = true) ∨ k = p.srcCtx) ∧ s.dirN k < 65536 ∧
      x.parcSize ≠ 0 ∧ s.phLo k ≤ s.arrPa k ∧ s.arrPa k + x.parcSize.toNat ≤ s.phHi k
    (¬ takes ∨ (∀ a, ¬ fits a) → 1 ≤ p.units → exec (.parcelPlacement p) s = .next s) ∧
    (takes → ∀ b, fits b → 1 ≤ p.units → p.units < 2 ^ 32 → x.parcBase.toNat % 256 = 0 → k < 64 → x.parcBase.toNat + x.parcSize.toNat ≤ 2 ^ 52 →
      ∃ t a d, exec (.parcelPlacement p) s = .next t ∧ fits a ∧ (∀ b, fits b → a ≤ b) ∧ a % 256 = 0 ∧ Swapped s t k [] [d] ∧
        t.arrivals = s.arrivals ++ [{ ctx := k, vbase := a, p := p }] ∧ d.vbase = a ∧ d.size = p.units ∧ d.st = 4 ∧ d.pcl = true ∧
        d.perm = p.perm ∧ d.fmt = p.fmt ∧ d.geo = p.geo ∧ d.rlo = 0 ∧ d.rhi = p.units ∧
        d.pa a = s.arrPa k + (a - x.parcBase.toNat))) ∧
  (∀ (s : State) (n : Nat) (x : Arrival) (d : Desc), s.arrivals[n]? = some x → x.vbase < 2 ^ 52 → s.dirFind x.ctx x.vbase = some d →
    s.dirOrdered x.ctx → s.dirN x.ctx ≤ 65536 → s.apart x.ctx (d.pa d.vbase + x.p.lo) x.p.body.length →
    let die := coreDie (s.ctx x.ctx).sup
    ∃ t, exec (.parcelArrivalComplete n) s = .next t ∧ t.arrivals = s.arrivals.eraseIdx n ∧
      Swapped s t x.ctx [d.vbase] [{ d with st := 0 }] ∧
      (∀ i, i < x.p.body.length → t.byte (d.pa d.vbase + x.p.lo + i) = x.p.body.getD i 0) ∧
      t.flight = s.flight ++ [sentBy 8192 0 { dst := BitVec.ofNat 13 x.p.core, chan := BitVec.ofNat 6 x.p.chan, ctx := BitVec.ofNat 8 x.ctx, src := BitVec.ofNat 13 x.p.srcCore, body := [BitVec.ofNat 64 x.vbase, BitVec.ofNat 64 (256 * x.p.units), BitVec.ofNat 64 x.p.oldHandle, (x.p.dstWord &&& ~~~(0x7FFF#64 <<< 13)) ||| (x.p.srcDev.setWidth 64 <<< 13)] } (Sparse.get 0 (s.die die).unitMid unitWalker)])

/-- R239, R289, R295, R308 to R310, R314 to R316, R318, R319, R331 and R335: what befalls the units of the device. A peer's access, a
stream cell's store among them, is performed where the directory of its context, with G, lets every granule of it, then its cell is
acknowledged, with a reply that carries its result or its fault; a word found uncorrectable by an access or by a due sweep is poisoned, or
spoils the counter, wait, task or message it lies in, with one record in the ring of its owner, and the unit reports what Table 16.3 gives
to a unit; a failed check replays the instruction twice and then aborts the span, and the core that fails by it aborts those of its other
slots; the audit repairs permits and fabric credits; a core is mapped to its block's spare or lost; a Saddle lane is replaced twice at
most; the clock steps between 8 and 16 sixteenths. The model's choices: the clock event's step (log 29), CAUSE of error records (log 78),
what a failing core's spans do (log 81), what mapping and losing a core leave (log 82), the levels of errors without one (log 110) and
SRC, PC and INFO of unit records (log 111). -/
def Obligations.UnitEvents : Prop :=
  (∀ (s : State) (p : PeerAccess) (need : BitVec 8) (key : Nat → Nat),
    let ext := peerExtent p
    (∀ i, i < max 1 ext.2 → s.dirTranslate p.ctx (ext.1 + i) (need ||| permG) = .ok (key i) ∧ paClass (key i) ≠ .peer ∧
      s.poisoned (key i) = false) →
    (s.peer p.dev.toNat).holds p.eseq 1 = true → (s.peer p.dev.toNat).holds p.eseq 3 = false →
    let value (n : Nat) : Nat := littleEndian (fun j => s.byte (key j)) n
    let read : PeerAnswer := .data ((List.range ext.2).map (fun j => s.byte (key j)))
    let performs (a : PeerAnswer) (bs : List (Nat × Byte)) : Prop := ∃ t, exec (.peerAccessArrival p) s = .next t ∧ Written s t bs ∧
      PeerTaken s t p 1 (if p.posted then none else some a)
    let leaves : Prop := ∃ t, exec (.peerAccessArrival p) s = .next t ∧ SameMem s t ∧ PeerTaken s t p 1 (if p.posted then none else some read)
    let puts (n v : Nat) : Prop := performs read ((List.range n).map (fun j => (key j, BitVec.ofNat 8 (v / 256 ^ j))))
    (∀ n, p.op = .load n → need = permR → leaves) ∧
    (∀ bs, p.op = .store bs → need = permW → performs .done (bs.zipIdx.map (fun b => (key b.2, b.1)))) ∧
    (∀ n b, p.op = .atom .add n b → need = permAtom → n = 4 ∨ n = 8 → puts n (value n + b.toNat)) ∧
    (∀ n c v, p.op = .cas n c v → need = permAtom → n = 4 ∨ n = 8 →
      (value n = c.toNat % 2 ^ (8 * n) → puts n v.toNat) ∧ (value n ≠ c.toNat % 2 ^ (8 * n) → leaves)) ∧
    (∀ parts, p.op = .region parts → need = permAtom →
      performs read (parts.flatMap (fun r => match r.bytes with
        | some bs => bs.zipIdx.map (fun b => (key ((r.va % 128 + b.2) % 128), b.1))
        | none => [])))) ∧
  (∀ (s : State) (p : PeerAccess) (bs : List Byte) (key : Nat → Nat), p.op = .store bs → p.posted = true →
    (∀ i, i < max 1 bs.length → s.dirTranslate p.ctx (p.va + i) (permW ||| permG) = .ok (key i) ∧ paClass (key i) ≠ .peer ∧
      s.poisoned (key i) = false) →
    (s.peer p.dev.toNat).holds p.eseq 3 = true →
    ∃ t, exec (.peerAccessArrival p) s = .next t ∧ Written s t (bs.zipIdx.map (fun b => (key b.2, b.1))) ∧ PeerTaken s t p 3 none) ∧
  (∀ (s : State) (p : PeerAccess) (need : BitVec 8) (c : Cause) (i : Nat), i < max 1 (peerExtent p).2 →
    (∀ j, j < i → ∃ key, s.dirTranslate p.ctx ((peerExtent p).1 + j) (need ||| permG) = .ok key ∧ paClass key ≠ .peer) →
    s.dirTranslate p.ctx ((peerExtent p).1 + i) (need ||| permG) = .fault c →
    (s.peer p.dev.toNat).holds p.eseq 1 = true → (s.peer p.dev.toNat).holds p.eseq 3 = false →
    ((∃ n, p.op = .load n) ∧ need = permR ∨ (∃ bs, p.op = .store bs) ∧ need = permW ∨
      ((∃ o n b, p.op = .atom o n b) ∨ (∃ n c v, p.op = .cas n c v) ∨ ∃ ps, p.op = .region ps) ∧ need = permAtom) →
    ∃ t, exec (.peerAccessArrival p) s = .next t ∧ SameMem s t ∧
      PeerTaken s t p 1 (some (.fault (BitVec.ofNat 16 c.code) ((peerExtent p).1 + i)))) ∧
  (∀ (s : State) (p : PeerAccess), (s.peer p.dev.toNat).holds p.eseq 1 = false → (s.peer p.dev.toNat).holds p.eseq 3 = false →
    exec (.peerAccessArrival p) s = .next s) ∧
  (∀ (s : State) (k key kind : Nat) (f : Sweep), key < 0x006000000000 →
    let owner := s.hbmOwner key
    let die := homeDie key
    (s.findsOne k (.poisonWord 3 key) 3 f kind →
      (s.poisoned key = true → ∃ t, exec (.scrubSweep k f) s = .next t ∧ SameMem s t ∧ t.dies = s.dies ∧
        t.ringOf owner 3 = s.ringOf owner 3) ∧
      (s.poisoned key = false → ∃ t, exec (.scrubSweep k f) s = .next t ∧
        (∀ a, t.poisoned a = (decide (a / 8 = key / 8) || s.poisoned a)) ∧
        Sparse.get 0 (t.die die).unfixed 3 = Sparse.get 0 (s.die die).unfixed 3 + 1 ∧ t.mgmt.health = s.mgmt.health ||| 0x21 ∧
        Ringed (s.ringOf owner 3) (t.ringOf owner 3) 3 kind 0x0302 5 die die (BitVec.ofNat 64 key) s.cycle)) ∧
    (s.findsOne k (.corrected 3 key) 3 f kind → ∃ t, exec (.scrubSweep k f) s = .next t ∧ SameMem s t ∧
      Sparse.get 0 (t.die die).fixed 3 = Sparse.get 0 (s.die die).fixed 3 + 1 ∧
      (.corrected 3 key ∉ s.mended none → (t.ringOf owner 3).recs = (s.ringOf owner 3).recs) ∧
      (.corrected 3 key ∈ s.mended none → Ringed (s.ringOf owner 3) (t.ringOf owner 3) 3 0 0 5 die die (BitVec.ofNat 64 key) s.cycle)) ∧
    (f.level = some 3 → s.sweepDue k 3 = false → exec (.scrubSweep k f) s = .next s)) ∧
  (∀ (s : State) (k cl i kind : Nat) (f : Sweep), cl < 512 → s.clusterOwner cl = some k →
    (s.findsOne k (.counter cl i) 2 f kind → i < 256 → ∃ t, exec (.scrubSweep k f) s = .next t ∧ SameMem s t ∧
      CounterIs s t (cl * 256 + i) { val := BitVec.allOnes 64, code := 0xFD } ∧
      UnitRecorded s t (cl / 64) (unitBank cl) k (s.ctx k).sup .counterUe (counterHandle (cl * 256 + i)) ∧
      Ringed (s.ringOf (some k) 2) (t.ringOf (some k) 2) 2 kind 0x050B 3 (cl / 64) (cl % 64) (BitVec.ofNat 64 i) s.cycle) ∧
    (∀ w, s.findsOne k (.waitBoth cl i) 2 f kind → i < 1024 → (s.cluster cl).waits.find? (fun w => decide (w.ent = i)) = some w →
      ∃ t m, exec (.scrubSweep k f) s = .next t ∧ SameMem s t ∧
        (t.cluster cl).waits = (s.cluster cl).waits.filter (fun w => decide (w.ent ≠ i)) ∧
        (t.die (cl / 64)).recs = (s.die (cl / 64)).recs ++ [m] ∧ m.2.dst = BitVec.ofNat 13 (s.ctx k).sup ∧
        (m.2.body.getD 0 0).extractLsb' 48 16 = 0x0609 ∧ m.2.body.getD 2 0 = BitVec.ofNat 64 (cl * 2 ^ 16 + i))) ∧
  (∀ (s : State) (die b i kind : Nat) (x : Task) (f : Sweep), (s.bank die b).tasks[i]? = some x →
    s.findsOne x.ctx (.task die b i true) 0 f kind →
    ∃ t, exec (.scrubSweep x.ctx f) s = .next t ∧ (t.bank die b).tasks = (s.bank die b).tasks.eraseIdx i ∧
      UnitRecorded s t die (unitQuince b) x.ctx x.src .taskLost x.cnt ∧
      Completes s t ((s.optCounter x.ctx x.cnt).getD none) 0xA5) ∧
  (∀ (s : State) (k c i kind : Nat) (m : Msg) (f : Sweep), (s.core c).ctx = some k → (s.core c).inbox[i]? = some m →
    s.findsOne k (.message c i) 0 f kind →
    ∃ t, exec (.scrubSweep k f) s = .next t ∧ SameMem s t ∧ (∀ c', c' ≠ c → t.core c' = s.core c') ∧
      t.core c = { s.core c with inbox := (s.core c).inbox.set i { m with bad := true } } ∧
      Ringed (s.ringOf (some k) 0) (t.ringOf (some k) 0) 0 1 0x0605 7 (coreDie c) c (BitVec.ofNat 64 i) s.cycle) ∧
  (∀ (s : State) (c k : Nat) (sl : Slot), s.slot c k = some sl →
    let owner := (s.core c).ctx
    let ringed (t : State) (kind code unit : Nat) : Prop :=
      Ringed (s.ringOf owner 0) (t.ringOf owner 0) 0 kind code unit (coreDie c) c 0 s.cycle
    (∀ kind, sl.hold = .parked ∨ (s.core c).failed = true → exec (.pipelineCheckFailure c k kind) s = .next s) ∧
    (sl.hold ≠ .parked → (s.core c).failed = false →
      (sl.hold = .drain → exec (.pipelineCheckFailure c k .queue) s = .next s) ∧
      (sl.hold ≠ .drain → ∃ info u, exec (.pipelineCheckFailure c k .queue) s = .next (u.takeTrap c k sl.pc { cause := .queueUe, info := info }) ∧
        u.cores = s.cores ∧ SameMem s u ∧ ringed u 1 Cause.queueUe.code 8) ∧
      (sl.fails < 2 → ∃ t, exec (.pipelineCheckFailure c k .pipe) s = .next t ∧ OnlySlot s t c k ∧
        t.slot c k = some { sl with fails := sl.fails + 1 }) ∧
      (∀ kind cause n, (kind, cause, n) ∈ [(CheckKind.reg, Cause.regUe, 1), (CheckKind.pipe, Cause.pipeError, 3)] →
        (kind = .pipe → 2 ≤ sl.fails) →
        ∃ info t, exec (.pipelineCheckFailure c k kind) s = .next t ∧ SameMem s t ∧ ringed t n cause.code 1 ∧
          (∃ pre, pre ++ (t.core c).failTimes = (s.core c).failTimes ++ [s.cycle]) ∧
          (t.core c).failTimes.length = min 8 ((s.core c).failTimes.length + 1) ∧
          ((t.core c).failed = false → let u := s.takeTrap c k sl.pc { cause := cause, info := info }
            (∀ c', c' ≠ c → t.core c' = u.core c') ∧ t.core c = { u.core c with failTimes := (t.core c).failTimes }) ∧
          ((t.core c).failed = true → ∀ j sl', j < 8 → j ≠ k → t.slot c j = some sl' →
            sl'.hold = .parked ∨ sl'.stores = [] ∧ sl'.loads = [] ∧ sl'.journal = [])))) ∧
  (∀ (s : State) (die : Nat) (r : AuditRead), die < 8 →
    (r.snap = none → ∃ t, exec (.permitAudit die [r]) s = .next t ∧ SameMem s t ∧
      (r.drained = false → t = s.modDie die (fun x => { x with skipped := x.skipped + 1 })) ∧
      (r.drained = true → r.permits + r.free = r.size →
        Sparse.get {} (t.die die).mesh r.link = { permits := r.permits, free := r.free, size := r.size } ∧
        t.mgmt = s.mgmt ∧ (t.die die).repaired = (s.die die).repaired) ∧
      (r.drained = true → r.permits + r.free ≠ r.size →
        Sparse.get {} (t.die die).mesh r.link = { permits := r.free, free := r.free, size := r.size } ∧
        t.mgmt.health = s.mgmt.health ||| 0x40 ∧ (t.die die).repaired = (s.die die).repaired + 1 ∧
        Ringed (s.ringOf none 5) (t.ringOf none 5) 5 4 0 11 die r.link (BitVec.ofNat 64 r.link) s.cycle)) ∧
    (∀ held, r.snap = some held → r.link < 63 →
      let l := s.link r.link
      let out := l.flits ++ [.snapshot l.rxHeld]
      let whole : Prop := r.flit = flitOf (linkKey r.link false l.rxGen) 6 held r.flit.val
      let agree : Prop := ∀ v, v < 4 → four l.inFlight v = four held v
      ∃ t, exec (.permitAudit die [r]) s = .next t ∧ SameMem s t ∧
        (r.drained = false → t.link r.link = { l with flits := out } ∧ t.mgmt = s.mgmt ∧ (t.die die).skipped = (s.die die).skipped + 1) ∧
        (r.drained = true → ¬ whole → t.link r.link = { l with flits := out ++ [.nak l.rxNext] } ∧ t.mgmt = s.mgmt ∧ t.dies = s.dies) ∧
        (r.drained = true → whole → agree → t.link r.link = { l with flits := out } ∧ t.mgmt = s.mgmt ∧ t.dies = s.dies) ∧
        (r.drained = true → whole → ¬ agree → t.link r.link = { l with flits := out, inFlight := (List.range 4).map (four held) } ∧
          t.mgmt.health = s.mgmt.health ||| 0x40 ∧ (t.die die).repaired = (s.die die).repaired + 1 ∧
          Ringed (s.ringOf none 5) (t.ringOf none 5) 5 4 0 10 die r.link (BitVec.ofNat 64 r.link) s.cycle))) ∧
  (∀ (s : State) (c : Nat), c < 8192 → (s.core c).lost = false →
    let block := coreRow c / 8 * 4 + coreCol c / 8
    let free := block ∉ (s.die (coreDie c)).spares
    let settled : Prop := ∀ r ∈ (s.core c).spawns, r.released = false
    let maps (t : State) : Prop := (t.core c).mapped = true ∧ (t.core c).rtab = [] ∧
      (t.die (coreDie c)).spares = (s.die (coreDie c)).spares ++ [block] ∧ t.mgmt.health = s.mgmt.health ||| 0x03 ∧
      EventTold s t 0x8005 c
    let gone (t : State) : Prop := (t.core c).lost = true ∧ (t.core c).inbox = [] ∧
      (t.die (coreDie c)).lostCores = (s.die (coreDie c)).lostCores + 1 ∧ t.mgmt.health = s.mgmt.health ||| 0x04 ∧
      EventTold s t 0x8005 (2 ^ 63 + c)
    (free → (s.core c).ctx = none → ∃ t, exec (.coreMap c) s = .next t ∧ maps t ∧
      (settled → t.core c = { s.core c with rtab := [], failTimes := [], mapped := true })) ∧
    (∀ k, free → (s.core c).ctx = some k → (s.core c).failed = true → s.coreDrained c = true →
      s.cycle < (s.core c).failTimes.getLastD 0 + 35000 →
      ∃ t, exec (.coreMap c) s = .next t ∧ maps t ∧ Raised t c .coreMapped ∧ (settled → ∀ j, t.slot c j = s.slot c j)) ∧
    (¬ free → (s.core c).ctx = none → ∃ t, exec (.coreLost c) s = .next t ∧ gone t) ∧
    (∀ k, (s.core c).ctx = some k → (s.core c).failed = true →
      (¬ free ∨ (s.core c).failTimes.getLastD 0 + 35000 ≤ s.cycle) →
      ∃ t, exec (.coreLost c) s = .next t ∧ gone t ∧ (∀ j, j < 8 → t.slot c j = none) ∧ Raised t c .coreLost ∧
        ∀ m, (∀ j, s.slot c j = none) → (s.core c).inbox.filter (fun m => decide (m.area = 3)) = [m] →
          Completes s t ((s.optCounter k (m.body.getD 5 0)).getD none) 0xA5 ∧
          ∃ b, UnitRecorded s t (coreDie c) (unitQuince b) k c .taskLost (m.body.getD 5 0))) ∧
  (∀ (s : State) (x : Nat), x < 10 → Sparse.get 0 s.mgmt.saddles x < 2 →
    ∃ t, exec (.saddleLaneReplace x) s = .next t ∧ Sparse.get 0 t.mgmt.saddles x = Sparse.get 0 s.mgmt.saddles x + 1 ∧
      (∀ y, y ≠ x → Sparse.get 0 t.mgmt.saddles y = Sparse.get 0 s.mgmt.saddles y) ∧ t.mgmt.health = s.mgmt.health ||| 0x01) ∧
  (∀ (s : State) (die : Nat), die < 8 →
    let k := (s.die die).clock
    (8 < k → k ≤ 16 → ∃ t, exec (.thermalThrottle die false) s = .next t ∧ (t.die die).clock = k - 1 ∧
      EventTold s t 0x8006 ((17 - k) * 2 ^ 8 + die)) ∧
    (k < 16 → ∃ t, exec (.thermalThrottle die true) s = .next t ∧ (t.die die).clock = k + 1 ∧
      EventTold s t 0x8006 (2 ^ 63 + (15 - k) * 2 ^ 8 + die)) ∧
    (k ≤ 8 → exec (.thermalThrottle die false) s = .next s))

/-- R279 to R283, R302 to R304, R307, R327 to R329, R331 to R334: a link trains under a new key, divides its receive buffer every 1,024
cycles by what each VC received, falling limits at once and rising ones within the buffer, sends one cell a frame slot, with the flits
that wait, under its current key, and checks a received cell in order: CRC, tag, LSEQ; the first two failing ask for a replay. A cell for
this device is acknowledged again when it has been performed, else handed to its performing point; a key is agreed with a KIND 6 cell each
way and used from the next slot on; a control flit that is not whole is asked for again (log 127); the link narrows and goes down. The
model's choices: order and rounding of lent cells (log 84), limits at training (log 85), how a key is agreed and when the previous one
goes (logs 86 and 116), replay over a retrained link (logs 91 and 93), the flags and events of a restripe and a retrain (logs 92 and 94),
and which flits an acknowledgement covers (log 127). -/
def Obligations.Links : Prop :=
  (∀ (s : State) (n : Nat), n < 63 → (s.link n).st ≠ 2 → (s.link n).st ≠ 3 → s.mgmt.leaf < 2 ^ 20 →
    s.mgmt.measured = true → s.mgmt.tested = true → s.mgmt.devWritten = true →
    let old := s.link n
    ∃ t l, exec (.linkTraining n) s = .next t ∧ LinkIs s t n l ∧ l.st = 2 ∧ l.mask = 0xFFFF ∧ l.darkMask = 0 ∧ l.kg = !old.kg ∧
      l.gen = old.gen + 1 ∧ l.rxKg = !old.rxKg ∧ l.rxGen = old.rxGen + 1 ∧ l.rxPrev = none ∧
      l.limit = [0, 0, 0, 0] ∧ l.replay = old.replay ∧ l.resend = 0 ∧ l.inFlight = old.inFlight ∧
      (∃ k : Cell, l.own = old.own ++ [k] ∧ k.kind = 6 ∧ k.vc = 3) ∧ (∃ fs, l.flits = old.flits ++ fs ∧ ∀ f ∈ fs, f.isLimit = true) ∧
      ((∀ v, v < 4 → four old.rxHeld v = 0) → l.rxLimit = List.replicate 4 (bufferOf n / 4)) ∧
      (let held (v : Nat) := max (four l.rxLimit v) (four old.rxHeld v)
       four old.rxHeld 0 + four old.rxHeld 1 + four old.rxHeld 2 + four old.rxHeld 3 ≤ bufferOf n →
        held 0 + held 1 + held 2 + held 3 ≤ bufferOf n) ∧
      t.mgmt.leaf = s.mgmt.leaf + 1 ∧ EventTold s t 0x8003 n ∧
      (t.mgmt.linksUp = true ↔ s.mgmt.linksUp = true ∨ ∀ m, m < 63 → (t.link m).st = 2 ∨ (t.link m).st = 3)) ∧
  (∀ (s : State) (n : Nat), n < 63 → (s.link n).st = 2 ∨ (s.link n).st = 3 →
    let l := s.link n
    let B := bufferOf n
    (s.cycle < l.rxSince + 1024 → exec (.vcLimitRecompute n) s = .next s) ∧
    (l.rxCount.length = 4 → l.rxSince + 1024 ≤ s.cycle →
      let U := l.rxCount.sum
      let base (v : Nat) := 2 + (B - 8) * four l.rxCount v / U
      let held (lim : List Nat) (v : Nat) := max (four lim v) (four l.rxHeld v)
      ∃ t m, exec (.vcLimitRecompute n) s = .next t ∧ LinkIs s t n m ∧ SameMem s t ∧ m.rxCount = [0, 0, 0, 0] ∧ m.rxSince = s.cycle ∧
        m.rxTarget.length = 4 ∧ m.rxTarget.sum = B ∧
        m.flits = l.flits ++ ((List.range 4).filter (fun v => decide (four m.rxLimit v ≠ four l.rxLimit v))).map (fun v =>
          .limit v (four m.rxLimit v)) ∧
        (∀ v, v < 4 → 2 ≤ four m.rxTarget v ∧ (U = 0 → four m.rxTarget v = B / 4) ∧
          (U ≠ 0 → four m.rxTarget v = base v ∨ four m.rxTarget v = base v + 1) ∧
          (four m.rxTarget v ≤ four l.rxLimit v → four m.rxLimit v = four m.rxTarget v) ∧
          (four l.rxLimit v < four m.rxTarget v → four l.rxLimit v ≤ four m.rxLimit v ∧ four m.rxLimit v ≤ four m.rxTarget v)) ∧
        (∀ v w, v < 4 → w < 4 → U ≠ 0 → (four l.rxCount w < four l.rxCount v ∨ four l.rxCount w = four l.rxCount v ∧ v < w) →
          four m.rxTarget w = base w + 1 → four m.rxTarget v = base v + 1) ∧
        (held l.rxLimit 0 + held l.rxLimit 1 + held l.rxLimit 2 + held l.rxLimit 3 ≤ B →
          held m.rxLimit 0 + held m.rxLimit 1 + held m.rxLimit 2 + held m.rxLimit 3 ≤ B)) ∧
    (∀ v f, v < 4 → (s.wholeFlit n 4 [v] f → ∃ t, exec (.creditLimitFlit n v f) s = .next t ∧
        LinkIs s t n { l with limit := l.limit.set v f.val }) ∧
      (¬ s.wholeFlit n 4 [v] f → ∃ t, exec (.creditLimitFlit n v f) s = .next t ∧ LinkIs s t n { l with flits := l.flits ++ [.nak l.rxNext] })) ∧
    (∀ f, f.val < 4 → s.wholeFlit n 3 [] f → ∃ t m, exec (.fabricCreditReturn n f) s = .next t ∧ LinkIs s t n m ∧
      m = { l with inFlight := m.inFlight } ∧
      ∀ w, four m.inFlight w = if w = f.val then four l.inFlight w - 1 else four l.inFlight w) ∧
    (∀ f i c, l.replay[i]? = some c → c.lseq.toNat = f.val → (∀ j d, j < i → l.replay[j]? = some d → d.lseq ≠ c.lseq) →
      (s.wholeFlit n 2 [] f → ∃ t fs, exec (.nakReceive n f) s = .next t ∧ List.Sublist fs l.unsure ∧
        LinkIs s t n { l with resend := i, flits := fs ++ l.flits, unsure := [] }) ∧
      (s.wholeFlit n 1 [] f → ∃ t, exec (.linkAckReceive n f) s = .next t ∧ LinkIs s t n { l with
        replay := l.replay.drop (i + 1), resend := l.resend - (i + 1), unsure := [] })) ∧
    (∀ f i, (¬ s.wholeFlit n 3 [] f ∧ i = .fabricCreditReturn n f ∨ ¬ s.wholeFlit n 2 [] f ∧ i = .nakReceive n f ∨
      ¬ s.wholeFlit n 1 [] f ∧ i = .linkAckReceive n f ∨ 31 ≤ n ∧ ¬ s.wholeFlit n 5 [] f ∧ i = .restripeFlit n f) →
      ∃ t, exec i s = .next t ∧ LinkIs s t n { l with flits := l.flits ++ [.nak l.rxNext] }) ∧
    (l.frame = 0 → ∃ t, exec (.frameSlotSend n) s = .next t ∧ (t.link n).frame = 1 ∧
      (∀ r, l.newResv = some r → (t.link n).resv = r ∧ (t.link n).newResv = none) ∧
      (∀ m, l.newMask = some m → (t.link n).mask = m ∧ (t.link n).st = 3 ∧ (t.link n).newMask = none ∧
        t.mgmt.health = s.mgmt.health ||| 0x09 ∧ EventTold s t 0x8001 (n + m.toNat * 2 ^ 16) ∧
        (l.replay ≠ [] → (t.link n).resend = 1))) ∧
    (l.frame ≠ 0 → (∀ e ∈ s.fab.out, e.1 ≤ 63) →
      let kg := if l.agreed then !l.kg else l.kg
      let gen := if l.agreed then l.gen + 1 else l.gen
      let ws := s.waitingFor n
      ∃ t, exec (.frameSlotSend n) s = .next t ∧ SameMem s t ∧ (t.link n).frame = (l.frame + 1) % 64 ∧
      (t.link n).txc = l.txc + 1 ∧ (t.link n).kg = kg ∧ (t.link n).gen = gen ∧ (t.link n).agreed = false ∧ (t.link n).unsure = l.unsure ++ l.flits ∧
      (t.link n).sentFlits = l.flits.map (fun f => (f, flitOf (linkKey n true gen) f.parts.1 f.parts.2.1 f.parts.2.2)) ∧
      (let carries (c : Cell) : Prop := (t.link n).wire =
         cellBytes (linkKey n true gen) (linkNonce n true l.txc) { c with kg := kg, txc := BitVec.ofNat 16 l.txc }
       (∀ c, l.replay[l.resend]? = some c → t.fab.out = s.fab.out ∧ (t.link n).own = l.own ∧ (t.link n).resend = l.resend + 1 ∧ carries c ∧
        (t.link n).flits = [] ∧ (t.link n).replay = l.replay.set l.resend { c with kg := kg, txc := BitVec.ofNat 16 l.txc }) ∧
      (l.replay.length ≤ l.resend → 256 ≤ l.replay.length ∨ (∀ e ∈ ws, ¬ s.maySend n e) →
        t.fab.out = s.fab.out ∧ (t.link n).own = l.own ∧ (t.link n).replay = l.replay ∧ (t.link n).lseq = l.lseq ∧
        (t.link n).flits = [] ∧ carries { sdev := s.mgmt.devnum }) ∧
      (l.replay.length ≤ l.resend → l.replay.length < 256 → (∃ e ∈ ws, s.maySend n e) →
        ∃ (i : Nat) (e : Nat × Cell), ws[i]? = some e ∧ s.maySend n e ∧ t.waitingFor n = ws.eraseIdx i ∧
          (t.link n).lseq = (l.lseq + 1) % 4096 ∧ (t.link n).resend = l.replay.length + 1 ∧
          (t.link n).replay = l.replay ++
            [{ e.2 with lseq := BitVec.ofNat 12 l.lseq, kg := kg, txc := BitVec.ofNat 16 l.txc }] ∧
          carries { e.2 with lseq := BitVec.ofNat 12 l.lseq } ∧
          (l.inFlight.length = 4 → four (t.link n).inFlight e.2.vc.toNat = four l.inFlight e.2.vc.toNat + 1) ∧
          (e.1 < 63 → ∃ fs, (t.link e.1).flits = (if e.1 = n then [] else (s.link e.1).flits) ++ .credit e.2.vc.toNat :: fs ∧
            ∀ v, four (t.link e.1).rxHeld v = if v = e.2.vc.toNat then four (s.link e.1).rxHeld v - 1 else four (s.link e.1).rxHeld v) ∧
          (e.1 = 63 → 1 ≤ e.2.kind.toNat → e.2.kind.toNat ≤ 3 → (t.peer e.2.ddev.toNat).kept = (s.peer e.2.ddev.toNat).kept.map (fun x =>
            if x.cell.eseq = e.2.eseq then { x with sends := x.sends + 1, last := s.cycle } else x)) ∧
          (let r := Sparse.get 0 l.resv l.frame
           (names r e.2 ∧ (t.link n).lastVc = l.lastVc ∧
              (∀ j f, j < i → ws[j]? = some f → s.maySend n f → ¬ names r f.2)) ∨
           ((∀ f ∈ ws, s.maySend n f → ¬ names r f.2) ∧ (t.link n).lastVc = e.2.vc.toNat ∧
              (∀ f ∈ ws, s.maySend n f → behind l.lastVc e.2.vc.toNat ≤ behind l.lastVc f.2.vc.toNat) ∧
              (∀ j f, j < i → ws[j]? = some f → s.maySend n f → f.2.vc ≠ e.2.vc)))))) ∧
    (∀ head payload tail, let crc := crcGood head payload tail
      crc = false ∨ l.authentic n head payload tail = false → ∃ t m, exec (.cellReceive n head payload tail) s = .next t ∧ SameMem s t ∧
      LinkIs s t n m ∧ t.fab.out = s.fab.out ∧ m = { l with
        authFails := if crc then l.authFails + 1 else l.authFails, authLog := m.authLog, rxPrev := l.rxPrev.map (· - 1)
        flits := l.flits ++ [.nak l.rxNext] } ∧
      ∃ pre, pre ++ m.authLog = l.authLog ++ [crc] ∧ m.authLog.length = min 1024 (l.authLog.length + 1)) ∧
    (∀ head payload tail, crcGood head payload tail = true → l.authentic n head payload tail = true →
      let c := l.opened n head payload
      let changes : Prop := l.rxNew = true ∧ l.rxPrev = none ∧ c.kg ≠ l.rxKg
      ∃ t, exec (.cellReceive n head payload tail) s = .next t ∧ SameMem s t ∧
      (t.link n).rxTxc = fullTxc l.rxTxc c.txc.toNat + 1 ∧
      (changes → (t.link n).rxKg = c.kg ∧ (t.link n).rxGen = l.rxGen + 1 ∧ (t.link n).rxPrev = some 8192) ∧
      (¬ changes → (t.link n).rxKg = l.rxKg ∧ (t.link n).rxGen = l.rxGen ∧ (t.link n).rxPrev = l.rxPrev.map (· - 1)) ∧
      (c.kind = 0 ∨ c.lseq.toNat ≠ l.rxNext → t.fab.out = s.fab.out ∧ (t.link n).rxNext = l.rxNext ∧ t.fab.peers = s.fab.peers ∧
        (t.link n).flits = l.flits) ∧
      (c.kind ≠ 0 → c.lseq.toNat = l.rxNext → (t.link n).rxNext = (l.rxNext + 1) % 4096 ∧
        (let answers (fs : List Flit) : Prop := (t.link n).flits = l.flits ++ .ack c.lseq.toNat :: fs
         let freed : Prop := answers [.credit c.vc.toNat]
         let dropped : Prop := freed ∧ t.fab.out = s.fab.out ∧ t.fab.discarded = s.fab.discarded + 1
        (8 ≤ c.kind.toNat → dropped) ∧
        (c.kind = 6 → l.rxHello = true → freed ∧ (t.link n).rxHello = false ∧ (¬ changes → (t.link n).rxNew = l.rxNew) ∧
          (t.link n).asked = l.asked) ∧
        (c.kind = 6 → l.rxHello = false → freed ∧ t.fab.out = s.fab.out ∧
          (l.asked = true → (t.link n).agreed = true ∧ (t.link n).asked = false ∨ (t.link n).asked = true) ∧
          (l.asked = false → l.rxPrev ≠ none ∨ l.rxNew = true → (t.link n).rxOwed = true) ∧
          (l.asked = false → l.rxPrev = none → l.rxNew = false → s.mgmt.leaf < 2 ^ 20 → (t.link n).rxNew = true ∧
            t.mgmt.leaf = s.mgmt.leaf + 1 ∧ ∃ k : Cell, (t.link n).own = l.own ++ [k] ∧ k.kind = 6 ∧ k.vc = 3)) ∧
        (c.kind.toNat < 8 → c.kind ≠ 6 → c.ddev ≠ s.mgmt.devnum → c.hops = 3 ∨ s.routeOf c.ddev.toNat = none → dropped) ∧
        (c.kind.toNat < 8 → c.kind ≠ 6 → c.ddev ≠ s.mgmt.devnum → c.hops ≠ 3 → s.routeOf c.ddev.toNat ≠ none →
          answers [] ∧ t.fab.out = s.fab.out ++ [(n, { c with hops := c.hops + 1 })] ∧ t.fab.discarded = s.fab.discarded ∧
          (l.rxHeld.length = 4 → four (t.link n).rxHeld c.vc.toNat = four l.rxHeld c.vc.toNat + 1)) ∧
        (c.ddev = s.mgmt.devnum → 1 ≤ c.kind.toNat → c.kind.toNat ≤ 3 → freed ∧
          let p := s.peer c.sdev.toNat
          let e := c.eseq.toNat
          let nothing : Prop := t.fab.out = s.fab.out ∧ t.fab.peers = s.fab.peers
          (p.resetting = true → nothing) ∧
          (p.resetting = false →
          (e ≤ p.h ∨ e ∈ p.map → (∃ x ∈ p.handed, x.1 = e) → nothing) ∧
          (e ≤ p.h ∨ e ∈ p.map → (∀ x ∈ p.handed, x.1 ≠ e) → AckSent s t c.sdev ∧ t.fab.peers = s.fab.peers) ∧
          (p.h < e → e ≤ p.h + 4096 → e ∉ p.map → (∀ m ∈ p.map, p.h < m ∧ m ≤ p.h + 4096) → t.fab.out = s.fab.out ∧
            let q := t.peer c.sdev.toNat
            q.handed = p.handed ++ [(e, c.kind.toNat)] ∧
            (∀ m, m ≤ q.h ∨ m ∈ q.map ↔ m = e ∨ m ≤ p.h ∨ m ∈ p.map) ∧ q.h + 1 ∉ q.map) ∧
          (p.h + 4096 < e → e ∉ p.map → nothing)))))) ∧
    (s.mgmt.leaf < 2 ^ 20 → (2 ^ 32 ≤ l.genCells ∨ l.rekey = true) → l.asked = false → l.agreed = false →
      ∃ t k, exec (.keyChangeStart n) s = .next t ∧ t.mgmt.leaf = s.mgmt.leaf + 1 ∧ k.kind = 6 ∧ k.vc = 3 ∧
        LinkIs s t n { l with own := l.own ++ [k], asked := true, rekey := false }) ∧
    (2 ^ 20 ≤ s.mgmt.leaf ∨ (l.genCells < 2 ^ 32 ∧ l.rekey = false) ∨ l.asked = true ∨ l.agreed = true →
      exec (.keyChangeStart n) s = .next s) ∧
    (l.rxPrev = some 0 →
      (l.rxOwed = false → ∃ t, exec (.previousKeyDiscard n) s = .next t ∧ LinkIs s t n { l with rxPrev := none }) ∧
      (l.rxOwed = true → s.mgmt.leaf < 2 ^ 20 → ∃ t k, exec (.previousKeyDiscard n) s = .next t ∧ t.mgmt.leaf = s.mgmt.leaf + 1 ∧
        k.kind = 6 ∧ k.vc = 3 ∧ LinkIs s t n { l with rxPrev := none, rxNew := true, rxOwed := false, own := l.own ++ [k] })) ∧
    (l.rxPrev ≠ some 0 → exec (.previousKeyDiscard n) s = .next s) ∧
    (16 ≤ l.authLog.count true → ∃ t, exec (.authFailureRetrain n) s = .next t ∧
      LinkIs s t n { l with st := 1, authLog := [] }) ∧
    (l.authLog.count true < 16 → exec (.authFailureRetrain n) s = .next s) ∧
    (∀ w, 31 ≤ n → w < 16 → ∃ (t : State) (dark : BitVec 16), exec (.wavelengthDark n w) s = .next t ∧
      (∀ j, j < 16 → dark.getLsbD j = (decide (j = w) || l.darkMask.getLsbD j)) ∧
      (dark ≠ 0xFFFF → LinkIs s t n { l with darkMask := dark, flits := l.flits ++ [.restripe (~~~dark)] }) ∧
      (dark = 0xFFFF → WentDown s t n)) ∧
    (∀ f, 31 ≤ n → s.wholeFlit n 5 [] f → let m := BitVec.ofNat 16 f.val &&& l.mask
      (m ≠ 0 → ∃ t, exec (.restripeFlit n f) s = .next t ∧ LinkIs s t n { l with newMask := some m }) ∧
      (m = 0 → ∃ t, exec (.restripeFlit n f) s = .next t ∧ WentDown s t n)) ∧
    (∃ t, exec (.linkDown n) s = .next t ∧ WentDown s t n))

/-- R300, R312, R328 and R330 to R333: an end-to-end acknowledgement releases the kept cell and lets a waiting cell take its ESEQ, or
count as abandoned when it has no route; an expired cell is sent again up to 8 times, over a dead link in count alone; then every cell to
the device is given up with what hangs on it, and the path is closed until its reset, which a KIND 7 cell announces and which waits for
the replay buffers; the other end of a reset starts afresh and frees what was arriving; a sequence that has ended closes its path
likewise. The model's choices: a device without a route (log 89), both ends of a path reset (log 90), resends over a link that is down
(log 91), and how jobs and parcels end (logs 58 and 87). -/
def Obligations.Paths : Prop :=
  ∀ (s : State) (dev e : Nat),
    let p := s.peer dev
    let late (x : Kept) : Prop := x.last + s.mgmt.e2e ≤ s.cycle
    let up (n : Nat) : Prop := (s.link n).st = 2 ∨ (s.link n).st = 3
    let announces (t : State) : Prop := ∃ f ∈ t.fab.out, f.1 = 63 ∧ f.2.kind = 7 ∧ f.2.vc = 3 ∧ f.2.ddev = BitVec.ofNat 15 dev
    ((∀ x ∈ p.kept, x.cell.eseq.toNat ≠ e) → exec (.endToEndAckReceive dev e) s = .next s) ∧
    ((∃ x ∈ p.kept, x.cell.eseq.toNat = e) →
      let rest := p.kept.filter (fun x => decide (x.cell.eseq.toNat ≠ e))
      ∃ t, exec (.endToEndAckReceive dev e) s = .next t ∧ SameMem s t ∧
        (p.waiting = [] → t.peer dev = { p with kept := rest } ∧ t.fab.out = s.fab.out) ∧
        (∀ x, p.waiting = [x] → p.dead = false → p.next < 2 ^ 32 → p.kept.length ≤ 4096 →
          let c := { x.cell with eseq := BitVec.ofNat 32 p.next }
          let routed := (s.routeOf dev).isSome
          t.peer dev = { p with kept := rest ++ [{ x with cell := c, sends := 0, last := s.cycle, noRoute := !routed }], waiting := []
                                next := p.next + 1 } ∧
          t.fab.out = s.fab.out ++ if routed then [(63, c)] else [])) ∧
    (∀ x, p.kept.find? (fun x => decide (x.cell.eseq.toNat = e)) = some x → x.cell.ddev.toNat = dev →
      let also (f : Kept → Kept) : Prop := ∃ t, exec (.endToEndTimer dev e) s = .next t ∧ SameMem s t ∧ t.fab.out = s.fab.out ∧
        t.peer dev = { p with kept := p.kept.map (fun y => if y.cell.eseq = x.cell.eseq then f y else y) }
      (x.sends < 8 → late x → x.noRoute = false →
        (∀ n, s.routeOf dev = some n → up n → 1 ≤ x.sends → (63, x.cell) ∉ s.fab.out →
          ∃ t, exec (.endToEndTimer dev e) s = .next t ∧ t = { s with fab := { s.fab with out := s.fab.out ++ [(63, x.cell)] } }) ∧
        (∀ n, s.routeOf dev = some n → ¬ up n → also (fun y => { y with sends := y.sends + 1, last := s.cycle })) ∧
        (s.routeOf dev = none → also (fun y => { y with noRoute := true }))) ∧
      (8 ≤ x.sends ∨ ¬ late x ∨ x.noRoute = true ∨ (x.sends = 0 ∧ ∃ n, s.routeOf dev = some n ∧ up n) →
        exec (.endToEndTimer dev e) s = .next s)) ∧
    ((∃ x ∈ p.kept, x.noRoute = true ∨ (8 ≤ x.sends ∧ late x)) → ∃ t, exec (.pathAbandon dev) s = .next t ∧
      (t.peer dev).dead = true ∧ (t.peer dev).kept = [] ∧ EventTold s t 0x8004 dev ∧ announces t ∧
      (∀ f ∈ t.fab.out, f.1 = 63 → f.2.ddev.toNat = dev → f.2.kind.toNat = 0 ∨ 4 ≤ f.2.kind.toNat) ∧
      (∀ f ∈ s.fab.out, f.1 ≠ 63 ∨ f.2.ddev.toNat ≠ dev → f ∈ t.fab.out) ∧
      (∀ x ∈ p.kept, x.posted = true → (s.core x.core).ctx.isSome = true → ∃ m ∈ (t.core x.core).recs,
        (m.body.getD 0 0).extractLsb' 48 16 = 0x020B ∧ (m.body.getD 0 0).extractLsb' 44 4 = 4 ∧
        m.body.getD 2 0 = BitVec.ofNat 64 x.va) ∧
      (∀ c k sl l, s.slot c k = some sl → l ∈ sl.loads → s.awaits (s.coreCtx c) dev l = true →
        ∀ sl', t.slot c k = some sl' → ∀ y ∈ sl'.loads, y.id ≠ l.id) ∧
      (∀ d j w, d < 8 → j ∈ (t.die d).jobs → j.gone = none → j.sent = some w → ∀ x ∈ p.kept ++ p.waiting.filter (fun x => !x.posted),
        ¬ (x.core = j.core ∧ x.act = 0 ∧ x.ent = w.1)) ∧
      t.xfers = s.xfers.filter (fun x => !(x.inTransit && decide (x.dest.toNat / 2 ^ 13 % 2 ^ 15 = dev)))) ∧
    ((∀ x ∈ p.kept, x.noRoute = false ∧ (x.sends < 8 ∨ ¬ late x)) → exec (.pathAbandon dev) s = .next s) ∧
    (s.drainedTo dev = false ∨ (p.dead = false ∧ p.resetting = false) → exec (.pathReset dev) s = .next s) ∧
    (p.dead = true → p.resetting = false → s.drainedTo dev = true → p.waiting = [] →
      ∃ t, exec (.pathReset dev) s = .next t ∧ SameMem s t ∧ t.peer dev = { p with next := 1, dead := false }) ∧
    (p.dead = false → p.resetting = true → s.drainedTo dev = true →
      ∃ t, exec (.pathReset dev) s = .next t ∧ t.peer dev = { p with h := 0, map := [], resetting := false } ∧
        t.arrivals = s.arrivals.filter (fun a => decide (a.p.srcDev.toNat ≠ dev)) ∧
        ((∀ a ∈ s.arrivals, a.p.srcDev.toNat ≠ dev) → SameMem s t) ∧
        (∀ a d, s.arrivals.filter (fun a => decide (a.p.srcDev.toNat = dev)) = [a] → a.vbase < 2 ^ 52 →
          s.dirFind a.ctx a.vbase = some d → d.vbase = a.vbase → s.dirOrdered a.ctx → s.dirN a.ctx ≤ 65536 →
          Swapped s t a.ctx [d.vbase] [])) ∧
    (2 ^ 32 ≤ p.next → p.kept = [] → p.dead = false →
      ∃ t, exec (.eseqExhausted dev) s = .next t ∧ SameMem s t ∧ t.peer dev = { p with dead := true } ∧ announces t ∧ t.mgmt = s.mgmt) ∧
    (p.next < 2 ^ 32 ∨ p.kept ≠ [] ∨ p.dead = true → exec (.eseqExhausted dev) s = .next s)

/-- R44, R283, R291, R302, R305 to R307, R314, R315, R320, R321, R324 to R326, R328 and R334: each host command, which waits for those
before it, completes with its STATUS and result and with its effect; a launch before the bring-up gets 5 whatever its buffer, any other
command with a bad buffer 3; a launch that step 1 refuses changes no context; an entry of the command ring is read and decoded; host
register writes reach what Table 17.2 maps, and an offset without a register faults (the model's stop, log 32); power-on leaves the reset
state, the host's memory and the leaf index, and verifies and measures eleven images in order (SHAKE256: log 114). The model's choices:
ring numbering and entries (log 27), commands as acts of the agenda (log 69), the order of a launch's refusals and what `errlog` pops (log
70), reserved bits (log 73), what power-on keeps (log 77) and that the vendor key verifies all eleven images (log 128). -/
def Obligations.HostCommands : Prop :=
  (∀ (s : State) (h : HostCmd) (i : Instr),
    (i ∈ [.resync h] ∨ (∃ b, i = .launch h b) ∨ (∃ n, i = .attest h n) ∨ (∃ n, i = .capread h n) ∨ (∃ l k m, i = .errlog h l k m) ∨
      (∃ n r, i = .reserve h n r) ∨ (∃ n, i = .hbmscrub h n) ∨ (∃ n, i = .rekey h n) ∨ (∃ c ch cls k ws, i = .inject h c ch cls k ws) ∨
      (∃ k, i = .endctx h k)) →
    ((s.mgmt.waiting = none ∧ s.mgmt.cqh ≠ s.mgmt.cqt) ∨ (∃ j, s.mgmt.waiting = some j ∧ j ≠ i) → exec i s = .next s) ∧
    (s.cmdIdle → ¬ bufferOk h → (∀ b, i = .launch h b → s.mgmt.up = true) → ∃ t, exec i s = .next t ∧
      Answered s t { h with resLen := 0 } 3 [] ∧ t.cores = s.cores ∧ t.ctxs = s.ctxs ∧ t.fab = s.fab) ∧
    (∀ b, s.cmdIdle → i = .launch h b → s.mgmt.up = false → ∃ t, exec i s = .next t ∧ Answered s t h 5 [] ∧
      t.cores = s.cores ∧ t.ctxs = s.ctxs ∧ t.fab = s.fab)) ∧
  (∀ (s : State) (h : HostCmd), s.mayRun h →
    let done (i : Instr) (status : Nat) (res : List Byte) (also : State → Prop) : Prop :=
      ∃ t, exec i s = .next t ∧ Answered s t h status res ∧ also t
    let no (i : Instr) (status : Nat) : Prop := done i status [] (fun t => t.cores = s.cores ∧ t.ctxs = s.ctxs ∧ t.fab = s.fab)
    let up := s.mgmt.measured = true ∧ s.mgmt.tested = true ∧ s.mgmt.devWritten = true ∧ s.mgmt.linksUp = true
    (∀ b : LaunchBlock,
      (up → (s.ctx b.ctx).live = true → done (.launch h b) 4 (bytesOfWords [1]) (fun t => t.cores = s.cores ∧ t.ctxs = s.ctxs)) ∧
      (up → (s.ctx b.ctx).live = false → (∀ e ∈ b.preload, e.1 + e.2.2 ≤ 0x7F0000000000) →
        (s.launchOk b = false → done (.launch h b) 2 (bytesOfWords [1]) (fun t => t.cores = s.cores ∧ t.ctxs = s.ctxs)) ∧
        (s.launchOk b = true → done (.launch h b) 0 (bytesOfWords [0]) (fun t =>
          let x := t.ctx b.ctx
          x.live = true ∧ x.sup = b.sup ∧ x.part = b.part ∧ x.prog = b.prog ∧ x.flags = 0 ∧ x.oobaddr = 0 ∧ x.dbg = 0 ∧
          x.parcBase = 0 ∧ x.parcSize = 0 ∧ x.gangTo = 65536 ∧ x.grpTo = 65536 ∧ x.launches = (s.ctx b.ctx).launches + 1 ∧
          (∀ g, g < 256 → t.group b.ctx g = Sparse.get 0 b.groups g) ∧
          (∀ c, c < 8192 → b.coreSet.getLsbD c = true →
            let o := t.core c
            o.ctx = some b.ctx ∧ o.part = b.part ∧ o.inbox = [] ∧ o.selAge = 16 ∧ (∀ k, t.slot c k = none) ∧
            (∀ ch, ch < 64 → t.hte c ch = if c = b.sup ∧ Hte.v (Sparse.get 0 b.hteSup ch) = true then Sparse.get 0 b.hteSup ch
              else Sparse.get 0 b.hteAll ch) ∧
            (b.preload = [] → ∀ off, off < emergencyOff → t.byte (poolKey c off) = 0 ∧ t.poisoned (poolKey c off) = false)) ∧
          (∀ c, b.coreSet.getLsbD c = false → t.core c = s.core c) ∧
          (∀ n v code, b.counters = [(n, v, code)] → t.counter (n.toNat % 2 ^ 17) = { val := v, code := code }) ∧
          (∀ k i, i < 256 → k < 512 → b.coreSet.getLsbD (clusterCore k 0) = true →
            (∀ e ∈ b.counters, e.1.toNat % 2 ^ 17 ≠ k * 256 + i) → t.counter (k * 256 + i) = {}) ∧
          (∀ src dst n, b.preload = [(src, dst, n)] → dst + n ≤ 0x006000000000 → ∀ i, i < n →
            t.byte (dst + i) = s.byte (0x010000000000 + src + i) ∧ (dst % 8 = 0 → t.poisoned (dst + i) = false)) ∧
          (∀ x, b.tasks = [x] → x.target.toNat < 8192 → (s.bank (coreDie x.target.toNat) 0).tasks.length < 4096 →
            ∃ k : Task, (t.bank (coreDie x.target.toNat) 0).tasks = (s.bank (coreDie x.target.toNat) 0).tasks ++ [k] ∧
              k.target = x.target ∧ k.pc = x.pc ∧ k.args = x.args ∧ k.cnt = x.cnt ∧ k.prio = x.prio ∧ k.ctx = b.ctx))))) ∧
    (∃ t res, exec (.resync h) s = .next t ∧ Answered s t h 0 res ∧ res.length = 6208 ∧
      res.take 32 = bytesOfWords [0x4B585253, (0x4B58038400000000 : Word) ||| 0xB101, BitVec.ofNat 64 s.cycle, s.mgmt.health.setWidth 64] ∧
      t.mgmt.health = s.mgmt.health &&& 0xBF ∧ t.cores = s.cores ∧ t.ctxs = s.ctxs) ∧
    (∀ nonce : BitVec 256, s.mgmt.leaf < 2 ^ 20 → ∃ t key sig, exec (.attest h nonce) s = .next t ∧ key.length = 64 ∧ sig.length = 2820 ∧
      t.mgmt.leaf = s.mgmt.leaf + 1 ∧ t.cores = s.cores ∧ Answered s t h 0 (bytesOfWords [0x4B584154, (0x4B58038400000000 : Word) ||| 0xB101] ++
        (List.range 32).map (fun j => BitVec.ofNat 8 (nonce.toNat / 256 ^ j)) ++
        (List.range 8).flatMap (fun i => (List.range 64).map (fun j => BitVec.ofNat 8 ((Sparse.get 0 s.mgmt.mr i).toNat / 256 ^ j))) ++
        bytesOfWords [BitVec.ofNat 64 s.mgmt.leaf] ++ key ++ sig)) ∧
    (∀ nonce : BitVec 256, 2 ^ 20 ≤ s.mgmt.leaf → no (.attest h nonce) 2) ∧
    (∀ off, (off % 8 = 0 → done (.capread h off) 0 ((bytesOfWords s.capList).drop off) (fun t => t.cores = s.cores ∧ t.ctxs = s.ctxs)) ∧
      (off % 8 ≠ 0 → no (.capread h off) 1)) ∧
    (∀ level k most, (level ≤ 5 → k < 64 ∨ k = 0xFF →
        let r := if k = 0xFF then none else some k
        let n := min most (h.resLen / 64)
        (∀ w ∈ (s.ringOf r level).recs, w.length = 8) →
        done (.errlog h level k most) 0 (((s.ringOf r level).recs.take n).flatMap bytesOfWords) (fun t =>
          (t.ringOf r level).recs = (s.ringOf r level).recs.drop n ∧ t.cores = s.cores)) ∧
      (5 < level ∨ (64 ≤ k ∧ k ≠ 0xFF) → no (.errlog h level k most) 1)) ∧
    (∀ n table, (n < 63 → table.length = 64 →
        let bad := 48 < table.countP (fun e : BitVec 32 => e.getLsbD 31) ∨
          ∃ e ∈ table, (e : BitVec 32).extractLsb' 29 2 = 3 ∨ e.extractLsb' 0 8 ≠ 0
        (bad → no (.reserve h n table) 2) ∧
        (¬ bad → done (.reserve h n table) 0 [] (fun t => (t.link n).resv = (s.link n).resv ∧
          ∃ r, (t.link n).newResv = some r ∧ ∀ i, i < 64 → Sparse.get 0 r i = table.getD i 0))) ∧
      (63 ≤ n ∨ table.length ≠ 64 → no (.reserve h n table) 1)) ∧
    (∀ n, (1 ≤ n → n ≤ 48 → done (.hbmscrub h n) 0 [] (fun t => t.mgmt.hbmHours = n)) ∧
      (n = 0 ∨ 48 < n → done (.hbmscrub h n) 2 [] (fun t => t.mgmt.hbmHours = s.mgmt.hbmHours))) ∧
    (∀ n, (n < 63 → (s.link n).st ≠ 0 → done (.rekey h n) 0 [] (fun t => LinkIs s t n { s.link n with rekey := true })) ∧
      (n < 63 → (s.link n).st = 0 → no (.rekey h n) 2) ∧ (63 ≤ n → no (.rekey h n) 1)) ∧
    (∀ c ch cls k ws u, ws.length ≤ 7 → c < 8192 → ch < 64 →
      let m : Msg := { dst := BitVec.ofNat 13 c, chan := BitVec.ofNat 6 ch, cls := cls, ctx := BitVec.ofNat 8 k, src := BitVec.ofNat 13 c,
                       mid := s.mgmt.mid, host := true, body := ws }
      ((s.core c).ctx ≠ some k → no (.inject h c ch cls k ws) 2) ∧
      ((s.core c).ctx = some k → s.arriveMsg c m = (u, true) → done (.inject h c ch cls k ws) 0 [] (fun t =>
        t.cores = u.cores ∧ t.mgmt.mid = s.mgmt.mid + 1)) ∧
      ((s.core c).ctx = some k → s.arriveMsg c m = (u, false) → ∃ t, exec (.inject h c ch cls k ws) s = .next t ∧ t.cores = u.cores ∧
        t.mgmt = { s.mgmt with cqt := s.mgmt.cqt + 1, waiting := some (.inject h c ch cls k ws) })) ∧
    (∀ k, k < 64 → ((s.ctx k).live = false → no (.endctx h k) 0) ∧
      ((s.ctx k).live = true → (s.ctx k).ending = false → ∃ t, exec (.endctx h k) s = .next t ∧ (t.ctx k).ending = true ∧
        (t.ctx k).live = true ∧ t.mgmt = { s.mgmt with cqt := s.mgmt.cqt + 1, waiting := some (.endctx h k) } ∧
        ∀ c, (s.core c).ctx = some k → (t.core c).preempt = true))) ∧
  (∀ (s : State) (h : HostCmd) (k : Nat), k < 64 → bufferOk h → (s.ctx k).live = true → (s.ctx k).ending = true →
    s.mgmt.waiting = some (.endctx h k) →
    (s.ctxIdle k = false → exec (.endctx h k) s = .next s) ∧
    (s.ctxIdle k = true → ∃ t, exec (.endctx h k) s = .next t ∧ Answered s t h 0 [] ∧ t.mgmt.waiting = none ∧
      (t.ctx k).live = false ∧ (t.ctx k).ending = false ∧ ∀ c, (s.core c).ctx = some k → (t.core c).ctx = none ∧ (t.core c).inbox = [])) ∧
  (∀ (s : State) (h : HostCmd) (c ch k : Nat) (cls : Bool) (ws : List Word) (u : State), bufferOk h → ws.length ≤ 7 → c < 8192 → ch < 64 →
    s.mgmt.waiting = some (.inject h c ch cls k ws) → (s.core c).ctx = some k →
    s.arriveMsg c { dst := BitVec.ofNat 13 c, chan := BitVec.ofNat 6 ch, cls := cls, ctx := BitVec.ofNat 8 k, src := BitVec.ofNat 13 c,
                    mid := s.mgmt.mid, host := true, body := ws } = (u, true) →
    ∃ t, exec (.inject h c ch cls k ws) s = .next t ∧ Answered s t h 0 [] ∧ t.cores = u.cores ∧ t.mgmt.waiting = none) ∧
  (∀ (s : State), s.mgmt.waiting = none → s.mgmt.cqh ≠ s.mgmt.cqt → s.mgmt.cqn ≠ 0 →
    let place := s.mgmt.cqb.toNat + 64 * (s.mgmt.cqh.toNat % s.mgmt.cqn.toNat)
    let w (i : Nat) := s.wordAt (0x010000000000 + place + 8 * i)
    let h : HostCmd := { tag := BitVec.ofNat 32 (w 0), resAddr := w 3, resLen := w 4 }
    place + 64 ≤ 0x7F0000000000 →
    (w 0 / 2 ^ 56 = 0 ∨ 10 < w 0 / 2 ^ 56 → Answered s (ringStep s) { h with resAddr := 0, resLen := 0 } 1 []) ∧
    (w 0 / 2 ^ 56 = 7 → bufferOk h → 1 ≤ w 5 → w 5 ≤ 48 → Answered s (ringStep s) h 0 [] ∧ (ringStep s).mgmt.hbmHours = w 5)) ∧
  (∀ (s : State) (n : BitVec 15) (v : Word),
    (s.mgmt.devWritten = false → exec (.devnumWrite n) s =
        .next { s with mgmt := { s.mgmt with devnum := n, devWritten := true } } ∧
      exec (.hostRegisterWrite 0x50000 v) s = .next { s with mgmt := { s.mgmt with devnum := v.setWidth 15, devWritten := true } }) ∧
    (s.mgmt.devWritten = true → exec (.devnumWrite n) s = .next s ∧ exec (.hostRegisterWrite 0x50000 v) s = .next s) ∧
    (∀ k w, k < 64 → w < 8 → ((s.ctx k).live = true → exec (.hostRegisterWrite (0x10000 + 64 * k + 8 * w) v) s = .next s) ∧
      ((s.ctx k).live = false → ∃ t, exec (.hostRegisterWrite (0x10000 + 64 * k + 8 * w) v) s = .next t ∧ SameMem s t ∧
        t.mgmt = { s.mgmt with ctxTab := t.mgmt.ctxTab } ∧
        (∀ k' w', w' < 8 → t.ctxWord k' w' = if k' = k ∧ w' = w then v &&& ctxWordMask w else s.ctxWord k' w'))) ∧
    (∀ i, i < 1056 → ∃ t, exec (.hostRegisterWrite (0x30000 + 8 * i) v) s = .next t ∧ t.mgmt = { s.mgmt with route := t.mgmt.route } ∧
      ∀ j, Sparse.get 0 t.mgmt.route j = if j = i then (if i < 1024 then v &&& 0xC00000000000001F else v &&& 0x800000000000001F)
        else Sparse.get 0 s.mgmt.route j) ∧
    (∀ i, i < 256 → ∃ t, exec (.hostRegisterWrite (0x40000 + 8 * i) v) s = .next t ∧ t.mgmt = { s.mgmt with apert := t.mgmt.apert } ∧
      ∀ j, Sparse.get 0 t.mgmt.apert j = if j = i then (if i % 2 = 0 then v &&& 0x8000000000007FFF else v &&& 0xFFF0000000000)
        else Sparse.get 0 s.mgmt.apert j) ∧
    (∃ t, exec (.hostRegisterWrite 0x20030 v) s = .next t ∧ t.mgmt.rqh = v ∧
      (s.mgmt.back = [] → t = { s with mgmt := { s.mgmt with rqh := v } })) ∧
    exec (.hostRegisterWrite 0x20010 v) s = .next { s with mgmt := { s.mgmt with cqt := v } } ∧
    exec (.hostRegisterWrite 0x20018 v) s = .next s ∧ exec (.hostRegisterWrite 0x20028 v) s = .next s ∧
    (∀ off, off % 8 ≠ 0 → exec (.hostRegisterWrite off v) s = .fault .noRegister)) ∧
  (∀ (s : State) (fw : Firmware), ∃ t, exec (.powerOn fw) s = .next t ∧ t.cores = [] ∧ t.ctxs = [] ∧ t.counters = [] ∧
    t.flight = [] ∧ (fw.config.resv = [] → t.fab = {}) ∧ t.mgmt.leaf = s.mgmt.leaf ∧ t.mgmt.devWritten = false ∧ t.mgmt.linksUp = false ∧
    (s.mgmt.leaf < 2 ^ 20 → t.mgmt.health = 0) ∧ (2 ^ 20 ≤ s.mgmt.leaf → t.mgmt.health = 0x80) ∧
    (∀ a, 0x010000000000 ≤ a → a < 0x800000000000 → t.byte a = s.byte a) ∧ (∀ a, a < 0x006000000000 → t.byte a = 0) ∧
    (∀ a, 2 ^ 48 ≤ a → t.byte a = 0) ∧
    let ok (n : Nat) : Bool := (List.range (n + 1)).all (fun m => fw.images[m]?.any (fun i => xmssVerify Config.vendorKey i.bytes i.sig))
    t.mgmt.measured = ok 10 ∧ (∀ n, t.mgmt.badImage = some n ↔ n < 11 ∧ ok n = false ∧ (n = 0 ∨ ok (n - 1) = true)) ∧
      t.mgmt.hbmHours = (if ok 10 = true ∧ 1 ≤ fw.config.hbmHours ∧ fw.config.hbmHours ≤ 48 then fw.config.hbmHours else 6) ∧
      t.mgmt.e2e = (if ok 10 = true ∧ 8750 ≤ fw.config.e2e ∧ fw.config.e2e ≤ 875000 then fw.config.e2e else 35000) ∧
      let bytes (m : BitVec 512) : List Byte := (List.range 64).map (fun j => BitVec.ofNat 8 (m.toNat / 256 ^ j))
      let measures (n : Nat) : Nat := if n = 0 then 0 else if n ≤ 8 then 1 else if n = 9 then 2 else 3
      ∀ m, m < 4 → Sparse.get 0 t.mgmt.mr m = ((List.range 11).filter (fun n => decide (measures n = m) && ok n)).foldl (fun r n =>
        shake256 (bytes r ++ bytes (shake256 (fw.images.getD n {}).bytes))) 0)
end

