-- ==== Sys2Proof/Laws/Sparse.lean ====
section
/-! SUPPORT. The laws of sparse maps: reading after a write, and the canonical form that every write keeps. -/

namespace Sys2Proof.Machine.Sparse

variable {α : Type}

theorem get_insert_self (d : α) (m : List (Nat × α)) (i : Nat) (v : α) : get d (insert m i v) i = v := by
  induction m with
  | nil => simp [insert, get]
  | cons e es ih =>
    unfold insert
    split
    · simp [get]
    · split
      · simp [get]
      · next h1 h2 => simp [get, h2, ih]

theorem get_insert_of_ne (d : α) (m : List (Nat × α)) {i j : Nat} (v : α) (h : i ≠ j) :
    get d (insert m i v) j = get d m j := by
  induction m with
  | nil => simp [insert, get, h]
  | cons e es ih =>
    unfold insert
    split
    · simp [get, h]
    · split
      · next h1 h2 => simp [get, h, h2]
      · next h1 h2 => simp [get, ih]

theorem get_erase_self (d : α) (m : List (Nat × α)) (i : Nat) : get d (erase m i) i = d := by
  induction m with
  | nil => simp [erase, get]
  | cons e es ih =>
    by_cases h : e.1 = i
    · simpa [erase, h] using ih
    · simpa [erase, h, get] using ih

theorem get_erase_of_ne (d : α) (m : List (Nat × α)) {i j : Nat} (h : i ≠ j) : get d (erase m i) j = get d m j := by
  induction m with
  | nil => simp [erase, get]
  | cons e es ih =>
    by_cases he : e.1 = i
    · simpa [erase, he, get, h] using ih
    · simp only [erase, ne_eq, he, not_false_eq_true, decide_true, List.filter_cons_of_pos, get] at ih ⊢
      rw [ih]

/-- A read after a write to the same key gives the value written. -/
@[simp] theorem get_set_self [DecidableEq α] (d : α) (m : List (Nat × α)) (i : Nat) (v : α) :
    get d (set d m i v) i = v := by
  unfold set
  split
  · next h => rw [get_erase_self, h]
  · exact get_insert_self d m i v

/-- A write leaves every other key alone. -/
theorem get_set_of_ne [DecidableEq α] (d : α) (m : List (Nat × α)) {i j : Nat} (v : α) (h : i ≠ j) :
    get d (set d m i v) j = get d m j := by
  unfold set
  split
  · exact get_erase_of_ne d m h
  · exact get_insert_of_ne d m v h

theorem get_set [DecidableEq α] (d : α) (m : List (Nat × α)) (i j : Nat) (v : α) :
    get d (set d m i v) j = if i = j then v else get d m j := by
  split
  · next h => rw [h, get_set_self]
  · next h => exact get_set_of_ne d m v h

@[simp] theorem get_modify_self [DecidableEq α] (d : α) (m : List (Nat × α)) (i : Nat) (f : α → α) :
    get d (modify d m i f) i = f (get d m i) := get_set_self d m i _

theorem get_modify_of_ne [DecidableEq α] (d : α) (m : List (Nat × α)) {i j : Nat} (f : α → α) (h : i ≠ j) :
    get d (modify d m i f) j = get d m j := get_set_of_ne d m _ h

theorem get_modify [DecidableEq α] (d : α) (m : List (Nat × α)) (i j : Nat) (f : α → α) :
    get d (modify d m i f) j = if i = j then f (get d m i) else get d m j := get_set d m i j _

/-! ## The canonical form -/

variable [DecidableEq α]

theorem wf_cons (d : α) (e : Nat × α) (es : List (Nat × α)) :
    wf d (e :: es) = true ↔ e.2 ≠ d ∧ (∀ e' ∈ es, e.1 < e'.1) ∧ wf d es = true := by
  simp [wf, and_assoc]

/-- Every filter of a canonical map is canonical. -/
theorem wf_filter (d : α) (p : Nat × α → Bool) {m : List (Nat × α)} (h : wf d m = true) : wf d (m.filter p) = true := by
  induction m with
  | nil => rfl
  | cons e es ih =>
    obtain ⟨hv, hlt, hes⟩ := (wf_cons d e es).1 h
    by_cases hp : p e = true
    · rw [List.filter_cons_of_pos hp]
      exact (wf_cons d e _).2 ⟨hv, fun e' he' => hlt e' (List.mem_filter.1 he').1, ih hes⟩
    · rw [List.filter_cons_of_neg hp]
      exact ih hes

omit [DecidableEq α] in
theorem mem_insert {m : List (Nat × α)} {i : Nat} {v : α} {e : Nat × α} (h : e ∈ insert m i v) : e = (i, v) ∨ e ∈ m := by
  induction m with
  | nil => simpa [insert] using h
  | cons x xs ih =>
    unfold insert at h
    split at h
    · simpa using h
    · split at h
      · rcases List.mem_cons.1 h with h | h
        · exact Or.inl h
        · exact Or.inr (List.mem_cons_of_mem _ h)
      · rcases List.mem_cons.1 h with h | h
        · exact Or.inr (by simp [h])
        · rcases ih h with h | h
          · exact Or.inl h
          · exact Or.inr (List.mem_cons_of_mem _ h)

theorem wf_insert (d : α) {m : List (Nat × α)} (h : wf d m = true) {i : Nat} {v : α} (hv : v ≠ d) :
    wf d (insert m i v) = true := by
  induction m with
  | nil => simp [insert, wf, hv]
  | cons e es ih =>
    obtain ⟨hev, hlt, hes⟩ := (wf_cons d e es).1 h
    unfold insert
    split
    · next hi =>
      refine (wf_cons d _ _).2 ⟨hv, fun e' he' => ?_, h⟩
      rcases List.mem_cons.1 he' with rfl | he'
      · exact hi
      · exact Nat.lt_trans hi (hlt e' he')
    · next hi =>
      split
      · next he => exact (wf_cons d _ _).2 ⟨hv, fun e' he' => he ▸ hlt e' he', hes⟩
      · next he =>
        refine (wf_cons d _ _).2 ⟨hev, fun e' he' => ?_, ih hes⟩
        rcases mem_insert he' with rfl | he'
        · exact Nat.lt_of_le_of_ne (Nat.le_of_not_lt hi) he
        · exact hlt e' he'

/-- A write keeps the canonical form. -/
theorem wf_set (d : α) {m : List (Nat × α)} (h : wf d m = true) (i : Nat) (v : α) : wf d (set d m i v) = true := by
  unfold set
  split
  · exact wf_filter d _ h
  · next hv => exact wf_insert d h hv

theorem wf_modify (d : α) {m : List (Nat × α)} (h : wf d m = true) (i : Nat) (f : α → α) :
    wf d (modify d m i f) = true := wf_set d h i _

end Sys2Proof.Machine.Sparse
end

