-- ==== Sys2Proof/Laws/State.lean ====
section
/-! SUPPORT. One lemma per field per update of the state, each true by definition, and what the readers of a core, a
context and a slot read after an update. -/

namespace Sys2Proof.Machine

variable (s : State)

/-! ## `modCore` -/

@[simp] theorem State.modCore_agenda (c : Nat) (f : Core → Core) : (s.modCore c f).agenda = s.agenda := rfl
@[simp] theorem State.modCore_cur (c : Nat) (f : Core → Core) : (s.modCore c f).cur = s.cur := rfl
@[simp] theorem State.modCore_tick (c : Nat) (f : Core → Core) : (s.modCore c f).tick = s.tick := rfl
@[simp] theorem State.modCore_cycle (c : Nat) (f : Core → Core) : (s.modCore c f).cycle = s.cycle := rfl
@[simp] theorem State.modCore_mem (c : Nat) (f : Core → Core) : (s.modCore c f).mem = s.mem := rfl
@[simp] theorem State.modCore_poison (c : Nat) (f : Core → Core) : (s.modCore c f).poison = s.poison := rfl
@[simp] theorem State.modCore_ctxs (c : Nat) (f : Core → Core) : (s.modCore c f).ctxs = s.ctxs := rfl
@[simp] theorem State.modCore_counters (c : Nat) (f : Core → Core) : (s.modCore c f).counters = s.counters := rfl
@[simp] theorem State.modCore_clusters (c : Nat) (f : Core → Core) : (s.modCore c f).clusters = s.clusters := rfl
@[simp] theorem State.modCore_code (c : Nat) (f : Core → Core) : (s.modCore c f).code = s.code := rfl
@[simp] theorem State.modCore_gangs (c : Nat) (f : Core → Core) : (s.modCore c f).gangs = s.gangs := rfl
@[simp] theorem State.modCore_dies (c : Nat) (f : Core → Core) : (s.modCore c f).dies = s.dies := rfl
@[simp] theorem State.modCore_flight (c : Nat) (f : Core → Core) : (s.modCore c f).flight = s.flight := rfl
@[simp] theorem State.modCore_hostOut (c : Nat) (f : Core → Core) : (s.modCore c f).hostOut = s.hostOut := rfl
@[simp] theorem State.modCore_xfers (c : Nat) (f : Core → Core) : (s.modCore c f).xfers = s.xfers := rfl
@[simp] theorem State.modCore_arrivals (c : Nat) (f : Core → Core) : (s.modCore c f).arrivals = s.arrivals := rfl
@[simp] theorem State.modCore_indexes (c : Nat) (f : Core → Core) : (s.modCore c f).indexes = s.indexes := rfl
@[simp] theorem State.modCore_fab (c : Nat) (f : Core → Core) : (s.modCore c f).fab = s.fab := rfl
@[simp] theorem State.modCore_mgmt (c : Nat) (f : Core → Core) : (s.modCore c f).mgmt = s.mgmt := rfl

/-! ## `setSlot` -/

@[simp] theorem State.setSlot_agenda (c k : Nat) (o : Option Slot) : (s.setSlot c k o).agenda = s.agenda := rfl
@[simp] theorem State.setSlot_cur (c k : Nat) (o : Option Slot) : (s.setSlot c k o).cur = s.cur := rfl
@[simp] theorem State.setSlot_tick (c k : Nat) (o : Option Slot) : (s.setSlot c k o).tick = s.tick := rfl
@[simp] theorem State.setSlot_cycle (c k : Nat) (o : Option Slot) : (s.setSlot c k o).cycle = s.cycle := rfl
@[simp] theorem State.setSlot_mem (c k : Nat) (o : Option Slot) : (s.setSlot c k o).mem = s.mem := rfl
@[simp] theorem State.setSlot_poison (c k : Nat) (o : Option Slot) : (s.setSlot c k o).poison = s.poison := rfl
@[simp] theorem State.setSlot_ctxs (c k : Nat) (o : Option Slot) : (s.setSlot c k o).ctxs = s.ctxs := rfl
@[simp] theorem State.setSlot_counters (c k : Nat) (o : Option Slot) : (s.setSlot c k o).counters = s.counters := rfl
@[simp] theorem State.setSlot_clusters (c k : Nat) (o : Option Slot) : (s.setSlot c k o).clusters = s.clusters := rfl
@[simp] theorem State.setSlot_code (c k : Nat) (o : Option Slot) : (s.setSlot c k o).code = s.code := rfl
@[simp] theorem State.setSlot_gangs (c k : Nat) (o : Option Slot) : (s.setSlot c k o).gangs = s.gangs := rfl
@[simp] theorem State.setSlot_dies (c k : Nat) (o : Option Slot) : (s.setSlot c k o).dies = s.dies := rfl
@[simp] theorem State.setSlot_flight (c k : Nat) (o : Option Slot) : (s.setSlot c k o).flight = s.flight := rfl
@[simp] theorem State.setSlot_hostOut (c k : Nat) (o : Option Slot) : (s.setSlot c k o).hostOut = s.hostOut := rfl
@[simp] theorem State.setSlot_xfers (c k : Nat) (o : Option Slot) : (s.setSlot c k o).xfers = s.xfers := rfl
@[simp] theorem State.setSlot_arrivals (c k : Nat) (o : Option Slot) : (s.setSlot c k o).arrivals = s.arrivals := rfl
@[simp] theorem State.setSlot_indexes (c k : Nat) (o : Option Slot) : (s.setSlot c k o).indexes = s.indexes := rfl
@[simp] theorem State.setSlot_fab (c k : Nat) (o : Option Slot) : (s.setSlot c k o).fab = s.fab := rfl
@[simp] theorem State.setSlot_mgmt (c k : Nat) (o : Option Slot) : (s.setSlot c k o).mgmt = s.mgmt := rfl

/-! ## `modSlot` -/

@[simp] theorem State.modSlot_agenda (c k : Nat) (f : Slot → Slot) : (s.modSlot c k f).agenda = s.agenda := rfl
@[simp] theorem State.modSlot_cur (c k : Nat) (f : Slot → Slot) : (s.modSlot c k f).cur = s.cur := rfl
@[simp] theorem State.modSlot_tick (c k : Nat) (f : Slot → Slot) : (s.modSlot c k f).tick = s.tick := rfl
@[simp] theorem State.modSlot_cycle (c k : Nat) (f : Slot → Slot) : (s.modSlot c k f).cycle = s.cycle := rfl
@[simp] theorem State.modSlot_mem (c k : Nat) (f : Slot → Slot) : (s.modSlot c k f).mem = s.mem := rfl
@[simp] theorem State.modSlot_poison (c k : Nat) (f : Slot → Slot) : (s.modSlot c k f).poison = s.poison := rfl
@[simp] theorem State.modSlot_ctxs (c k : Nat) (f : Slot → Slot) : (s.modSlot c k f).ctxs = s.ctxs := rfl
@[simp] theorem State.modSlot_counters (c k : Nat) (f : Slot → Slot) : (s.modSlot c k f).counters = s.counters := rfl
@[simp] theorem State.modSlot_clusters (c k : Nat) (f : Slot → Slot) : (s.modSlot c k f).clusters = s.clusters := rfl
@[simp] theorem State.modSlot_code (c k : Nat) (f : Slot → Slot) : (s.modSlot c k f).code = s.code := rfl
@[simp] theorem State.modSlot_gangs (c k : Nat) (f : Slot → Slot) : (s.modSlot c k f).gangs = s.gangs := rfl
@[simp] theorem State.modSlot_dies (c k : Nat) (f : Slot → Slot) : (s.modSlot c k f).dies = s.dies := rfl
@[simp] theorem State.modSlot_flight (c k : Nat) (f : Slot → Slot) : (s.modSlot c k f).flight = s.flight := rfl
@[simp] theorem State.modSlot_hostOut (c k : Nat) (f : Slot → Slot) : (s.modSlot c k f).hostOut = s.hostOut := rfl
@[simp] theorem State.modSlot_xfers (c k : Nat) (f : Slot → Slot) : (s.modSlot c k f).xfers = s.xfers := rfl
@[simp] theorem State.modSlot_arrivals (c k : Nat) (f : Slot → Slot) : (s.modSlot c k f).arrivals = s.arrivals := rfl
@[simp] theorem State.modSlot_indexes (c k : Nat) (f : Slot → Slot) : (s.modSlot c k f).indexes = s.indexes := rfl
@[simp] theorem State.modSlot_fab (c k : Nat) (f : Slot → Slot) : (s.modSlot c k f).fab = s.fab := rfl
@[simp] theorem State.modSlot_mgmt (c k : Nat) (f : Slot → Slot) : (s.modSlot c k f).mgmt = s.mgmt := rfl

/-! ## `putCur` -/

@[simp] theorem State.putCur_agenda (sl : Slot) : (s.putCur sl).agenda = s.agenda := rfl
@[simp] theorem State.putCur_cur (sl : Slot) : (s.putCur sl).cur = s.cur := rfl
@[simp] theorem State.putCur_tick (sl : Slot) : (s.putCur sl).tick = s.tick := rfl
@[simp] theorem State.putCur_cycle (sl : Slot) : (s.putCur sl).cycle = s.cycle := rfl
@[simp] theorem State.putCur_mem (sl : Slot) : (s.putCur sl).mem = s.mem := rfl
@[simp] theorem State.putCur_poison (sl : Slot) : (s.putCur sl).poison = s.poison := rfl
@[simp] theorem State.putCur_ctxs (sl : Slot) : (s.putCur sl).ctxs = s.ctxs := rfl
@[simp] theorem State.putCur_counters (sl : Slot) : (s.putCur sl).counters = s.counters := rfl
@[simp] theorem State.putCur_clusters (sl : Slot) : (s.putCur sl).clusters = s.clusters := rfl
@[simp] theorem State.putCur_code (sl : Slot) : (s.putCur sl).code = s.code := rfl
@[simp] theorem State.putCur_gangs (sl : Slot) : (s.putCur sl).gangs = s.gangs := rfl
@[simp] theorem State.putCur_dies (sl : Slot) : (s.putCur sl).dies = s.dies := rfl
@[simp] theorem State.putCur_flight (sl : Slot) : (s.putCur sl).flight = s.flight := rfl
@[simp] theorem State.putCur_hostOut (sl : Slot) : (s.putCur sl).hostOut = s.hostOut := rfl
@[simp] theorem State.putCur_xfers (sl : Slot) : (s.putCur sl).xfers = s.xfers := rfl
@[simp] theorem State.putCur_arrivals (sl : Slot) : (s.putCur sl).arrivals = s.arrivals := rfl
@[simp] theorem State.putCur_indexes (sl : Slot) : (s.putCur sl).indexes = s.indexes := rfl
@[simp] theorem State.putCur_fab (sl : Slot) : (s.putCur sl).fab = s.fab := rfl
@[simp] theorem State.putCur_mgmt (sl : Slot) : (s.putCur sl).mgmt = s.mgmt := rfl

/-! ## `setHte` -/

@[simp] theorem State.setHte_agenda (c ch : Nat) (h : Hte) : (s.setHte c ch h).agenda = s.agenda := rfl
@[simp] theorem State.setHte_cur (c ch : Nat) (h : Hte) : (s.setHte c ch h).cur = s.cur := rfl
@[simp] theorem State.setHte_tick (c ch : Nat) (h : Hte) : (s.setHte c ch h).tick = s.tick := rfl
@[simp] theorem State.setHte_cycle (c ch : Nat) (h : Hte) : (s.setHte c ch h).cycle = s.cycle := rfl
@[simp] theorem State.setHte_mem (c ch : Nat) (h : Hte) : (s.setHte c ch h).mem = s.mem := rfl
@[simp] theorem State.setHte_poison (c ch : Nat) (h : Hte) : (s.setHte c ch h).poison = s.poison := rfl
@[simp] theorem State.setHte_ctxs (c ch : Nat) (h : Hte) : (s.setHte c ch h).ctxs = s.ctxs := rfl
@[simp] theorem State.setHte_counters (c ch : Nat) (h : Hte) : (s.setHte c ch h).counters = s.counters := rfl
@[simp] theorem State.setHte_clusters (c ch : Nat) (h : Hte) : (s.setHte c ch h).clusters = s.clusters := rfl
@[simp] theorem State.setHte_code (c ch : Nat) (h : Hte) : (s.setHte c ch h).code = s.code := rfl
@[simp] theorem State.setHte_gangs (c ch : Nat) (h : Hte) : (s.setHte c ch h).gangs = s.gangs := rfl
@[simp] theorem State.setHte_dies (c ch : Nat) (h : Hte) : (s.setHte c ch h).dies = s.dies := rfl
@[simp] theorem State.setHte_flight (c ch : Nat) (h : Hte) : (s.setHte c ch h).flight = s.flight := rfl
@[simp] theorem State.setHte_hostOut (c ch : Nat) (h : Hte) : (s.setHte c ch h).hostOut = s.hostOut := rfl
@[simp] theorem State.setHte_xfers (c ch : Nat) (h : Hte) : (s.setHte c ch h).xfers = s.xfers := rfl
@[simp] theorem State.setHte_arrivals (c ch : Nat) (h : Hte) : (s.setHte c ch h).arrivals = s.arrivals := rfl
@[simp] theorem State.setHte_indexes (c ch : Nat) (h : Hte) : (s.setHte c ch h).indexes = s.indexes := rfl
@[simp] theorem State.setHte_fab (c ch : Nat) (h : Hte) : (s.setHte c ch h).fab = s.fab := rfl
@[simp] theorem State.setHte_mgmt (c ch : Nat) (h : Hte) : (s.setHte c ch h).mgmt = s.mgmt := rfl

/-! ## `setMask` -/

@[simp] theorem State.setMask_agenda (c ch : Nat) (b : Bool) : (s.setMask c ch b).agenda = s.agenda := rfl
@[simp] theorem State.setMask_cur (c ch : Nat) (b : Bool) : (s.setMask c ch b).cur = s.cur := rfl
@[simp] theorem State.setMask_tick (c ch : Nat) (b : Bool) : (s.setMask c ch b).tick = s.tick := rfl
@[simp] theorem State.setMask_cycle (c ch : Nat) (b : Bool) : (s.setMask c ch b).cycle = s.cycle := rfl
@[simp] theorem State.setMask_mem (c ch : Nat) (b : Bool) : (s.setMask c ch b).mem = s.mem := rfl
@[simp] theorem State.setMask_poison (c ch : Nat) (b : Bool) : (s.setMask c ch b).poison = s.poison := rfl
@[simp] theorem State.setMask_ctxs (c ch : Nat) (b : Bool) : (s.setMask c ch b).ctxs = s.ctxs := rfl
@[simp] theorem State.setMask_counters (c ch : Nat) (b : Bool) : (s.setMask c ch b).counters = s.counters := rfl
@[simp] theorem State.setMask_clusters (c ch : Nat) (b : Bool) : (s.setMask c ch b).clusters = s.clusters := rfl
@[simp] theorem State.setMask_code (c ch : Nat) (b : Bool) : (s.setMask c ch b).code = s.code := rfl
@[simp] theorem State.setMask_gangs (c ch : Nat) (b : Bool) : (s.setMask c ch b).gangs = s.gangs := rfl
@[simp] theorem State.setMask_dies (c ch : Nat) (b : Bool) : (s.setMask c ch b).dies = s.dies := rfl
@[simp] theorem State.setMask_flight (c ch : Nat) (b : Bool) : (s.setMask c ch b).flight = s.flight := rfl
@[simp] theorem State.setMask_hostOut (c ch : Nat) (b : Bool) : (s.setMask c ch b).hostOut = s.hostOut := rfl
@[simp] theorem State.setMask_xfers (c ch : Nat) (b : Bool) : (s.setMask c ch b).xfers = s.xfers := rfl
@[simp] theorem State.setMask_arrivals (c ch : Nat) (b : Bool) : (s.setMask c ch b).arrivals = s.arrivals := rfl
@[simp] theorem State.setMask_indexes (c ch : Nat) (b : Bool) : (s.setMask c ch b).indexes = s.indexes := rfl
@[simp] theorem State.setMask_fab (c ch : Nat) (b : Bool) : (s.setMask c ch b).fab = s.fab := rfl
@[simp] theorem State.setMask_mgmt (c ch : Nat) (b : Bool) : (s.setMask c ch b).mgmt = s.mgmt := rfl

/-! ## `modCtx` -/

@[simp] theorem State.modCtx_agenda (k : Nat) (f : Ctx → Ctx) : (s.modCtx k f).agenda = s.agenda := rfl
@[simp] theorem State.modCtx_cur (k : Nat) (f : Ctx → Ctx) : (s.modCtx k f).cur = s.cur := rfl
@[simp] theorem State.modCtx_tick (k : Nat) (f : Ctx → Ctx) : (s.modCtx k f).tick = s.tick := rfl
@[simp] theorem State.modCtx_cycle (k : Nat) (f : Ctx → Ctx) : (s.modCtx k f).cycle = s.cycle := rfl
@[simp] theorem State.modCtx_mem (k : Nat) (f : Ctx → Ctx) : (s.modCtx k f).mem = s.mem := rfl
@[simp] theorem State.modCtx_poison (k : Nat) (f : Ctx → Ctx) : (s.modCtx k f).poison = s.poison := rfl
@[simp] theorem State.modCtx_cores (k : Nat) (f : Ctx → Ctx) : (s.modCtx k f).cores = s.cores := rfl
@[simp] theorem State.modCtx_counters (k : Nat) (f : Ctx → Ctx) : (s.modCtx k f).counters = s.counters := rfl
@[simp] theorem State.modCtx_clusters (k : Nat) (f : Ctx → Ctx) : (s.modCtx k f).clusters = s.clusters := rfl
@[simp] theorem State.modCtx_code (k : Nat) (f : Ctx → Ctx) : (s.modCtx k f).code = s.code := rfl
@[simp] theorem State.modCtx_gangs (k : Nat) (f : Ctx → Ctx) : (s.modCtx k f).gangs = s.gangs := rfl
@[simp] theorem State.modCtx_dies (k : Nat) (f : Ctx → Ctx) : (s.modCtx k f).dies = s.dies := rfl
@[simp] theorem State.modCtx_flight (k : Nat) (f : Ctx → Ctx) : (s.modCtx k f).flight = s.flight := rfl
@[simp] theorem State.modCtx_hostOut (k : Nat) (f : Ctx → Ctx) : (s.modCtx k f).hostOut = s.hostOut := rfl
@[simp] theorem State.modCtx_xfers (k : Nat) (f : Ctx → Ctx) : (s.modCtx k f).xfers = s.xfers := rfl
@[simp] theorem State.modCtx_arrivals (k : Nat) (f : Ctx → Ctx) : (s.modCtx k f).arrivals = s.arrivals := rfl
@[simp] theorem State.modCtx_indexes (k : Nat) (f : Ctx → Ctx) : (s.modCtx k f).indexes = s.indexes := rfl
@[simp] theorem State.modCtx_fab (k : Nat) (f : Ctx → Ctx) : (s.modCtx k f).fab = s.fab := rfl
@[simp] theorem State.modCtx_mgmt (k : Nat) (f : Ctx → Ctx) : (s.modCtx k f).mgmt = s.mgmt := rfl

/-! ## `setCounter` -/

@[simp] theorem State.setCounter_agenda (k : Nat) (v : Counter) : (s.setCounter k v).agenda = s.agenda := rfl
@[simp] theorem State.setCounter_cur (k : Nat) (v : Counter) : (s.setCounter k v).cur = s.cur := rfl
@[simp] theorem State.setCounter_tick (k : Nat) (v : Counter) : (s.setCounter k v).tick = s.tick := rfl
@[simp] theorem State.setCounter_cycle (k : Nat) (v : Counter) : (s.setCounter k v).cycle = s.cycle := rfl
@[simp] theorem State.setCounter_mem (k : Nat) (v : Counter) : (s.setCounter k v).mem = s.mem := rfl
@[simp] theorem State.setCounter_poison (k : Nat) (v : Counter) : (s.setCounter k v).poison = s.poison := rfl
@[simp] theorem State.setCounter_cores (k : Nat) (v : Counter) : (s.setCounter k v).cores = s.cores := rfl
@[simp] theorem State.setCounter_ctxs (k : Nat) (v : Counter) : (s.setCounter k v).ctxs = s.ctxs := rfl
@[simp] theorem State.setCounter_clusters (k : Nat) (v : Counter) : (s.setCounter k v).clusters = s.clusters := rfl
@[simp] theorem State.setCounter_code (k : Nat) (v : Counter) : (s.setCounter k v).code = s.code := rfl
@[simp] theorem State.setCounter_gangs (k : Nat) (v : Counter) : (s.setCounter k v).gangs = s.gangs := rfl
@[simp] theorem State.setCounter_dies (k : Nat) (v : Counter) : (s.setCounter k v).dies = s.dies := rfl
@[simp] theorem State.setCounter_flight (k : Nat) (v : Counter) : (s.setCounter k v).flight = s.flight := rfl
@[simp] theorem State.setCounter_hostOut (k : Nat) (v : Counter) : (s.setCounter k v).hostOut = s.hostOut := rfl
@[simp] theorem State.setCounter_xfers (k : Nat) (v : Counter) : (s.setCounter k v).xfers = s.xfers := rfl
@[simp] theorem State.setCounter_arrivals (k : Nat) (v : Counter) : (s.setCounter k v).arrivals = s.arrivals := rfl
@[simp] theorem State.setCounter_indexes (k : Nat) (v : Counter) : (s.setCounter k v).indexes = s.indexes := rfl
@[simp] theorem State.setCounter_fab (k : Nat) (v : Counter) : (s.setCounter k v).fab = s.fab := rfl
@[simp] theorem State.setCounter_mgmt (k : Nat) (v : Counter) : (s.setCounter k v).mgmt = s.mgmt := rfl

/-! ## `modCluster` -/

@[simp] theorem State.modCluster_agenda (k : Nat) (f : Cluster → Cluster) : (s.modCluster k f).agenda = s.agenda := rfl
@[simp] theorem State.modCluster_cur (k : Nat) (f : Cluster → Cluster) : (s.modCluster k f).cur = s.cur := rfl
@[simp] theorem State.modCluster_tick (k : Nat) (f : Cluster → Cluster) : (s.modCluster k f).tick = s.tick := rfl
@[simp] theorem State.modCluster_cycle (k : Nat) (f : Cluster → Cluster) : (s.modCluster k f).cycle = s.cycle := rfl
@[simp] theorem State.modCluster_mem (k : Nat) (f : Cluster → Cluster) : (s.modCluster k f).mem = s.mem := rfl
@[simp] theorem State.modCluster_poison (k : Nat) (f : Cluster → Cluster) : (s.modCluster k f).poison = s.poison := rfl
@[simp] theorem State.modCluster_cores (k : Nat) (f : Cluster → Cluster) : (s.modCluster k f).cores = s.cores := rfl
@[simp] theorem State.modCluster_ctxs (k : Nat) (f : Cluster → Cluster) : (s.modCluster k f).ctxs = s.ctxs := rfl
@[simp] theorem State.modCluster_counters (k : Nat) (f : Cluster → Cluster) : (s.modCluster k f).counters = s.counters := rfl
@[simp] theorem State.modCluster_code (k : Nat) (f : Cluster → Cluster) : (s.modCluster k f).code = s.code := rfl
@[simp] theorem State.modCluster_gangs (k : Nat) (f : Cluster → Cluster) : (s.modCluster k f).gangs = s.gangs := rfl
@[simp] theorem State.modCluster_dies (k : Nat) (f : Cluster → Cluster) : (s.modCluster k f).dies = s.dies := rfl
@[simp] theorem State.modCluster_flight (k : Nat) (f : Cluster → Cluster) : (s.modCluster k f).flight = s.flight := rfl
@[simp] theorem State.modCluster_hostOut (k : Nat) (f : Cluster → Cluster) : (s.modCluster k f).hostOut = s.hostOut := rfl
@[simp] theorem State.modCluster_xfers (k : Nat) (f : Cluster → Cluster) : (s.modCluster k f).xfers = s.xfers := rfl
@[simp] theorem State.modCluster_arrivals (k : Nat) (f : Cluster → Cluster) : (s.modCluster k f).arrivals = s.arrivals := rfl
@[simp] theorem State.modCluster_indexes (k : Nat) (f : Cluster → Cluster) : (s.modCluster k f).indexes = s.indexes := rfl
@[simp] theorem State.modCluster_fab (k : Nat) (f : Cluster → Cluster) : (s.modCluster k f).fab = s.fab := rfl
@[simp] theorem State.modCluster_mgmt (k : Nat) (f : Cluster → Cluster) : (s.modCluster k f).mgmt = s.mgmt := rfl

/-! ## `modDie` -/

@[simp] theorem State.modDie_agenda (d : Nat) (f : Die → Die) : (s.modDie d f).agenda = s.agenda := rfl
@[simp] theorem State.modDie_cur (d : Nat) (f : Die → Die) : (s.modDie d f).cur = s.cur := rfl
@[simp] theorem State.modDie_tick (d : Nat) (f : Die → Die) : (s.modDie d f).tick = s.tick := rfl
@[simp] theorem State.modDie_cycle (d : Nat) (f : Die → Die) : (s.modDie d f).cycle = s.cycle := rfl
@[simp] theorem State.modDie_mem (d : Nat) (f : Die → Die) : (s.modDie d f).mem = s.mem := rfl
@[simp] theorem State.modDie_poison (d : Nat) (f : Die → Die) : (s.modDie d f).poison = s.poison := rfl
@[simp] theorem State.modDie_cores (d : Nat) (f : Die → Die) : (s.modDie d f).cores = s.cores := rfl
@[simp] theorem State.modDie_ctxs (d : Nat) (f : Die → Die) : (s.modDie d f).ctxs = s.ctxs := rfl
@[simp] theorem State.modDie_counters (d : Nat) (f : Die → Die) : (s.modDie d f).counters = s.counters := rfl
@[simp] theorem State.modDie_clusters (d : Nat) (f : Die → Die) : (s.modDie d f).clusters = s.clusters := rfl
@[simp] theorem State.modDie_code (d : Nat) (f : Die → Die) : (s.modDie d f).code = s.code := rfl
@[simp] theorem State.modDie_gangs (d : Nat) (f : Die → Die) : (s.modDie d f).gangs = s.gangs := rfl
@[simp] theorem State.modDie_flight (d : Nat) (f : Die → Die) : (s.modDie d f).flight = s.flight := rfl
@[simp] theorem State.modDie_hostOut (d : Nat) (f : Die → Die) : (s.modDie d f).hostOut = s.hostOut := rfl
@[simp] theorem State.modDie_xfers (d : Nat) (f : Die → Die) : (s.modDie d f).xfers = s.xfers := rfl
@[simp] theorem State.modDie_arrivals (d : Nat) (f : Die → Die) : (s.modDie d f).arrivals = s.arrivals := rfl
@[simp] theorem State.modDie_indexes (d : Nat) (f : Die → Die) : (s.modDie d f).indexes = s.indexes := rfl
@[simp] theorem State.modDie_fab (d : Nat) (f : Die → Die) : (s.modDie d f).fab = s.fab := rfl
@[simp] theorem State.modDie_mgmt (d : Nat) (f : Die → Die) : (s.modDie d f).mgmt = s.mgmt := rfl

/-! ## `modBank` -/

@[simp] theorem State.modBank_agenda (d b : Nat) (f : Bank → Bank) : (s.modBank d b f).agenda = s.agenda := rfl
@[simp] theorem State.modBank_cur (d b : Nat) (f : Bank → Bank) : (s.modBank d b f).cur = s.cur := rfl
@[simp] theorem State.modBank_tick (d b : Nat) (f : Bank → Bank) : (s.modBank d b f).tick = s.tick := rfl
@[simp] theorem State.modBank_cycle (d b : Nat) (f : Bank → Bank) : (s.modBank d b f).cycle = s.cycle := rfl
@[simp] theorem State.modBank_mem (d b : Nat) (f : Bank → Bank) : (s.modBank d b f).mem = s.mem := rfl
@[simp] theorem State.modBank_poison (d b : Nat) (f : Bank → Bank) : (s.modBank d b f).poison = s.poison := rfl
@[simp] theorem State.modBank_cores (d b : Nat) (f : Bank → Bank) : (s.modBank d b f).cores = s.cores := rfl
@[simp] theorem State.modBank_ctxs (d b : Nat) (f : Bank → Bank) : (s.modBank d b f).ctxs = s.ctxs := rfl
@[simp] theorem State.modBank_counters (d b : Nat) (f : Bank → Bank) : (s.modBank d b f).counters = s.counters := rfl
@[simp] theorem State.modBank_clusters (d b : Nat) (f : Bank → Bank) : (s.modBank d b f).clusters = s.clusters := rfl
@[simp] theorem State.modBank_code (d b : Nat) (f : Bank → Bank) : (s.modBank d b f).code = s.code := rfl
@[simp] theorem State.modBank_gangs (d b : Nat) (f : Bank → Bank) : (s.modBank d b f).gangs = s.gangs := rfl
@[simp] theorem State.modBank_flight (d b : Nat) (f : Bank → Bank) : (s.modBank d b f).flight = s.flight := rfl
@[simp] theorem State.modBank_hostOut (d b : Nat) (f : Bank → Bank) : (s.modBank d b f).hostOut = s.hostOut := rfl
@[simp] theorem State.modBank_xfers (d b : Nat) (f : Bank → Bank) : (s.modBank d b f).xfers = s.xfers := rfl
@[simp] theorem State.modBank_arrivals (d b : Nat) (f : Bank → Bank) : (s.modBank d b f).arrivals = s.arrivals := rfl
@[simp] theorem State.modBank_indexes (d b : Nat) (f : Bank → Bank) : (s.modBank d b f).indexes = s.indexes := rfl
@[simp] theorem State.modBank_fab (d b : Nat) (f : Bank → Bank) : (s.modBank d b f).fab = s.fab := rfl
@[simp] theorem State.modBank_mgmt (d b : Nat) (f : Bank → Bank) : (s.modBank d b f).mgmt = s.mgmt := rfl

/-! ## `modGang` -/

@[simp] theorem State.modGang_agenda (g : Nat) (f : Gang → Gang) : (s.modGang g f).agenda = s.agenda := rfl
@[simp] theorem State.modGang_cur (g : Nat) (f : Gang → Gang) : (s.modGang g f).cur = s.cur := rfl
@[simp] theorem State.modGang_tick (g : Nat) (f : Gang → Gang) : (s.modGang g f).tick = s.tick := rfl
@[simp] theorem State.modGang_cycle (g : Nat) (f : Gang → Gang) : (s.modGang g f).cycle = s.cycle := rfl
@[simp] theorem State.modGang_mem (g : Nat) (f : Gang → Gang) : (s.modGang g f).mem = s.mem := rfl
@[simp] theorem State.modGang_poison (g : Nat) (f : Gang → Gang) : (s.modGang g f).poison = s.poison := rfl
@[simp] theorem State.modGang_cores (g : Nat) (f : Gang → Gang) : (s.modGang g f).cores = s.cores := rfl
@[simp] theorem State.modGang_ctxs (g : Nat) (f : Gang → Gang) : (s.modGang g f).ctxs = s.ctxs := rfl
@[simp] theorem State.modGang_counters (g : Nat) (f : Gang → Gang) : (s.modGang g f).counters = s.counters := rfl
@[simp] theorem State.modGang_clusters (g : Nat) (f : Gang → Gang) : (s.modGang g f).clusters = s.clusters := rfl
@[simp] theorem State.modGang_code (g : Nat) (f : Gang → Gang) : (s.modGang g f).code = s.code := rfl
@[simp] theorem State.modGang_dies (g : Nat) (f : Gang → Gang) : (s.modGang g f).dies = s.dies := rfl
@[simp] theorem State.modGang_flight (g : Nat) (f : Gang → Gang) : (s.modGang g f).flight = s.flight := rfl
@[simp] theorem State.modGang_hostOut (g : Nat) (f : Gang → Gang) : (s.modGang g f).hostOut = s.hostOut := rfl
@[simp] theorem State.modGang_xfers (g : Nat) (f : Gang → Gang) : (s.modGang g f).xfers = s.xfers := rfl
@[simp] theorem State.modGang_arrivals (g : Nat) (f : Gang → Gang) : (s.modGang g f).arrivals = s.arrivals := rfl
@[simp] theorem State.modGang_indexes (g : Nat) (f : Gang → Gang) : (s.modGang g f).indexes = s.indexes := rfl
@[simp] theorem State.modGang_fab (g : Nat) (f : Gang → Gang) : (s.modGang g f).fab = s.fab := rfl
@[simp] theorem State.modGang_mgmt (g : Nat) (f : Gang → Gang) : (s.modGang g f).mgmt = s.mgmt := rfl

/-! ## `modMgmt` -/

@[simp] theorem State.modMgmt_agenda (f : Mgmt → Mgmt) : (s.modMgmt f).agenda = s.agenda := rfl
@[simp] theorem State.modMgmt_cur (f : Mgmt → Mgmt) : (s.modMgmt f).cur = s.cur := rfl
@[simp] theorem State.modMgmt_tick (f : Mgmt → Mgmt) : (s.modMgmt f).tick = s.tick := rfl
@[simp] theorem State.modMgmt_cycle (f : Mgmt → Mgmt) : (s.modMgmt f).cycle = s.cycle := rfl
@[simp] theorem State.modMgmt_mem (f : Mgmt → Mgmt) : (s.modMgmt f).mem = s.mem := rfl
@[simp] theorem State.modMgmt_poison (f : Mgmt → Mgmt) : (s.modMgmt f).poison = s.poison := rfl
@[simp] theorem State.modMgmt_cores (f : Mgmt → Mgmt) : (s.modMgmt f).cores = s.cores := rfl
@[simp] theorem State.modMgmt_ctxs (f : Mgmt → Mgmt) : (s.modMgmt f).ctxs = s.ctxs := rfl
@[simp] theorem State.modMgmt_counters (f : Mgmt → Mgmt) : (s.modMgmt f).counters = s.counters := rfl
@[simp] theorem State.modMgmt_clusters (f : Mgmt → Mgmt) : (s.modMgmt f).clusters = s.clusters := rfl
@[simp] theorem State.modMgmt_code (f : Mgmt → Mgmt) : (s.modMgmt f).code = s.code := rfl
@[simp] theorem State.modMgmt_gangs (f : Mgmt → Mgmt) : (s.modMgmt f).gangs = s.gangs := rfl
@[simp] theorem State.modMgmt_dies (f : Mgmt → Mgmt) : (s.modMgmt f).dies = s.dies := rfl
@[simp] theorem State.modMgmt_flight (f : Mgmt → Mgmt) : (s.modMgmt f).flight = s.flight := rfl
@[simp] theorem State.modMgmt_hostOut (f : Mgmt → Mgmt) : (s.modMgmt f).hostOut = s.hostOut := rfl
@[simp] theorem State.modMgmt_xfers (f : Mgmt → Mgmt) : (s.modMgmt f).xfers = s.xfers := rfl
@[simp] theorem State.modMgmt_arrivals (f : Mgmt → Mgmt) : (s.modMgmt f).arrivals = s.arrivals := rfl
@[simp] theorem State.modMgmt_indexes (f : Mgmt → Mgmt) : (s.modMgmt f).indexes = s.indexes := rfl
@[simp] theorem State.modMgmt_fab (f : Mgmt → Mgmt) : (s.modMgmt f).fab = s.fab := rfl

/-! ## `modFab` -/

@[simp] theorem State.modFab_agenda (f : Fab → Fab) : (s.modFab f).agenda = s.agenda := rfl
@[simp] theorem State.modFab_cur (f : Fab → Fab) : (s.modFab f).cur = s.cur := rfl
@[simp] theorem State.modFab_tick (f : Fab → Fab) : (s.modFab f).tick = s.tick := rfl
@[simp] theorem State.modFab_cycle (f : Fab → Fab) : (s.modFab f).cycle = s.cycle := rfl
@[simp] theorem State.modFab_mem (f : Fab → Fab) : (s.modFab f).mem = s.mem := rfl
@[simp] theorem State.modFab_poison (f : Fab → Fab) : (s.modFab f).poison = s.poison := rfl
@[simp] theorem State.modFab_cores (f : Fab → Fab) : (s.modFab f).cores = s.cores := rfl
@[simp] theorem State.modFab_ctxs (f : Fab → Fab) : (s.modFab f).ctxs = s.ctxs := rfl
@[simp] theorem State.modFab_counters (f : Fab → Fab) : (s.modFab f).counters = s.counters := rfl
@[simp] theorem State.modFab_clusters (f : Fab → Fab) : (s.modFab f).clusters = s.clusters := rfl
@[simp] theorem State.modFab_code (f : Fab → Fab) : (s.modFab f).code = s.code := rfl
@[simp] theorem State.modFab_gangs (f : Fab → Fab) : (s.modFab f).gangs = s.gangs := rfl
@[simp] theorem State.modFab_dies (f : Fab → Fab) : (s.modFab f).dies = s.dies := rfl
@[simp] theorem State.modFab_flight (f : Fab → Fab) : (s.modFab f).flight = s.flight := rfl
@[simp] theorem State.modFab_hostOut (f : Fab → Fab) : (s.modFab f).hostOut = s.hostOut := rfl
@[simp] theorem State.modFab_xfers (f : Fab → Fab) : (s.modFab f).xfers = s.xfers := rfl
@[simp] theorem State.modFab_arrivals (f : Fab → Fab) : (s.modFab f).arrivals = s.arrivals := rfl
@[simp] theorem State.modFab_indexes (f : Fab → Fab) : (s.modFab f).indexes = s.indexes := rfl
@[simp] theorem State.modFab_mgmt (f : Fab → Fab) : (s.modFab f).mgmt = s.mgmt := rfl

/-! ## `modLink` -/

@[simp] theorem State.modLink_agenda (n : Nat) (f : Link → Link) : (s.modLink n f).agenda = s.agenda := rfl
@[simp] theorem State.modLink_cur (n : Nat) (f : Link → Link) : (s.modLink n f).cur = s.cur := rfl
@[simp] theorem State.modLink_tick (n : Nat) (f : Link → Link) : (s.modLink n f).tick = s.tick := rfl
@[simp] theorem State.modLink_cycle (n : Nat) (f : Link → Link) : (s.modLink n f).cycle = s.cycle := rfl
@[simp] theorem State.modLink_mem (n : Nat) (f : Link → Link) : (s.modLink n f).mem = s.mem := rfl
@[simp] theorem State.modLink_poison (n : Nat) (f : Link → Link) : (s.modLink n f).poison = s.poison := rfl
@[simp] theorem State.modLink_cores (n : Nat) (f : Link → Link) : (s.modLink n f).cores = s.cores := rfl
@[simp] theorem State.modLink_ctxs (n : Nat) (f : Link → Link) : (s.modLink n f).ctxs = s.ctxs := rfl
@[simp] theorem State.modLink_counters (n : Nat) (f : Link → Link) : (s.modLink n f).counters = s.counters := rfl
@[simp] theorem State.modLink_clusters (n : Nat) (f : Link → Link) : (s.modLink n f).clusters = s.clusters := rfl
@[simp] theorem State.modLink_code (n : Nat) (f : Link → Link) : (s.modLink n f).code = s.code := rfl
@[simp] theorem State.modLink_gangs (n : Nat) (f : Link → Link) : (s.modLink n f).gangs = s.gangs := rfl
@[simp] theorem State.modLink_dies (n : Nat) (f : Link → Link) : (s.modLink n f).dies = s.dies := rfl
@[simp] theorem State.modLink_flight (n : Nat) (f : Link → Link) : (s.modLink n f).flight = s.flight := rfl
@[simp] theorem State.modLink_hostOut (n : Nat) (f : Link → Link) : (s.modLink n f).hostOut = s.hostOut := rfl
@[simp] theorem State.modLink_xfers (n : Nat) (f : Link → Link) : (s.modLink n f).xfers = s.xfers := rfl
@[simp] theorem State.modLink_arrivals (n : Nat) (f : Link → Link) : (s.modLink n f).arrivals = s.arrivals := rfl
@[simp] theorem State.modLink_indexes (n : Nat) (f : Link → Link) : (s.modLink n f).indexes = s.indexes := rfl
@[simp] theorem State.modLink_mgmt (n : Nat) (f : Link → Link) : (s.modLink n f).mgmt = s.mgmt := rfl

/-! ## `modPeer` -/

@[simp] theorem State.modPeer_agenda (d : Nat) (f : Peer → Peer) : (s.modPeer d f).agenda = s.agenda := rfl
@[simp] theorem State.modPeer_cur (d : Nat) (f : Peer → Peer) : (s.modPeer d f).cur = s.cur := rfl
@[simp] theorem State.modPeer_tick (d : Nat) (f : Peer → Peer) : (s.modPeer d f).tick = s.tick := rfl
@[simp] theorem State.modPeer_cycle (d : Nat) (f : Peer → Peer) : (s.modPeer d f).cycle = s.cycle := rfl
@[simp] theorem State.modPeer_mem (d : Nat) (f : Peer → Peer) : (s.modPeer d f).mem = s.mem := rfl
@[simp] theorem State.modPeer_poison (d : Nat) (f : Peer → Peer) : (s.modPeer d f).poison = s.poison := rfl
@[simp] theorem State.modPeer_cores (d : Nat) (f : Peer → Peer) : (s.modPeer d f).cores = s.cores := rfl
@[simp] theorem State.modPeer_ctxs (d : Nat) (f : Peer → Peer) : (s.modPeer d f).ctxs = s.ctxs := rfl
@[simp] theorem State.modPeer_counters (d : Nat) (f : Peer → Peer) : (s.modPeer d f).counters = s.counters := rfl
@[simp] theorem State.modPeer_clusters (d : Nat) (f : Peer → Peer) : (s.modPeer d f).clusters = s.clusters := rfl
@[simp] theorem State.modPeer_code (d : Nat) (f : Peer → Peer) : (s.modPeer d f).code = s.code := rfl
@[simp] theorem State.modPeer_gangs (d : Nat) (f : Peer → Peer) : (s.modPeer d f).gangs = s.gangs := rfl
@[simp] theorem State.modPeer_dies (d : Nat) (f : Peer → Peer) : (s.modPeer d f).dies = s.dies := rfl
@[simp] theorem State.modPeer_flight (d : Nat) (f : Peer → Peer) : (s.modPeer d f).flight = s.flight := rfl
@[simp] theorem State.modPeer_hostOut (d : Nat) (f : Peer → Peer) : (s.modPeer d f).hostOut = s.hostOut := rfl
@[simp] theorem State.modPeer_xfers (d : Nat) (f : Peer → Peer) : (s.modPeer d f).xfers = s.xfers := rfl
@[simp] theorem State.modPeer_arrivals (d : Nat) (f : Peer → Peer) : (s.modPeer d f).arrivals = s.arrivals := rfl
@[simp] theorem State.modPeer_indexes (d : Nat) (f : Peer → Peer) : (s.modPeer d f).indexes = s.indexes := rfl
@[simp] theorem State.modPeer_mgmt (d : Nat) (f : Peer → Peer) : (s.modPeer d f).mgmt = s.mgmt := rfl

/-! ## `setByte` -/

@[simp] theorem State.setByte_agenda (key : Nat) (b : Byte) : (s.setByte key b).agenda = s.agenda := rfl
@[simp] theorem State.setByte_cur (key : Nat) (b : Byte) : (s.setByte key b).cur = s.cur := rfl
@[simp] theorem State.setByte_tick (key : Nat) (b : Byte) : (s.setByte key b).tick = s.tick := rfl
@[simp] theorem State.setByte_cycle (key : Nat) (b : Byte) : (s.setByte key b).cycle = s.cycle := rfl
@[simp] theorem State.setByte_poison (key : Nat) (b : Byte) : (s.setByte key b).poison = s.poison := rfl
@[simp] theorem State.setByte_cores (key : Nat) (b : Byte) : (s.setByte key b).cores = s.cores := rfl
@[simp] theorem State.setByte_ctxs (key : Nat) (b : Byte) : (s.setByte key b).ctxs = s.ctxs := rfl
@[simp] theorem State.setByte_counters (key : Nat) (b : Byte) : (s.setByte key b).counters = s.counters := rfl
@[simp] theorem State.setByte_clusters (key : Nat) (b : Byte) : (s.setByte key b).clusters = s.clusters := rfl
@[simp] theorem State.setByte_code (key : Nat) (b : Byte) : (s.setByte key b).code = s.code := rfl
@[simp] theorem State.setByte_gangs (key : Nat) (b : Byte) : (s.setByte key b).gangs = s.gangs := rfl
@[simp] theorem State.setByte_dies (key : Nat) (b : Byte) : (s.setByte key b).dies = s.dies := rfl
@[simp] theorem State.setByte_flight (key : Nat) (b : Byte) : (s.setByte key b).flight = s.flight := rfl
@[simp] theorem State.setByte_hostOut (key : Nat) (b : Byte) : (s.setByte key b).hostOut = s.hostOut := rfl
@[simp] theorem State.setByte_xfers (key : Nat) (b : Byte) : (s.setByte key b).xfers = s.xfers := rfl
@[simp] theorem State.setByte_arrivals (key : Nat) (b : Byte) : (s.setByte key b).arrivals = s.arrivals := rfl
@[simp] theorem State.setByte_indexes (key : Nat) (b : Byte) : (s.setByte key b).indexes = s.indexes := rfl
@[simp] theorem State.setByte_fab (key : Nat) (b : Byte) : (s.setByte key b).fab = s.fab := rfl
@[simp] theorem State.setByte_mgmt (key : Nat) (b : Byte) : (s.setByte key b).mgmt = s.mgmt := rfl

/-! ## `setPoison` -/

@[simp] theorem State.setPoison_agenda (key : Nat) (p : Bool) : (s.setPoison key p).agenda = s.agenda := rfl
@[simp] theorem State.setPoison_cur (key : Nat) (p : Bool) : (s.setPoison key p).cur = s.cur := rfl
@[simp] theorem State.setPoison_tick (key : Nat) (p : Bool) : (s.setPoison key p).tick = s.tick := rfl
@[simp] theorem State.setPoison_cycle (key : Nat) (p : Bool) : (s.setPoison key p).cycle = s.cycle := rfl
@[simp] theorem State.setPoison_mem (key : Nat) (p : Bool) : (s.setPoison key p).mem = s.mem := rfl
@[simp] theorem State.setPoison_cores (key : Nat) (p : Bool) : (s.setPoison key p).cores = s.cores := rfl
@[simp] theorem State.setPoison_ctxs (key : Nat) (p : Bool) : (s.setPoison key p).ctxs = s.ctxs := rfl
@[simp] theorem State.setPoison_counters (key : Nat) (p : Bool) : (s.setPoison key p).counters = s.counters := rfl
@[simp] theorem State.setPoison_clusters (key : Nat) (p : Bool) : (s.setPoison key p).clusters = s.clusters := rfl
@[simp] theorem State.setPoison_code (key : Nat) (p : Bool) : (s.setPoison key p).code = s.code := rfl
@[simp] theorem State.setPoison_gangs (key : Nat) (p : Bool) : (s.setPoison key p).gangs = s.gangs := rfl
@[simp] theorem State.setPoison_dies (key : Nat) (p : Bool) : (s.setPoison key p).dies = s.dies := rfl
@[simp] theorem State.setPoison_flight (key : Nat) (p : Bool) : (s.setPoison key p).flight = s.flight := rfl
@[simp] theorem State.setPoison_hostOut (key : Nat) (p : Bool) : (s.setPoison key p).hostOut = s.hostOut := rfl
@[simp] theorem State.setPoison_xfers (key : Nat) (p : Bool) : (s.setPoison key p).xfers = s.xfers := rfl
@[simp] theorem State.setPoison_arrivals (key : Nat) (p : Bool) : (s.setPoison key p).arrivals = s.arrivals := rfl
@[simp] theorem State.setPoison_indexes (key : Nat) (p : Bool) : (s.setPoison key p).indexes = s.indexes := rfl
@[simp] theorem State.setPoison_fab (key : Nat) (p : Bool) : (s.setPoison key p).fab = s.fab := rfl
@[simp] theorem State.setPoison_mgmt (key : Nat) (p : Bool) : (s.setPoison key p).mgmt = s.mgmt := rfl

/-! ## Reading after an update -/

@[simp] theorem State.core_modCore (c : Nat) (f : Core → Core) : (s.modCore c f).core c = f (s.core c) :=
  Sparse.get_modify_self ..
theorem State.core_modCore_of_ne {c c' : Nat} (f : Core → Core) (h : c ≠ c') : (s.modCore c f).core c' = s.core c' :=
  Sparse.get_modify_of_ne _ _ _ h
@[simp] theorem State.ctx_modCtx (k : Nat) (f : Ctx → Ctx) : (s.modCtx k f).ctx k = f (s.ctx k) :=
  Sparse.get_modify_self ..
theorem State.ctx_modCtx_of_ne {k k' : Nat} (f : Ctx → Ctx) (h : k ≠ k') : (s.modCtx k f).ctx k' = s.ctx k' :=
  Sparse.get_modify_of_ne _ _ _ h
@[simp] theorem State.die_modDie (d : Nat) (f : Die → Die) : (s.modDie d f).die d = f (s.die d) :=
  Sparse.get_modify_self ..
theorem State.die_modDie_of_ne {d d' : Nat} (f : Die → Die) (h : d ≠ d') : (s.modDie d f).die d' = s.die d' :=
  Sparse.get_modify_of_ne _ _ _ h
@[simp] theorem State.gang_modGang (g : Nat) (f : Gang → Gang) : (s.modGang g f).gang g = f (s.gang g) :=
  Sparse.get_modify_self ..
@[simp] theorem State.cluster_modCluster (k : Nat) (f : Cluster → Cluster) : (s.modCluster k f).cluster k = f (s.cluster k) :=
  Sparse.get_modify_self ..
@[simp] theorem State.counter_setCounter (k : Nat) (v : Counter) : (s.setCounter k v).counter k = v :=
  Sparse.get_set_self ..
theorem State.counter_setCounter_of_ne {k k' : Nat} (v : Counter) (h : k ≠ k') :
    (s.setCounter k v).counter k' = s.counter k' :=
  Sparse.get_set_of_ne _ _ _ h
@[simp] theorem State.link_modLink (n : Nat) (f : Link → Link) : (s.modLink n f).link n = f (s.link n) :=
  Sparse.get_modify_self ..
@[simp] theorem State.peer_modPeer (d : Nat) (f : Peer → Peer) : (s.modPeer d f).peer d = f (s.peer d) :=
  Sparse.get_modify_self ..

/-! An update that leaves a table alone leaves its readers alone. -/

theorem State.core_congr {s t : State} (h : t.cores = s.cores) (c : Nat) : t.core c = s.core c := by
  simp only [State.core, h]
theorem State.ctx_congr {s t : State} (h : t.ctxs = s.ctxs) (k : Nat) : t.ctx k = s.ctx k := by
  simp only [State.ctx, h]
theorem State.die_congr {s t : State} (h : t.dies = s.dies) (d : Nat) : t.die d = s.die d := by
  simp only [State.die, h]
theorem State.counter_congr {s t : State} (h : t.counters = s.counters) (k : Nat) : t.counter k = s.counter k := by
  simp only [State.counter, h]
theorem State.byte_congr {s t : State} (h : t.mem = s.mem) (a : Nat) : t.byte a = s.byte a := by
  simp only [State.byte, h]
theorem State.poisoned_congr {s t : State} (h : t.poison = s.poison) (a : Nat) : t.poisoned a = s.poisoned a := by
  simp only [State.poisoned, h]

@[simp] theorem State.core_modCtx (k : Nat) (f : Ctx → Ctx) (c : Nat) : (s.modCtx k f).core c = s.core c := rfl
@[simp] theorem State.core_modDie (d : Nat) (f : Die → Die) (c : Nat) : (s.modDie d f).core c = s.core c := rfl
@[simp] theorem State.core_setCounter (k : Nat) (v : Counter) (c : Nat) : (s.setCounter k v).core c = s.core c := rfl
@[simp] theorem State.core_modGang (g : Nat) (f : Gang → Gang) (c : Nat) : (s.modGang g f).core c = s.core c := rfl
@[simp] theorem State.core_modFab (f : Fab → Fab) (c : Nat) : (s.modFab f).core c = s.core c := rfl
@[simp] theorem State.core_modMgmt (f : Mgmt → Mgmt) (c : Nat) : (s.modMgmt f).core c = s.core c := rfl
@[simp] theorem State.core_setByte (key : Nat) (b : Byte) (c : Nat) : (s.setByte key b).core c = s.core c := rfl
@[simp] theorem State.core_setPoison (key : Nat) (p : Bool) (c : Nat) : (s.setPoison key p).core c = s.core c := rfl
@[simp] theorem State.ctx_modCore (c : Nat) (f : Core → Core) (k : Nat) : (s.modCore c f).ctx k = s.ctx k := rfl
@[simp] theorem State.ctx_modDie (d : Nat) (f : Die → Die) (k : Nat) : (s.modDie d f).ctx k = s.ctx k := rfl
@[simp] theorem State.ctx_putCur (sl : Slot) (k : Nat) : (s.putCur sl).ctx k = s.ctx k := rfl
@[simp] theorem State.die_modCore (c : Nat) (f : Core → Core) (d : Nat) : (s.modCore c f).die d = s.die d := rfl
@[simp] theorem State.counter_modCore (c : Nat) (f : Core → Core) (k : Nat) : (s.modCore c f).counter k = s.counter k := rfl

/-! ## Slots -/

@[simp] theorem State.slot_setSlot (c k : Nat) (o : Option Slot) : (s.setSlot c k o).slot c k = o := by
  simp [State.slot, State.setSlot]
theorem State.slot_setSlot_of_ne {k k' : Nat} (c : Nat) (o : Option Slot) (h : k ≠ k') :
    (s.setSlot c k o).slot c k' = s.slot c k' := by
  simp [State.slot, State.setSlot, Sparse.get_set_of_ne _ _ _ h]
theorem State.slot_setSlot_of_core_ne {c c' : Nat} (k k' : Nat) (o : Option Slot) (h : c ≠ c') :
    (s.setSlot c k o).slot c' k' = s.slot c' k' := by
  simp [State.slot, State.setSlot, State.core_modCore_of_ne _ _ h]
@[simp] theorem State.slot_modSlot (c k : Nat) (f : Slot → Slot) : (s.modSlot c k f).slot c k = (s.slot c k).map f := by
  simp [State.slot, State.modSlot]
theorem State.slot_modSlot_of_ne {k k' : Nat} (c : Nat) (f : Slot → Slot) (h : k ≠ k') :
    (s.modSlot c k f).slot c k' = s.slot c k' := by
  simp [State.slot, State.modSlot, Sparse.get_modify_of_ne _ _ _ h]
@[simp] theorem State.curSlot_putCur (sl : Slot) : (s.putCur sl).curSlot = some sl := by
  simp [State.curSlot, State.putCur]
@[simp] theorem State.byte_putCur (sl : Slot) (a : Nat) : (s.putCur sl).byte a = s.byte a := rfl

/-! ## Memory -/

@[simp] theorem State.byte_setByte (key : Nat) (b : Byte) : (s.setByte key b).byte key = b := Sparse.get_set_self ..
theorem State.byte_setByte_of_ne {key key' : Nat} (b : Byte) (h : key ≠ key') :
    (s.setByte key b).byte key' = s.byte key' := Sparse.get_set_of_ne _ _ _ h

end Sys2Proof.Machine
end

