-- ==== Sys2Proof/Laws/Operands.lean ====
section
/-! SUPPORT. What writing a register, ageing pending writes and retiring an instruction do, each said once. -/

namespace Sys2Proof.Machine

@[simp] theorem lane_lanesOf (f : Nat → BitVec 32) {l : Nat} (h : l < 16) : lane (lanesOf f) l = f l := by
  simp [lane, lanesOf, h]

namespace Slot

/-! ## One register write -/

/-- A write changes the register files alone. -/
theorem write_rest (sl : Slot) (w : RegWrite) :
    sl.write w = { sl with x := (sl.write w).x, v := (sl.write w).v, p := (sl.write w).p } := by
  unfold write; split
  · split <;> rfl
  · split
    · rfl
    · split <;> rfl

theorem writes_rest (sl : Slot) (ws : List RegWrite) :
    sl.writes ws = { sl with x := (sl.writes ws).x, v := (sl.writes ws).v, p := (sl.writes ws).p } := by
  induction ws generalizing sl with
  | nil => rfl
  | cons w ws ih =>
    have h : sl.writes (w :: ws) = (sl.write w).writes ws := rfl
    rw [h]
    conv => lhs; rw [ih (sl.write w)]
    rw [write_rest sl w]

/-- X after a write: the destination if it is an x register other than x0, else as before. -/
theorem getX_write (sl : Slot) (w : RegWrite) (r : Reg) :
    (sl.write w).getX r = if Reg.isX w.d = true ∧ w.d = r ∧ r ≠ 0 then w.x else sl.getX r := by
  have h0 : ∀ q : Reg, q.toNat = 0 → q = 0 := fun q h => BitVec.eq_of_toNat_eq (by simpa using h)
  unfold write
  by_cases hx : Reg.isX w.d = true
  · by_cases hd : w.d.toNat = 0
    · have hd' := h0 w.d hd
      rw [if_pos hx, if_pos hd, if_neg]
      rintro ⟨-, e, hr⟩
      exact hr (e ▸ hd')
    · rw [if_pos hx, if_neg hd]
      have hd0 : w.d ≠ 0 := fun h => hd (by rw [h]; rfl)
      by_cases hr : w.d = r
      · subst hr
        rw [if_pos ⟨hx, rfl, hd0⟩]
        simp only [getX, hd, ↓reduceIte, Sparse.get_set_self]
      · have hne : w.d.toNat ≠ r.toNat := fun h => hr (BitVec.eq_of_toNat_eq h)
        rw [if_neg (fun h => hr h.2.1)]
        simp only [getX, Sparse.get_set_of_ne _ _ _ hne]
  · rw [if_neg (c := Reg.isX w.d = true ∧ w.d = r ∧ r ≠ 0) (fun h => hx h.1), if_neg hx]
    split
    · rfl
    · split <;> rfl

/-- P after a write. -/
theorem getP_write (sl : Slot) (w : RegWrite) (r : Reg) :
    (sl.write w).getP r = if Reg.isPd w.d = true ∧ w.d = r then w.x.setWidth 16 else sl.getP r := by
  unfold write
  by_cases hx : Reg.isX w.d = true
  · have hp : Reg.isPd w.d = false := by
      simp only [Reg.isX, decide_eq_true_eq] at hx
      simp [Reg.isPd]; omega
    simp only [hx, ↓reduceIte, hp, Bool.false_eq_true, false_and]
    split <;> rfl
  · by_cases hv : Reg.isV w.d = true
    · have hp : Reg.isPd w.d = false := by
        simp only [Reg.isV, Bool.and_eq_true, decide_eq_true_eq] at hv
        simp [Reg.isPd]; omega
      simp [hx, hv, hp, getP]
    · by_cases hp : Reg.isPd w.d = true
      · have h48 : w.d.toNat ≠ 48 := by
          simp only [Reg.isPd, Bool.and_eq_true, decide_eq_true_eq] at hp; omega
        by_cases hr : w.d = r
        · subst hr
          simp [hx, hv, hp, getP, h48]
        · have hne : w.d.toNat ≠ r.toNat := fun h => hr (BitVec.eq_of_toNat_eq h)
          simp [hx, hv, hp, hr, getP, Sparse.get_set_of_ne _ _ _ hne]
      · simp [hx, hv, hp]

/-- V after a write: the lanes of its mask. -/
theorem getV_write (sl : Slot) (w : RegWrite) (r : Reg) {l : Nat} (hl : l < 16) :
    lane ((sl.write w).getV r) l =
      if Reg.isV w.d = true ∧ w.d = r ∧ w.mask.getLsbD l = true then lane w.lanes l else lane (sl.getV r) l := by
  unfold write
  by_cases hx : Reg.isX w.d = true
  · have hv : Reg.isV w.d = false := by
      simp only [Reg.isX, decide_eq_true_eq] at hx
      simp [Reg.isV]; omega
    simp only [hx, ↓reduceIte, hv, Bool.false_eq_true, false_and]
    split <;> rfl
  · by_cases hv : Reg.isV w.d = true
    · by_cases hr : w.d = r
      · subst hr
        simp [hx, hv, getV, mergeLanes, hl]
      · have hne : w.d.toNat ≠ r.toNat := fun h => hr (BitVec.eq_of_toNat_eq h)
        simp [hx, hv, hr, getV, Sparse.get_set_of_ne _ _ _ hne]
    · simp only [hx, Bool.false_eq_true, ↓reduceIte, hv, false_and]
      split <;> rfl

/-! ## A write as one value (R73, R106) -/

@[simp] theorem whole_d (old : Lanes) (w : RegWrite) : (w.whole old).d = w.d := by unfold RegWrite.whole; split <;> rfl
@[simp] theorem whole_x (old : Lanes) (w : RegWrite) : (w.whole old).x = w.x := by unfold RegWrite.whole; split <;> rfl

/-- A lane of a vector write that is one value: its own where it acts, else the register's. -/
theorem whole_lane (old : Lanes) (w : RegWrite) (hv : Reg.isV w.d = true) (hm0 : w.mask ≠ 0) {l : Nat} (hl : l < 16) :
    (w.whole old).mask.getLsbD l = true ∧
      lane (w.whole old).lanes l = if w.mask.getLsbD l = true then lane w.lanes l else lane old l := by
  have hm : (0xFFFF#16).getLsbD l = true := (by decide : ∀ l : Fin 16, (0xFFFF#16).getLsbD l.val = true) ⟨l, hl⟩
  rw [RegWrite.whole, if_pos ⟨hv, hm0⟩]; simp [mergeLanes, hl, hm]

/-- A vector write without a lane. -/
theorem whole_none (old : Lanes) (w : RegWrite) (h : w.mask = 0) : w.whole old = w := by simp [RegWrite.whole, h]

/-! ## Ageing and retiring -/

/-- Ageing changes the register files and the pending writes alone. -/
theorem age_rest (sl : Slot) :
    sl.age = { sl with x := sl.age.x, v := sl.age.v, p := sl.age.p, late := sl.age.late } := by
  unfold age
  simp only
  conv => lhs; rw [writes_rest]

@[simp] theorem age_landing (sl : Slot) : sl.age.landing = sl.landing := by rw [age_rest]
@[simp] theorem age_pc (sl : Slot) : sl.age.pc = sl.pc := by rw [age_rest]
@[simp] theorem age_sig (sl : Slot) : sl.age.sig = sl.sig := by rw [age_rest]

/-- A slot with nothing pending ages to itself. -/
theorem age_of_late_nil {sl : Slot} (h : sl.late = []) : sl.age = sl := by
  cases sl; subst h; rfl

theorem wr_none (sl : Slot) (u : Ctl) : sl.wr u none = sl.age := rfl

/-- Retiring with a register write. -/
theorem retired_wr (i : Instr) (u : Ctl) (w : RegWrite) (sl : Slot) : Retired i u w sl ((sl.wr u (some w)).advance i) := by
  by_cases ha : u.at' = 0
  · by_cases hp : u.pd = 0
    · have e : sl.wr u (some w) = sl.age.write (w.whole (sl.getV w.d)) := by simp [wr, ha, hp]
      have r1 := write_rest sl.age (w.whole (sl.getV w.d))
      have r2 := age_rest sl
      rw [e]
      constructor
      · intro r; simpa [atOnce, ha, hp, advance, getX] using getX_write sl.age (w.whole (sl.getV w.d)) r
      · intro r l hl
        have h := getV_write sl.age (w.whole (sl.getV w.d)) r hl
        by_cases hv : Reg.isV w.d = true ∧ w.d = r ∧ w.mask ≠ 0
        · obtain ⟨hv, rfl, hm⟩ := hv
          obtain ⟨h1, h2⟩ := whole_lane (sl.getV w.d) w hv hm hl
          have hp' : Reg.isV (w.whole (sl.getV w.d)).d = true ∧ (w.whole (sl.getV w.d)).d = w.d ∧
              (w.whole (sl.getV w.d)).mask.getLsbD l = true := ⟨by rw [whole_d]; exact hv, whole_d _ _, h1⟩
          rw [if_pos hp', h2] at h
          rw [if_pos (show atOnce u = true ∧ Reg.isV w.d = true ∧ w.d = w.d ∧ w.mask ≠ 0 from ⟨by simp [atOnce, ha, hp], hv, rfl, hm⟩)]
          exact h
        · have hn : ¬ (Reg.isV (w.whole (sl.getV w.d)).d = true ∧ (w.whole (sl.getV w.d)).d = r ∧
              (w.whole (sl.getV w.d)).mask.getLsbD l = true) := by
            rw [whole_d]; intro h
            by_cases hm : w.mask = 0
            · rw [whole_none _ _ hm, hm] at h; simp at h
            · exact hv ⟨h.1, h.2.1, hm⟩
          rw [if_neg hn] at h
          have hn' : ¬ (atOnce u = true ∧ Reg.isV w.d = true ∧ w.d = r ∧ w.mask ≠ 0) := fun h => hv h.2
          rw [if_neg hn']
          exact h
      · intro r; simpa [atOnce, ha, hp, advance, getP] using getP_write sl.age (w.whole (sl.getV w.d)) r
      · simp only [advance, ha, hp, ne_eq, not_true_eq_false, and_false, ↓reduceIte, List.append_nil]
        rw [r1]
      · simp only [advance, ha, ne_eq, not_true_eq_false, ↓reduceIte, List.append_nil]
        rw [r1, age_landing]
      · simp only [advance]; rw [r1, age_pc]
      · simp only [advance]; rw [r1, age_sig]
      · simp only [advance]; rw [r1, r2]
    · have e : sl.wr u (some w) = { sl.age with late := sl.age.late ++ [(u.pd.toNat, w.whole (sl.getV w.d))] } := by
        simp only [wr, ha, ne_eq, not_true_eq_false, ↓reduceIte, if_neg hp]
      have hn : atOnce u = false := by simp only [atOnce, decide_eq_false hp, Bool.and_false]
      have r2 := age_rest sl
      rw [e]
      constructor
      · intro r; simp [hn, advance, getX]
      · intro r l _; simp [hn, advance, getV]
      · intro r; simp [hn, advance, getP]
      · simp only [advance, if_pos (⟨ha, hp⟩ : u.at' = 0 ∧ u.pd ≠ 0)]
      · simp [advance, ha]
      · simp [advance]
      · simp [advance]
      · simp only [advance]; rw [r2]
  · have e : sl.wr u (some w) = { sl.age with landing := sl.landing ++ [{ tag := u.at', pc := sl.pc, st := .ready (w.whole (sl.getV w.d)) }] } := by
      simp only [wr, ne_eq, if_pos ha]
    have hn : atOnce u = false := by simp only [atOnce, decide_eq_false ha, Bool.false_and]
    have r2 := age_rest sl
    rw [e]
    constructor
    · intro r; simp [hn, advance, getX]
    · intro r l _; simp [hn, advance, getV]
    · intro r; simp [hn, advance, getP]
    · simp only [advance, ha, false_and, ↓reduceIte, List.append_nil]
    · simp only [advance, ne_eq, if_pos ha]
    · simp [advance]
    · simp [advance]
    · simp only [advance]; rw [r2]

/-- Retiring without a register write. -/
theorem advanced_age (i : Instr) (sl : Slot) : Advanced i sl (sl.age.advance i) :=
  ⟨by simp [advance], by simp [advance], rfl⟩

end Slot

/-! ## Putting the current slot back -/

theorem SameMem.refl (s : State) : SameMem s s := ⟨fun _ => rfl, fun _ => rfl⟩

/-- Putting the current slot back changes that slot alone. -/
theorem onlySlot_putCur (s : State) (sl : Slot) : OnlySlot s (s.putCur sl) s.cur.1 s.cur.2 := by
  constructor
  · rfl
  · exact ⟨fun _ => rfl, fun _ => rfl⟩
  · intro c' h; exact State.core_modCore_of_ne s _ (Ne.symm h)
  · simp only [State.putCur, State.setSlot, State.core_modCore]
  · intro k' h; exact State.slot_setSlot_of_ne s _ _ (Ne.symm h)

/-- A retired register write completes an instruction whose `exec` is that retirement. -/
theorem writes_of_retire {i j : Instr} {u : Ctl} {s : State} {sl : Slot} {w : RegWrite}
    (h : exec i s = .next (s.retire j u (some w) sl)) (hj : j = i) : Writes i u s sl w :=
  ⟨_, _, h, onlySlot_putCur s _, State.curSlot_putCur s _, hj ▸ Slot.retired_wr _ u w sl⟩

/-! ## Issuing -/

/-- Consuming tags opens and closes no region. -/
theorem Slot.consume_region {ts : List (BitVec 3)} {sl0 sl : Slot} (h : sl0.consume ts = .done sl) : sl.region = sl0.region := by
  induction ts generalizing sl0 with
  | nil => simp only [Slot.consume, Await.done.injEq] at h; rw [h]
  | cons t ts ih =>
    simp only [Slot.consume] at h
    split at h
    · cases h
    · split at h
      · cases h
      · have e := ih h
        rw [e]
        have r := Slot.writes_rest sl0 ((sl0.landed t).filterMap Land.write?)
        change (sl0.writes _).region = sl0.region
        rw [r]

/-- Outside a region no tag is that of a region's load. -/
theorem Slot.regionTag_none {sl : Slot} (u : Ctl) (h : sl.region = none) : sl.regionTag u = false := by simp [Slot.regionTag, h]

/-- An instruction that takes effect runs its body on the slot whose tags are consumed. -/
theorem State.issue_of_turn {s : State} {u : Ctl} {how : Under} {sl : Slot} (h : Turn s u how sl) (i : Instr)
    (inRegion : Bool) (body : Slot → State) : s.issue i u how inRegion body = body sl := by
  obtain ⟨⟨sl0, hs, hc⟩, ha, hr, hn⟩ := h
  have hn0 : sl0.region = none := by rw [← Slot.consume_region hc]; exact hn
  simp only [State.issue, hs, Slot.regionTag_none u hn0, hc, ha, hn]
  rcases hr with hr | hr <;> simp [hr]

/-- Without a consumed tag outstanding, an instruction whose predicate does not let it act only retires (R86). -/
theorem State.issue_of_not_acts {s : State} {u : Ctl} {how : Under} {sl0 sl : Slot} (hs : s.curSlot = some sl0) (hr : sl0.region = none)
    (hc : sl0.consume (Slot.tagsOf u.ct) = .done sl) (ha : sl.acts u how = false) (i : Instr) (inRegion : Bool)
    (body : Slot → State) : s.issue i u how inRegion body = s.retire i u none sl := by
  simp [State.issue, hs, Slot.regionTag_none u hr, hc, ha]

end Sys2Proof.Machine
end

