-- ==== Sys2Proof/Laws/Memory.lean ====
section
/-! SUPPORT. The laws of memory: every operation keeps the canonical form, a read after a write gives the bytes written and
other bytes are left alone; what the pool port's acceptance of a store does. -/

namespace Sys2Proof.Machine

/-! ## The canonical form -/

theorem reset_wf : Memory.wf State.reset.mem = true := rfl

/-- Writing a byte keeps the canonical form. -/
theorem setByte_wf {s : State} (h : Memory.wf s.mem = true) (key : Nat) (b : Byte) : Memory.wf (s.setByte key b).mem = true :=
  Sparse.wf_set 0 h key b

/-- Writing bytes keeps it. -/
theorem setBytes_wf {s : State} (h : Memory.wf s.mem = true) (bs : List (Nat × Byte)) :
    Memory.wf (s.setBytes bs).mem = true := by
  induction bs generalizing s with
  | nil => exact h
  | cons b bs ih => exact ih (setByte_wf h b.1 b.2)

/-- Writing a word keeps it. -/
theorem setWord_wf {s : State} (h : Memory.wf s.mem = true) (key : Nat) (w : Word) : Memory.wf (s.setWord key w).mem = true :=
  setBytes_wf h _

/-- Forgetting bytes keeps it. -/
theorem filter_wf {s : State} (h : Memory.wf s.mem = true) (p : Host.Cell → Bool) : Memory.wf (s.mem.filter p) = true :=
  Sparse.wf_filter 0 p h

/-- A record leaves memory alone. -/
@[simp] theorem record_mem (s : State) (c : Nat) (r : Rec) : (s.record c r).mem = s.mem := by
  unfold State.record; split <;> rfl
@[simp] theorem record_poison (s : State) (c : Nat) (r : Rec) : (s.record c r).poison = s.poison := by
  unfold State.record; split <;> rfl

/-- A fold over steps that keep a property of the state keeps it. -/
theorem foldl_keeps {α : Type} (P : State → Prop) (f : State → α → State) (h : ∀ s a, P s → P (f s a)) (l : List α)
    {s : State} (hs : P s) : P (l.foldl f s) := by
  induction l generalizing s with
  | nil => exact hs
  | cons a l ih => exact ih (h s a hs)

/-- A fold over steps that leave a part of the state alone leaves it alone. -/
theorem foldl_same {α β : Type} (p : State → β) (f : State → α → State) (h : ∀ s a, p (f s a) = p s) (l : List α)
    (s : State) : p (l.foldl f s) = p s := by
  induction l generalizing s with
  | nil => rfl
  | cons a l ih => exact (ih _).trans (h s a)

/-- Dropping what the instruction caches hold changes nothing else. -/
theorem dropCode_rest (s : State) (keys : List Nat) : s.dropCode keys = { s with code := (s.dropCode keys).code } := by
  unfold State.dropCode; split <;> rfl
@[simp] theorem dropCode_mem (s : State) (keys : List Nat) : (s.dropCode keys).mem = s.mem := by rw [dropCode_rest]
@[simp] theorem dropCode_poison (s : State) (keys : List Nat) : (s.dropCode keys).poison = s.poison := by rw [dropCode_rest]

/-- Performing a store keeps the canonical form. -/
theorem writeMem_wf {s : State} (h : Memory.wf s.mem = true) (c : Nat) (bs : List (Nat × Nat × Byte)) :
    Memory.wf (s.writeMem c bs).mem = true := by
  unfold State.writeMem
  rw [foldl_same State.mem _ (fun t va => record_mem t c _)]
  rw [foldl_same State.mem _ (fun t e => by split <;> rfl)]
  exact foldl_keeps (fun t => Memory.wf t.mem = true) _ (fun t e ht => setByte_wf ht _ _) _ (by rw [dropCode_mem]; exact h)

theorem bankStore_wf {s : State} (h : Memory.wf s.mem = true) (e : Staged) : Memory.wf (s.bankStore e).mem = true := by
  unfold State.bankStore
  split
  · rw [foldl_same State.mem _ (fun t b => by rfl)]; exact writeMem_wf h _ _
  · exact writeMem_wf h _ _

/-- Everything staged at a port reaching its bank keeps the canonical form. -/
theorem bankFlush_wf {s : State} (h : Memory.wf s.mem = true) (t : Nat) : Memory.wf (s.bankFlush t).mem = true :=
  foldl_keeps (fun t => Memory.wf t.mem = true) _ (fun _ e ht => bankStore_wf ht e) _ h

/-! ## Reading after writing -/

/-- Bytes written at keys other than `a` leave the byte at `a` alone. -/
theorem byte_setBytes_of_not_mem (s : State) (bs : List (Nat × Byte)) (a : Nat) (h : ∀ e ∈ bs, e.1 ≠ a) :
    (s.setBytes bs).byte a = s.byte a := by
  induction bs generalizing s with
  | nil => rfl
  | cons b bs ih =>
    have h1 : (s.setBytes (b :: bs)) = (s.setByte b.1 b.2).setBytes bs := rfl
    rw [h1, ih _ (fun e he => h e (List.mem_cons_of_mem _ he))]
    exact State.byte_setByte_of_ne s _ (h b List.mem_cons_self)

/-- The last byte written at a key is what it reads. -/
theorem byte_setBytes_last (s : State) (bs cs : List (Nat × Byte)) (a : Nat) (b : Byte) (h : ∀ e ∈ cs, e.1 ≠ a) :
    (s.setBytes (bs ++ (a, b) :: cs)).byte a = b := by
  have h1 : s.setBytes (bs ++ (a, b) :: cs) = ((s.setBytes bs).setByte a b).setBytes cs := by
    simp [State.setBytes, List.foldl_append]
  rw [h1, byte_setBytes_of_not_mem _ _ _ h, State.byte_setByte]

/-! ## The pool port -/

/-- A pool key belongs to its core. -/
theorem keyCore_poolKey {c off : Nat} (h : off < 2 ^ 18) : keyCore (poolKey c off) = c := by
  unfold keyCore poolKey; omega

/-- The scratchpad is smaller than the pool. -/
theorem scrBytes_lt (s : State) (c : Nat) : s.scrBytes c < 2 ^ 18 := by
  unfold State.scrBytes partScr; omega

theorem mem_eraseDups (a : Nat) (n : Nat) : ∀ l : List Nat, l.length ≤ n → (a ∈ l.eraseDups ↔ a ∈ l) := by
  induction n with
  | zero => intro l h; rw [List.eq_nil_of_length_eq_zero (Nat.le_zero.1 h)]; simp
  | succ n ih =>
    intro l h
    cases l with
    | nil => simp
    | cons b l =>
      rw [List.eraseDups_cons, List.mem_cons, ih _ (Nat.le_trans (List.length_filter_le _ _) (Nat.le_of_succ_le_succ h))]
      by_cases hab : a = b <;> simp [hab]

theorem nodup_eraseDups (n : Nat) : ∀ l : List Nat, l.length ≤ n → l.eraseDups.Nodup := by
  induction n with
  | zero => intro l h; rw [List.eq_nil_of_length_eq_zero (Nat.le_zero.1 h)]; simp
  | succ n ih =>
    intro l h
    cases l with
    | nil => simp
    | cons b l =>
      have hl : (l.filter (fun x => !x == b)).length ≤ n :=
        Nat.le_trans (List.length_filter_le _ _) (Nat.le_of_succ_le_succ h)
      rw [List.eraseDups_cons, List.nodup_cons, mem_eraseDups b n _ hl]
      exact ⟨by simp, ih _ hl⟩

/-- The staged write that acceptance adds at owner `o`. -/
def stagedAt (s : State) (c act : Nat) (bs : List (Nat × Nat × Byte)) (o : Nat) : Staged :=
  let mine := bs.filter (fun e => decide (keyCore e.2.1 = o))
  { core := c, act := act, id := (s.core c).nextEntry, bytes := mine }

/-- A fold of updates of distinct cores updates each of them once. -/
theorem core_foldl_modCore (f : Nat → Core → Core) (os : List Nat) (hos : os.Nodup) (s : State) (c : Nat) :
    (os.foldl (fun t o => t.modCore o (f o)) s).core c = if c ∈ os then f c (s.core c) else s.core c := by
  induction os generalizing s with
  | nil => simp
  | cons o os ih =>
    simp only [List.nodup_cons] at hos
    rw [List.foldl_cons, ih hos.2]
    by_cases h : o = c
    · subst h
      simp [hos.1]
    · rw [State.core_modCore_of_ne _ _ h]
      simp [Ne.symm h]

/-- A fold of updates of cores leaves everything else alone. -/
theorem foldl_modCore_rest (f : Nat → Core → Core) (os : List Nat) (s : State) :
    os.foldl (fun t o => t.modCore o (f o)) s = { s with cores := (os.foldl (fun t o => t.modCore o (f o)) s).cores } := by
  induction os generalizing s with
  | nil => rfl
  | cons o os ih => rw [List.foldl_cons, ih]; rfl

/-- Acceptance changes the stages alone, and adds one staged write at each owner. -/
theorem accept_core (s : State) (c act : Nat) (bs : List (Nat × Nat × Byte)) (o : Nat) :
    (s.accept c act bs).core o =
      if o ∈ owners bs then { s.core o with stage := (s.core o).stage ++ [stagedAt s c act bs o] } else s.core o :=
  core_foldl_modCore (fun o co => { co with stage := co.stage ++ [stagedAt s c act bs o] }) (owners bs)
    (nodup_eraseDups _ _ (Nat.le_refl _)) s o

theorem accept_rest (s : State) (c act : Nat) (bs : List (Nat × Nat × Byte)) :
    s.accept c act bs = { s with cores := (s.accept c act bs).cores } :=
  foldl_modCore_rest (fun o co => { co with stage := co.stage ++ [stagedAt s c act bs o] }) (owners bs) s

/-- What the stage gives a reader after one more staged write. -/
theorem stagedByte_append (st : List Staged) (e : Staged) (c act key : Nat) :
    stagedByte (st ++ [e]) c act key =
      ((if e.core = c ∧ e.act = act then
        (e.bytes.reverse.find? (fun b => decide (b.2.1 = key))).map (fun b => (b.2.2, e.poison)) else none).or
        (stagedByte st c act key)) := by
  simp only [stagedByte, List.reverse_append, List.reverse_cons, List.reverse_nil, List.nil_append, List.singleton_append,
    List.findSome?_cons]
  split
  · next h => rw [h]; rfl
  · next h => rw [h]; rfl

/-- The port's acceptance of a store: the storing activation reads its bytes, nobody else does, no bank changes (R227). -/
theorem poolStored_accept (s : State) (c act : Nat) (bs : List (Nat × Nat × Byte)) :
    PoolStored s (s.accept c act bs) c act bs := by
  have hr := accept_rest s c act bs
  have hmem : (s.accept c act bs).mem = s.mem := by rw [hr]
  have hpoi : (s.accept c act bs).poison = s.poison := by rw [hr]
  have hc := accept_core s c act bs
  have hb : ∀ a, (s.accept c act bs).byte a = s.byte a := fun a => State.byte_congr hmem a
  have hp : ∀ a, (s.accept c act bs).poisoned a = s.poisoned a := fun a => State.poisoned_congr hpoi a
  have hscr : ∀ o, (s.accept c act bs).scrBytes o = s.scrBytes o := fun o => by
    simp only [State.scrBytes, hc]; split <;> rfl
  have hlost : ∀ o, ((s.accept c act bs).core o).lost = (s.core o).lost := fun o => by rw [hc]; split <;> rfl
  have hstage : ∀ o, ((s.accept c act bs).core o).stage =
      if o ∈ owners bs then (s.core o).stage ++ [stagedAt s c act bs o] else (s.core o).stage := fun o => by
    rw [hc]; split <;> rfl
  refine ⟨⟨hb, hp⟩, ?_, ?_⟩
  · intro o off hoff
    have h18 : off < 2 ^ 18 := Nat.lt_trans hoff (scrBytes_lt s o)
    have hk := keyCore_poolKey (c := o) h18
    have hn : ¬ s.scrBytes o ≤ off := Nat.not_le.2 hoff
    simp only [State.poolByte, hscr, hn, ↓reduceIte, hb, hp, hlost, hstage]
    have hfilter : (bs.filter (fun e => decide (keyCore e.2.1 = o))).reverse.find? (fun e => decide (e.2.1 = poolKey o off)) =
        bs.reverse.find? (fun e => decide (e.2.1 = poolKey o off)) := by
      rw [← List.filter_reverse, List.find?_filter]
      congr 1
      funext e
      by_cases he : e.2.1 = poolKey o off
      · simp [he, hk]
      · simp [he]
    by_cases ho : o ∈ owners bs
    · simp only [ho, ↓reduceIte, stagedByte_append, stagedAt, and_self, hfilter]
      cases hf : bs.reverse.find? (fun e => decide (e.2.1 = poolKey o off)) <;> simp
    · have hf : bs.reverse.find? (fun e => decide (e.2.1 = poolKey o off)) = none := by
        rw [List.find?_eq_none]
        intro e he hek
        simp only [decide_eq_true_eq] at hek
        apply ho
        rw [owners, mem_eraseDups _ _ _ (Nat.le_refl _), List.mem_map]
        exact ⟨e, List.mem_reverse.1 he, by rw [hek, hk]⟩
      simp only [ho, ↓reduceIte, hf]
  · intro c' act' o off hne
    simp only [State.poolByte, hscr, hb, hp, hlost, hstage]
    by_cases ho : o ∈ owners bs
    · have hno : ¬ (c = c' ∧ act = act') := by
        rintro ⟨rfl, rfl⟩; simp at hne
      simp only [ho, ↓reduceIte, stagedByte_append, stagedAt, hno, Option.none_or]
    · simp only [ho, ↓reduceIte]

end Sys2Proof.Machine
end

