-- ==== Sys2Proof/Laws/PerInstr.lean ====
section
/-! SUPPORT. Per-instruction laws of the encoding: the form that a word's OP and FN name is the instruction that was encoded
(Table 4.7), one lemma per constructor. -/

namespace Sys2Proof.Laws

/-- The low bits of a widened value. -/
theorem cut_low {n : Nat} (v : BitVec n) (m : Nat) (h : n ≤ m) : (v.setWidth m).extractLsb' 0 n = v := by
  ext j hj
  have : j < m := by omega
  simp [BitVec.getLsbD_eq_getElem hj, this]

/-- The low part of two widened fields. -/
theorem cut_append_low {a b : Nat} (hi : BitVec a) (lo : BitVec b) (m : Nat) (h : b ≤ m) :
    ((hi ++ lo).setWidth m).extractLsb' 0 b = lo := by
  ext j hj
  have : j < m := by omega
  simp [BitVec.getLsbD_append, hj, BitVec.getLsbD_eq_getElem hj, this]

/-- The high part of two widened fields. -/
theorem cut_append_high {a b : Nat} (hi : BitVec a) (lo : BitVec b) (m : Nat) (h : a + b ≤ m) :
    ((hi ++ lo).setWidth m).extractLsb' b a = hi := by
  ext j hj
  have : b + j < m := by omega
  simp [BitVec.getLsbD_append, BitVec.getLsbD_eq_getElem hj, this]

/-- The low part of two fields. -/
theorem cut_pair_low {a b : Nat} (hi : BitVec a) (lo : BitVec b) : (hi ++ lo).extractLsb' 0 b = lo := by
  ext j hj; simp [BitVec.getLsbD_append, hj, BitVec.getLsbD_eq_getElem hj]

/-- The high part of two fields. -/
theorem cut_pair_high {a b : Nat} (hi : BitVec a) (lo : BitVec b) : (hi ++ lo).extractLsb' b a = hi := by
  ext j hj; simp [BitVec.getLsbD_append, BitVec.getLsbD_eq_getElem hj]

/-- The C field of X (Table 4.3). -/
theorem x_c (c : Reg) (lo : BitVec 7) : (xOf c lo).extractLsb' 7 6 = c := cut_pair_high c lo
/-- A field of the low part of X. -/
theorem x_low (c : Reg) (lo : BitVec 7) (k n : Nat) (h : k + n ≤ 7) : (xOf c lo).extractLsb' k n = lo.extractLsb' k n := by
  ext j hj
  have : k + j < 7 := by omega
  have e : (c ++ lo).getLsbD (k + j) = lo.getLsbD (k + j) := by rw [BitVec.getLsbD_append, if_pos this]
  simpa [xOf] using e
/-- The operation of an FN with a rounding mode. -/
theorem fn_op (rm k : BitVec 2) : (fnOf rm k).extractLsb' 0 2 = k := cut_pair_low rm k
/-- The rounding mode of an FN. -/
theorem fn_rm (rm k : BitVec 2) : (fnOf rm k).extractLsb' 2 2 = rm := cut_pair_high rm k
/-- Every conversion is read back from its code. -/
theorem cvt_code : ∀ k : Cvt, Cvt.ofCode k.code = some k
  | .ff s d => by cases s <;> cases d <;> rfl
  | .fi s k => by cases s <;> cases k <;> rfl
  | .fromInt k d => by cases k <;> cases d <;> rfl
/-- The low part of a 7-bit pair. -/
theorem low_7 (sl : BitVec 2) (pa : BitVec 5) : (sl ++ pa : BitVec 7).extractLsb' 0 5 = pa := cut_pair_low sl pa
/-- The high part of a 7-bit pair. -/
theorem high_7 (sl : BitVec 2) (pa : BitVec 5) : (sl ++ pa : BitVec 7).extractLsb' 5 2 = sl := cut_pair_high sl pa
/-- The fields of the low part of `mquant`. -/
theorem quant_7 : ∀ (loc lay : BitVec 1) (fmt : BitVec 3),
    (((0 : BitVec 2) ++ loc ++ lay ++ fmt : BitVec 7).extractLsb' 0 3 = fmt ∧
     ((0 : BitVec 2) ++ loc ++ lay ++ fmt : BitVec 7).extractLsb' 3 1 = lay ∧
     ((0 : BitVec 2) ++ loc ++ lay ++ fmt : BitVec 7).extractLsb' 4 1 = loc) := by decide

/-- Two fields of 7 and 6 bits in an immediate: the low one. -/
theorem imm_low_7_6 (hi : BitVec 7) (lo : BitVec 6) : ((hi ++ lo : BitVec 13).setWidth 32).extractLsb' 0 6 = lo :=
  cut_append_low hi lo 32 (by decide)
/-- Two fields of 7 and 6 bits in an immediate: the high one. -/
theorem imm_high_7_6 (hi : BitVec 7) (lo : BitVec 6) : ((hi ++ lo : BitVec 13).setWidth 32).extractLsb' 6 7 = hi :=
  cut_append_high hi lo 32 (by decide)

/-- Two fields of 3 and 6 bits in an immediate: the low one. -/
theorem imm_low_3_6 (hi : BitVec 3) (lo : BitVec 6) : ((hi ++ lo : BitVec 9).setWidth 32).extractLsb' 0 6 = lo :=
  cut_append_low hi lo 32 (by decide)
/-- Two fields of 3 and 6 bits in an immediate: the high one. -/
theorem imm_high_3_6 (hi : BitVec 3) (lo : BitVec 6) : ((hi ++ lo : BitVec 9).setWidth 32).extractLsb' 6 3 = hi :=
  cut_append_high hi lo 32 (by decide)

/-- Two fields of 4 and 3 bits in an immediate: the low one. -/
theorem imm_low_4_3 (hi : BitVec 4) (lo : BitVec 3) : ((hi ++ lo : BitVec 7).setWidth 32).extractLsb' 0 3 = lo :=
  cut_append_low hi lo 32 (by decide)
/-- Two fields of 4 and 3 bits in an immediate: the high one. -/
theorem imm_high_4_3 (hi : BitVec 4) (lo : BitVec 3) : ((hi ++ lo : BitVec 7).setWidth 32).extractLsb' 3 4 = hi :=
  cut_append_high hi lo 32 (by decide)

/-- Two fields of 18 and 6 bits in an immediate: the low one. -/
theorem imm_low_18_6 (hi : BitVec 18) (lo : BitVec 6) : ((hi ++ lo : BitVec 24).setWidth 32).extractLsb' 0 6 = lo :=
  cut_append_low hi lo 32 (by decide)
/-- Two fields of 18 and 6 bits in an immediate: the high one. -/
theorem imm_high_18_6 (hi : BitVec 18) (lo : BitVec 6) : ((hi ++ lo : BitVec 24).setWidth 32).extractLsb' 6 18 = hi :=
  cut_append_high hi lo 32 (by decide)

namespace Candidate

/-- The form named by the word of `i` is `i`. -/
def Statement (i : Instr) : Prop := ∀ f, i.fields = some f → f.candidate = some i

theorem illegal : ∀ u, Statement (.illegal u) := fun _ _ h => by cases h; rfl
theorem add : ∀ u d a b, Statement (.add u d a b) := fun _ _ _ _ _ h => by cases h; rfl
theorem sub : ∀ u d a b, Statement (.sub u d a b) := fun _ _ _ _ _ h => by cases h; rfl
theorem mul : ∀ u d a b, Statement (.mul u d a b) := fun _ _ _ _ _ h => by cases h; rfl
theorem mulhI : ∀ u d a b, Statement (.mulhI u d a b) := fun _ _ _ _ _ h => by cases h; rfl
theorem mulhN : ∀ u d a b, Statement (.mulhN u d a b) := fun _ _ _ _ _ h => by cases h; rfl
theorem divI : ∀ u d a b, Statement (.divI u d a b) := fun _ _ _ _ _ h => by cases h; rfl
theorem divN : ∀ u d a b, Statement (.divN u d a b) := fun _ _ _ _ _ h => by cases h; rfl
theorem remI : ∀ u d a b, Statement (.remI u d a b) := fun _ _ _ _ _ h => by cases h; rfl
theorem remN : ∀ u d a b, Statement (.remN u d a b) := fun _ _ _ _ _ h => by cases h; rfl
theorem addImm : ∀ u d a imm, Statement (.addImm u d a imm) := fun _ _ _ _ _ h => by cases h; rfl
theorem subImm : ∀ u d a imm, Statement (.subImm u d a imm) := fun _ _ _ _ _ h => by cases h; rfl
theorem mulImm : ∀ u d a imm, Statement (.mulImm u d a imm) := fun _ _ _ _ _ h => by cases h; rfl
theorem mulhIImm : ∀ u d a imm, Statement (.mulhIImm u d a imm) := fun _ _ _ _ _ h => by cases h; rfl
theorem mulhNImm : ∀ u d a imm, Statement (.mulhNImm u d a imm) := fun _ _ _ _ _ h => by cases h; rfl
theorem divIImm : ∀ u d a imm, Statement (.divIImm u d a imm) := fun _ _ _ _ _ h => by cases h; rfl
theorem divNImm : ∀ u d a imm, Statement (.divNImm u d a imm) := fun _ _ _ _ _ h => by cases h; rfl
theorem remIImm : ∀ u d a imm, Statement (.remIImm u d a imm) := fun _ _ _ _ _ h => by cases h; rfl
theorem remNImm : ∀ u d a imm, Statement (.remNImm u d a imm) := fun _ _ _ _ _ h => by cases h; rfl
theorem and : ∀ u d a b, Statement (.and u d a b) := fun _ _ _ _ _ h => by cases h; rfl
theorem or : ∀ u d a b, Statement (.or u d a b) := fun _ _ _ _ _ h => by cases h; rfl
theorem xor : ∀ u d a b, Statement (.xor u d a b) := fun _ _ _ _ _ h => by cases h; rfl
theorem andn : ∀ u d a b, Statement (.andn u d a b) := fun _ _ _ _ _ h => by cases h; rfl
theorem shl : ∀ u d a b, Statement (.shl u d a b) := fun _ _ _ _ _ h => by cases h; rfl
theorem shr : ∀ u d a b, Statement (.shr u d a b) := fun _ _ _ _ _ h => by cases h; rfl
theorem sar : ∀ u d a b, Statement (.sar u d a b) := fun _ _ _ _ _ h => by cases h; rfl
theorem rol : ∀ u d a b, Statement (.rol u d a b) := fun _ _ _ _ _ h => by cases h; rfl
theorem minI : ∀ u d a b, Statement (.minI u d a b) := fun _ _ _ _ _ h => by cases h; rfl
theorem minN : ∀ u d a b, Statement (.minN u d a b) := fun _ _ _ _ _ h => by cases h; rfl
theorem maxI : ∀ u d a b, Statement (.maxI u d a b) := fun _ _ _ _ _ h => by cases h; rfl
theorem maxN : ∀ u d a b, Statement (.maxN u d a b) := fun _ _ _ _ _ h => by cases h; rfl
theorem andImm : ∀ u d a imm, Statement (.andImm u d a imm) := fun _ _ _ _ _ h => by cases h; rfl
theorem orImm : ∀ u d a imm, Statement (.orImm u d a imm) := fun _ _ _ _ _ h => by cases h; rfl
theorem xorImm : ∀ u d a imm, Statement (.xorImm u d a imm) := fun _ _ _ _ _ h => by cases h; rfl
theorem andnImm : ∀ u d a imm, Statement (.andnImm u d a imm) := fun _ _ _ _ _ h => by cases h; rfl
theorem shlImm : ∀ u d a iv, Statement (.shlImm u d a iv) := by
  intro u d a iv f h; cases h
  simp [Fields.candidate, decode11, cut_low]
theorem shrImm : ∀ u d a iv, Statement (.shrImm u d a iv) := by
  intro u d a iv f h; cases h
  simp [Fields.candidate, decode11, cut_low]
theorem sarImm : ∀ u d a iv, Statement (.sarImm u d a iv) := by
  intro u d a iv f h; cases h
  simp [Fields.candidate, decode11, cut_low]
theorem rolImm : ∀ u d a iv, Statement (.rolImm u d a iv) := by
  intro u d a iv f h; cases h
  simp [Fields.candidate, decode11, cut_low]
theorem minIImm : ∀ u d a imm, Statement (.minIImm u d a imm) := fun _ _ _ _ _ h => by cases h; rfl
theorem minNImm : ∀ u d a imm, Statement (.minNImm u d a imm) := fun _ _ _ _ _ h => by cases h; rfl
theorem maxIImm : ∀ u d a imm, Statement (.maxIImm u d a imm) := fun _ _ _ _ _ h => by cases h; rfl
theorem maxNImm : ∀ u d a imm, Statement (.maxNImm u d a imm) := fun _ _ _ _ _ h => by cases h; rfl
theorem clz : ∀ u d a, Statement (.clz u d a) := fun _ _ _ _ h => by cases h; rfl
theorem ctz : ∀ u d a, Statement (.ctz u d a) := fun _ _ _ _ h => by cases h; rfl
theorem popc : ∀ u d a, Statement (.popc u d a) := fun _ _ _ _ h => by cases h; rfl
theorem bfx : ∀ u d a pos len, Statement (.bfx u d a pos len) := by
  intro u d a pos len f h; cases h
  simp [Fields.candidate, decode20, cut_low, imm_low_7_6, imm_high_7_6]
theorem bfi : ∀ u d a pos len, Statement (.bfi u d a pos len) := by
  intro u d a pos len f h; cases h
  simp [Fields.candidate, decode20, cut_low, imm_low_7_6, imm_high_7_6]
theorem brev : ∀ u d a, Statement (.brev u d a) := fun _ _ _ _ h => by cases h; rfl
theorem bswap : ∀ u d a, Statement (.bswap u d a) := fun _ _ _ _ h => by cases h; rfl
theorem li : ∀ u d imm, Statement (.li u d imm) := fun _ _ _ _ h => by cases h; rfl
theorem lih : ∀ u d imm, Statement (.lih u d imm) := fun _ _ _ _ h => by cases h; rfl
theorem mov : ∀ u d a, Statement (.mov u d a) := fun _ _ _ _ h => by cases h; rfl
theorem sel : ∀ u d a b c, Statement (.sel u d a b c) := by
  intro u d a b c f h; cases h
  simp [Fields.candidate, decode21, x_c, x_low]
theorem extI : ∀ u d a iv, Statement (.extI u d a iv) := by
  intro u d a iv f h; cases h
  simp [Fields.candidate, decode21, cut_low]
theorem extN : ∀ u d a iv, Statement (.extN u d a iv) := by
  intro u d a iv f h; cases h
  simp [Fields.candidate, decode21, cut_low]
theorem cmp : ∀ u cc d a b, Statement (.cmp u cc d a b) := by
  intro u cc d a b f h; cases h
  cases cc <;> simp [Fields.candidate, decode22] <;> rfl
theorem cmpImm : ∀ u cc d a imm, Statement (.cmpImm u cc d a imm) := by
  intro u cc d a imm f h; cases h
  cases cc <;> simp [Fields.candidate, decode23] <;> rfl
theorem pand : ∀ u d a b, Statement (.pand u d a b) := fun _ _ _ _ _ h => by cases h; rfl
theorem por : ∀ u d a b, Statement (.por u d a b) := fun _ _ _ _ _ h => by cases h; rfl
theorem pxor : ∀ u d a b, Statement (.pxor u d a b) := fun _ _ _ _ _ h => by cases h; rfl
theorem pnot : ∀ u d a, Statement (.pnot u d a) := fun _ _ _ _ h => by cases h; rfl
theorem pmov : ∀ u d a, Statement (.pmov u d a) := fun _ _ _ _ h => by cases h; rfl
theorem br : ∀ u imm, Statement (.br u imm) := fun _ _ _ h => by cases h; rfl
theorem j : ∀ u imm, Statement (.j u imm) := fun _ _ _ h => by cases h; rfl
theorem jal : ∀ u d imm, Statement (.jal u d imm) := fun _ _ _ _ h => by cases h; rfl
theorem jr : ∀ u a, Statement (.jr u a) := fun _ _ _ h => by cases h; rfl
theorem jtab : ∀ u a xv imm, Statement (.jtab u a xv imm) := by
  intro u a xv imm f h; cases h
  simp [Fields.candidate, decode30, cut_low]
theorem loop : ∀ u d imm, Statement (.loop u d imm) := fun _ _ _ _ h => by cases h; rfl
theorem sig : ∀ u iv, Statement (.sig u iv) := by
  intro u iv f h; cases h
  simp [Fields.candidate, decode31, cut_low]
theorem nop : ∀ u, Statement (.nop u) := fun _ _ h => by cases h; rfl
theorem brk : ∀ u imm, Statement (.brk u imm) := fun _ _ _ h => by cases h; rfl
theorem trap : ∀ u imm, Statement (.trap u imm) := fun _ _ _ h => by cases h; rfl
theorem done : ∀ u, Statement (.done u) := fun _ _ h => by cases h; rfl
theorem commit : ∀ u, Statement (.commit u) := fun _ _ h => by cases h; rfl
theorem abort : ∀ u iv, Statement (.abort u iv) := by
  intro u iv f h; cases h
  simp [Fields.candidate, decode32, cut_low]
theorem fadd : ∀ u ty rm d a b, Statement (.fadd u ty rm d a b) := by
  intro u ty rm d a b f h; cases h
  cases ty <;> simp [Fields.candidate, decode40, cut_low, fn_op, fn_rm] <;> rfl
theorem fsub : ∀ u ty rm d a b, Statement (.fsub u ty rm d a b) := by
  intro u ty rm d a b f h; cases h
  cases ty <;> simp [Fields.candidate, decode40, cut_low, fn_op, fn_rm] <;> rfl
theorem fmul : ∀ u ty rm d a b, Statement (.fmul u ty rm d a b) := by
  intro u ty rm d a b f h; cases h
  cases ty <;> simp [Fields.candidate, decode40, cut_low, fn_op, fn_rm] <;> rfl
theorem fdiv : ∀ u ty rm d a b, Statement (.fdiv u ty rm d a b) := by
  intro u ty rm d a b f h; cases h
  cases ty <;> simp [Fields.candidate, decode40, cut_low, fn_op, fn_rm] <;> rfl
theorem fma : ∀ u ty rm d a b c, Statement (.fma u ty rm d a b c) := by
  intro u ty rm d a b c f h; cases h
  cases ty <;> simp [Fields.candidate, decode41, cut_low, x_c, x_low, fn_op, fn_rm] <;> rfl
theorem fms : ∀ u ty rm d a b c, Statement (.fms u ty rm d a b c) := by
  intro u ty rm d a b c f h; cases h
  cases ty <;> simp [Fields.candidate, decode41, cut_low, x_c, x_low, fn_op, fn_rm] <;> rfl
theorem fnma : ∀ u ty rm d a b c, Statement (.fnma u ty rm d a b c) := by
  intro u ty rm d a b c f h; cases h
  cases ty <;> simp [Fields.candidate, decode41, cut_low, x_c, x_low, fn_op, fn_rm] <;> rfl
theorem fsqrt : ∀ u ty rm d a, Statement (.fsqrt u ty rm d a) := by
  intro u ty rm d a f h; cases h
  cases ty <;> simp [Fields.candidate, decode42, cut_low, fn_op, fn_rm] <;> rfl
theorem frcp : ∀ u ty rm d a, Statement (.frcp u ty rm d a) := by
  intro u ty rm d a f h; cases h
  cases ty <;> simp [Fields.candidate, decode42, cut_low, fn_op, fn_rm] <;> rfl
theorem frsq : ∀ u ty rm d a, Statement (.frsq u ty rm d a) := by
  intro u ty rm d a f h; cases h
  cases ty <;> simp [Fields.candidate, decode42, cut_low, fn_op, fn_rm] <;> rfl
theorem frnd : ∀ u ty rm d a, Statement (.frnd u ty rm d a) := by
  intro u ty rm d a f h; cases h
  cases ty <;> simp [Fields.candidate, decode42, cut_low, fn_op, fn_rm] <;> rfl
theorem fmin : ∀ u ty d a b, Statement (.fmin u ty d a b) := by
  intro u ty d a b f h; cases h
  cases ty <;> simp [Fields.candidate, decode43, cut_low] <;> rfl
theorem fmax : ∀ u ty d a b, Statement (.fmax u ty d a b) := by
  intro u ty d a b f h; cases h
  cases ty <;> simp [Fields.candidate, decode43, cut_low] <;> rfl
theorem fabs : ∀ u ty d a, Statement (.fabs u ty d a) := by
  intro u ty d a f h; cases h
  cases ty <;> simp [Fields.candidate, decode43, cut_low] <;> rfl
theorem fneg : ∀ u ty d a, Statement (.fneg u ty d a) := by
  intro u ty d a f h; cases h
  cases ty <;> simp [Fields.candidate, decode43, cut_low] <;> rfl
theorem fclass : ∀ u ty d a, Statement (.fclass u ty d a) := by
  intro u ty d a f h; cases h
  cases ty <;> simp [Fields.candidate, decode44, cut_low] <;> rfl
theorem fscale : ∀ u ty rm d a b, Statement (.fscale u ty rm d a b) := by
  intro u ty rm d a b f h; cases h
  cases ty <;> simp [Fields.candidate, decode44, cut_low, fn_op, fn_rm] <;> rfl
theorem fcvt : ∀ u k rm d a, Statement (.fcvt u k rm d a) := by
  intro u k rm d a f h; cases h
  simp [Fields.candidate, decode44, cut_low, fn_op, fn_rm, cvt_code]
theorem fcmp : ∀ u cc ty d a b, Statement (.fcmp u cc ty d a b) := by
  intro u cc ty d a b f h; cases h
  cases cc <;> cases ty <;> simp [Fields.candidate, decode45, cut_low] <;> rfl
theorem vbcast : ∀ u d a, Statement (.vbcast u d a) := fun _ _ _ _ h => by cases h; rfl
theorem vext : ∀ u d a b iv, Statement (.vext u d a b iv) := by
  intro u d a b iv f h; cases h
  simp [Fields.candidate, decode50, cut_low]
theorem vins : ∀ u d a b iv, Statement (.vins u d a b iv) := by
  intro u d a b iv f h; cases h
  simp [Fields.candidate, decode50, cut_low]
theorem vperm : ∀ u d a b, Statement (.vperm u d a b) := fun _ _ _ _ _ h => by cases h; rfl
theorem vshift : ∀ u d a b imm, Statement (.vshift u d a b imm) := fun _ _ _ _ _ _ h => by cases h; rfl
theorem vcompress : ∀ u d a b, Statement (.vcompress u d a b) := fun _ _ _ _ _ h => by cases h; rfl
theorem vexpand : ∀ u d a b, Statement (.vexpand u d a b) := fun _ _ _ _ _ h => by cases h; rfl
theorem vpopc : ∀ u d a, Statement (.vpopc u d a) := fun _ _ _ _ h => by cases h; rfl
theorem vlane : ∀ u d, Statement (.vlane u d) := fun _ _ _ h => by cases h; rfl
theorem vred : ∀ u cc d a, Statement (.vred u cc d a) := by
  intro u cc d a f h; cases h
  cases cc <;> simp [Fields.candidate, decode51] <;> rfl
theorem vscan : ∀ u cc d a, Statement (.vscan u cc d a) := by
  intro u cc d a f h; cases h
  cases cc <;> simp [Fields.candidate, decode52] <;> rfl
theorem ld : ∀ u cc d a imm, Statement (.ld u cc d a imm) := by
  intro u cc d a imm f h; cases h
  cases cc <;> simp [Fields.candidate, decode60] <;> rfl
theorem st : ∀ u cc a b imm, Statement (.st u cc a b imm) := by
  intro u cc a b imm f h; cases h
  cases cc <;> simp [Fields.candidate, decode61] <;> rfl
theorem ldv : ∀ u d a imm, Statement (.ldv u d a imm) := fun _ _ _ _ _ h => by cases h; rfl
theorem stv : ∀ u a b imm, Statement (.stv u a b imm) := fun _ _ _ _ _ h => by cases h; rfl
theorem ldvx : ∀ u d a b imm, Statement (.ldvx u d a b imm) := fun _ _ _ _ _ _ h => by cases h; rfl
theorem stvx : ∀ u a b c imm, Statement (.stvx u a b c imm) := by
  intro u a b c imm f h; cases h
  simp [Fields.candidate, decode62, x_c, x_low]
theorem pref : ∀ u a imm, Statement (.pref u a imm) := fun _ _ _ _ h => by cases h; rfl
theorem atom : ∀ u cc xv d a b imm, Statement (.atom u cc xv d a b imm) := by
  intro u cc xv d a b imm f h; cases h
  cases cc <;> simp [Fields.candidate, decode70, cut_low] <;> rfl
theorem cas : ∀ u xv d a b c imm, Statement (.cas u xv d a b c imm) := by
  intro u xv d a b c imm f h; cases h
  simp [Fields.candidate, decode71, cut_low, x_c, x_low]
theorem alrB : ∀ u a imm, Statement (.alrB u a imm) := fun _ _ _ _ h => by cases h; rfl
theorem alrE : ∀ u, Statement (.alrE u) := fun _ _ h => by cases h; rfl
theorem fence : ∀ u, Statement (.fence u) := fun _ _ h => by cases h; rfl
theorem fenceSc : ∀ u, Statement (.fenceSc u) := fun _ _ h => by cases h; rfl
theorem ifence : ∀ u, Statement (.ifence u) := fun _ _ h => by cases h; rfl
theorem cadd : ∀ u a b imm, Statement (.cadd u a b imm) := fun _ _ _ _ _ h => by cases h; rfl
theorem cread : ∀ u xv d a, Statement (.cread u xv d a) := by
  intro u xv d a f h; cases h
  simp [Fields.candidate, decode80, cut_low]
theorem cwait : ∀ u d a b xv imm, Statement (.cwait u d a b xv imm) := by
  intro u d a b xv imm f h; cases h
  simp [Fields.candidate, decode80, cut_low]
theorem cerr : ∀ u a iv, Statement (.cerr u a iv) := by
  intro u a iv f h; cases h
  simp [Fields.candidate, decode80, cut_low]
theorem cinit : ∀ u a b iv, Statement (.cinit u a b iv) := by
  intro u a b iv f h; cases h
  simp [Fields.candidate, decode80, cut_low]
theorem send : ∀ u a b hi lo, Statement (.send u a b hi lo) := by
  intro u a b hi lo f h; cases h
  simp [Fields.candidate, decode90, cut_low, imm_low_3_6, imm_high_3_6]
theorem reply : ∀ u a b hi lo, Statement (.reply u a b hi lo) := by
  intro u a b hi lo f h; cases h
  simp [Fields.candidate, decode90, cut_low, imm_low_3_6, imm_high_3_6]
theorem peek : ∀ u d hi lo, Statement (.peek u d hi lo) := by
  intro u d hi lo f h; cases h
  simp [Fields.candidate, decode90, cut_low, imm_low_4_3, imm_high_4_3]
theorem spawn : ∀ u d a b c imm, Statement (.spawn u d a b c imm) := by
  intro u d a b c imm f h; cases h
  simp [Fields.candidate, decode90, x_c, x_low]
theorem fork : ∀ u xv a b c imm, Statement (.fork u xv a b c imm) := by
  intro u xv a b c imm f h; cases h
  simp [Fields.candidate, decode90, cut_low, x_c, x_low]
theorem pause : ∀ u iv, Statement (.pause u iv) := by
  intro u iv f h; cases h
  simp [Fields.candidate, decode90, cut_low]
theorem chmask : ∀ u a iv, Statement (.chmask u a iv) := by
  intro u a iv f h; cases h
  simp [Fields.candidate, decode90, cut_low]
theorem chstat : ∀ u d iv, Statement (.chstat u d iv) := by
  intro u d iv f h; cases h
  simp [Fields.candidate, decode90, cut_low]
theorem sysc : ∀ u imm, Statement (.sysc u imm) := fun _ _ _ h => by cases h; rfl
theorem mzero : ∀ u sl, Statement (.mzero u sl) := by
  intro u sl f h; cases h
  simp [Fields.candidate, decodeA0, x_c, x_low, low_7, high_7, quant_7]
theorem mlda : ∀ u xv a b, Statement (.mlda u xv a b) := by
  intro u xv a b f h; cases h
  simp [Fields.candidate, decodeA0, cut_low, low_7, high_7, quant_7]
theorem mldb : ∀ u iv a b, Statement (.mldb u iv a b) := by
  intro u iv a b f h; cases h
  simp [Fields.candidate, decodeA0, cut_low, low_7, high_7, quant_7]
theorem gang : ∀ u a, Statement (.gang u a) := fun _ _ _ h => by cases h; rfl
theorem mma : ∀ u pa sl bw a b c, Statement (.mma u pa sl bw a b c) := by
  intro u pa sl bw a b c f h; cases h
  simp [Fields.candidate, decodeA0, cut_low, x_c, x_low, low_7, high_7, quant_7]
theorem mst : ∀ u sl a imm, Statement (.mst u sl a imm) := by
  intro u sl a imm f h; cases h
  simp [Fields.candidate, decodeA0, x_c, x_low, low_7, high_7, quant_7]
theorem mquant : ∀ u fmt lay loc a b c k, Statement (.mquant u fmt lay loc a b c k) := by
  intro u fmt lay loc a b c k f h; cases h
  have q := quant_7 loc lay fmt
  simp [Fields.candidate, decodeA0, x_c, x_low]
  exact q
theorem maxbar : ∀ u d a b, Statement (.maxbar u d a b) := fun _ _ _ _ _ h => by cases h; rfl
theorem mscale : ∀ u sl a, Statement (.mscale u sl a) := by
  intro u sl a f h; cases h
  simp [Fields.candidate, decodeA0, x_c, x_low, low_7, high_7, quant_7]
theorem mstat : ∀ u d iv, Statement (.mstat u d iv) := by
  intro u d iv f h; cases h
  simp [Fields.candidate, decodeA0, cut_low, low_7, high_7, quant_7]
theorem job : ∀ u a, Statement (.job u a) := fun _ _ _ h => by cases h; rfl
theorem wptr : ∀ u d a, Statement (.wptr u d a) := fun _ _ _ _ h => by cases h; rfl
theorem gath : ∀ u a, Statement (.gath u a) := fun _ _ _ h => by cases h; rfl
theorem scat : ∀ u a, Statement (.scat u a) := fun _ _ _ h => by cases h; rfl
theorem gbar : ∀ u a b, Statement (.gbar u a b) := fun _ _ _ _ h => by cases h; rfl
theorem gmcast : ∀ u a b hi lo, Statement (.gmcast u a b hi lo) := by
  intro u a b hi lo f h; cases h
  simp [Fields.candidate, decodeB0, cut_low, imm_low_3_6, imm_high_3_6]
theorem ldnear : ∀ u a, Statement (.ldnear u a) := fun _ _ _ h => by cases h; rfl
theorem stvec : ∀ u a, Statement (.stvec u a) := fun _ _ _ h => by cases h; rfl
theorem delvec : ∀ u a, Statement (.delvec u a) := fun _ _ _ h => by cases h; rfl
theorem ixsnap : ∀ u a, Statement (.ixsnap u a) := fun _ _ _ h => by cases h; rfl
theorem ixrel : ∀ u a, Statement (.ixrel u a) := fun _ _ _ h => by cases h; rfl
theorem ixstat : ∀ u a, Statement (.ixstat u a) := fun _ _ _ h => by cases h; rfl
theorem ixcfg : ∀ u a, Statement (.ixcfg u a) := fun _ _ _ h => by cases h; rfl
theorem ixcent : ∀ u a, Statement (.ixcent u a) := fun _ _ _ h => by cases h; rfl
theorem rsplit : ∀ u a b iv, Statement (.rsplit u a b iv) := by
  intro u a b iv f h; cases h
  simp [Fields.candidate, decodeD0, cut_low]
theorem rmerge : ∀ u a b iv, Statement (.rmerge u a b iv) := by
  intro u a b iv f h; cases h
  simp [Fields.candidate, decodeD0, cut_low]
theorem rinval : ∀ u xv a iv, Statement (.rinval u xv a iv) := by
  intro u xv a iv f h; cases h
  simp [Fields.candidate, decodeD0, cut_low]
theorem rprobe : ∀ u d a, Statement (.rprobe u d a) := fun _ _ _ _ h => by cases h; rfl
theorem runpin : ∀ u a, Statement (.runpin u a) := fun _ _ _ h => by cases h; rfl
theorem rquery : ∀ u a b, Statement (.rquery u a b) := fun _ _ _ _ h => by cases h; rfl
theorem rres : ∀ u a b c iv, Statement (.rres u a b c iv) := by
  intro u a b c iv f h; cases h
  simp [Fields.candidate, decodeD0, cut_low, x_c, x_low]
theorem rcompact : ∀ u a b iv, Statement (.rcompact u a b iv) := by
  intro u a b iv f h; cases h
  simp [Fields.candidate, decodeD0, cut_low]
theorem pmake : ∀ u d a iv, Statement (.pmake u d a iv) := by
  intro u d a iv f h; cases h
  simp [Fields.candidate, decodeD1, cut_low]
theorem post : ∀ u a b ch ctr, Statement (.post u a b ch ctr) := by
  intro u a b ch ctr f h; cases h
  simp [Fields.candidate, decodeD1, cut_low, imm_low_18_6, imm_high_18_6]
theorem ldp : ∀ u d a imm, Statement (.ldp u d a imm) := fun _ _ _ _ _ h => by cases h; rfl
theorem stp : ∀ u a b imm, Statement (.stp u a b imm) := fun _ _ _ _ _ h => by cases h; rfl
theorem pstat : ∀ u d a, Statement (.pstat u d a) := fun _ _ _ _ h => by cases h; rfl
theorem pfree : ∀ u a iv, Statement (.pfree u a iv) := by
  intro u a iv f h; cases h
  simp [Fields.candidate, decodeD1, cut_low]
theorem csrr : ∀ u d iv, Statement (.csrr u d iv) := by
  intro u d iv f h; cases h
  simp [Fields.candidate, decodeE0, cut_low]
theorem csrw : ∀ u a iv, Statement (.csrw u a iv) := by
  intro u a iv f h; cases h
  simp [Fields.candidate, decodeE0, cut_low]
theorem sret : ∀ u a b c, Statement (.sret u a b c) := by
  intro u a b c f h; cases h
  simp [Fields.candidate, decodeE0, x_c, x_low]
theorem ctxsave : ∀ u a b iv, Statement (.ctxsave u a b iv) := by
  intro u a b iv f h; cases h
  simp [Fields.candidate, decodeE0, cut_low]
theorem ctxload : ∀ u a b iv, Statement (.ctxload u a b iv) := by
  intro u a b iv f h; cases h
  simp [Fields.candidate, decodeE0, cut_low]
theorem wdset : ∀ u a, Statement (.wdset u a) := fun _ _ _ h => by cases h; rfl
theorem prio : ∀ u a iv, Statement (.prio u a iv) := by
  intro u a iv f h; cases h
  simp [Fields.candidate, decodeE0, cut_low]
theorem halt : ∀ u a iv, Statement (.halt u a iv) := by
  intro u a iv f h; cases h
  simp [Fields.candidate, decodeE0, cut_low]
theorem scrub : ∀ u a b, Statement (.scrub u a b) := fun _ _ _ _ h => by cases h; rfl
theorem errpop : ∀ u d a b, Statement (.errpop u d a b) := fun _ _ _ _ _ h => by cases h; rfl
theorem cap : ∀ u d a, Statement (.cap u d a) := fun _ _ _ _ h => by cases h; rfl
theorem launch : ∀ h b, Statement (.launch h b) := fun _ _ _ h => nomatch h
theorem resync : ∀ h, Statement (.resync h) := fun _ _ h => nomatch h
theorem attest : ∀ h nonce, Statement (.attest h nonce) := fun _ _ _ h => nomatch h
theorem capread : ∀ h off, Statement (.capread h off) := fun _ _ _ h => nomatch h
theorem errlog : ∀ h level ctx most, Statement (.errlog h level ctx most) := fun _ _ _ _ _ h => nomatch h
theorem reserve : ∀ h link table, Statement (.reserve h link table) := fun _ _ _ _ h => nomatch h
theorem hbmscrub : ∀ h hours, Statement (.hbmscrub h hours) := fun _ _ _ h => nomatch h
theorem rekey : ∀ h link, Statement (.rekey h link) := fun _ _ _ h => nomatch h
theorem inject : ∀ h core chan cls ctx words, Statement (.inject h core chan cls ctx words) := fun _ _ _ _ _ _ _ h => nomatch h
theorem endctx : ∀ h ctx, Statement (.endctx h ctx) := fun _ _ _ h => nomatch h
theorem devnumWrite : ∀ n, Statement (.devnumWrite n) := fun _ _ h => nomatch h
theorem hostRegisterWrite : ∀ off v, Statement (.hostRegisterWrite off v) := fun _ _ _ h => nomatch h
theorem powerOn : ∀ images, Statement (.powerOn images) := fun _ _ h => nomatch h
theorem linkTraining : ∀ link, Statement (.linkTraining link) := fun _ _ h => nomatch h
theorem messageArrival : ∀ n, Statement (.messageArrival n) := fun _ _ h => nomatch h
theorem activationBind : ∀ core, Statement (.activationBind core) := fun _ _ h => nomatch h
theorem budgetExpired : ∀ core slot, Statement (.budgetExpired core slot) := fun _ _ _ h => nomatch h
theorem injectionForward : ∀ core n, Statement (.injectionForward core n) := fun _ _ _ h => nomatch h
theorem forkEnterBank : ∀ core n, Statement (.forkEnterBank core n) := fun _ _ _ h => nomatch h
theorem quinceDispatch : ∀ die bank, Statement (.quinceDispatch die bank) := fun _ _ _ h => nomatch h
theorem spawnRequestArrival : ∀ core slot id, Statement (.spawnRequestArrival core slot id) := fun _ _ _ _ h => nomatch h
theorem coreQuiescent : ∀ core, Statement (.coreQuiescent core) := fun _ _ h => nomatch h
theorem caddPerformed : ∀ core n, Statement (.caddPerformed core n) := fun _ _ _ h => nomatch h
theorem cerrPerformed : ∀ core n, Statement (.cerrPerformed core n) := fun _ _ _ h => nomatch h
theorem cinitPerformed : ∀ core n, Statement (.cinitPerformed core n) := fun _ _ _ h => nomatch h
theorem counterWake : ∀ cluster n, Statement (.counterWake cluster n) := fun _ _ _ h => nomatch h
theorem loadReply : ∀ core slot id src, Statement (.loadReply core slot id src) := fun _ _ _ _ _ h => nomatch h
theorem rangeWalk : ∀ die n, Statement (.rangeWalk die n) := fun _ _ _ h => nomatch h
theorem storeEntryPerformed : ∀ core n, Statement (.storeEntryPerformed core n) := fun _ _ _ h => nomatch h
theorem poolBankWrite : ∀ core, Statement (.poolBankWrite core) := fun _ _ h => nomatch h
theorem commitDrainEnd : ∀ core slot, Statement (.commitDrainEnd core slot) := fun _ _ _ h => nomatch h
theorem shadowFold : ∀ ctx, Statement (.shadowFold ctx) := fun _ _ h => nomatch h
theorem oobEvent : ∀ ctx, Statement (.oobEvent ctx) := fun _ _ h => nomatch h
theorem contextCsrArrival : ∀ ctx, Statement (.contextCsrArrival ctx) := fun _ _ h => nomatch h
theorem matrixOpPerformed : ∀ core, Statement (.matrixOpPerformed core) := fun _ _ h => nomatch h
theorem gangArrival : ∀ core, Statement (.gangArrival core) := fun _ _ h => nomatch h
theorem gangJoin : ∀ leader, Statement (.gangJoin leader) := fun _ _ h => nomatch h
theorem gangTimeout : ∀ leader, Statement (.gangTimeout leader) := fun _ _ h => nomatch h
theorem mmaStepComplete : ∀ leader badBlock, Statement (.mmaStepComplete leader badBlock) := fun _ _ _ h => nomatch h
theorem maxbarRoundComplete : ∀ ctx grp, Statement (.maxbarRoundComplete ctx grp) := fun _ _ _ h => nomatch h
theorem maxbarTimeout : ∀ ctx grp, Statement (.maxbarTimeout ctx grp) := fun _ _ _ h => nomatch h
theorem gbarArrival : ∀ core, Statement (.gbarArrival core) := fun _ _ h => nomatch h
theorem gbarRelease : ∀ ctx grp, Statement (.gbarRelease ctx grp) := fun _ _ _ h => nomatch h
theorem gbarTimeout : ∀ ctx grp, Statement (.gbarTimeout ctx grp) := fun _ _ _ h => nomatch h
theorem jobArrival : ∀ die n, Statement (.jobArrival die n) := fun _ _ _ h => nomatch h
theorem copyJobComplete : ∀ die n, Statement (.copyJobComplete die n) := fun _ _ _ h => nomatch h
theorem distributorJobComplete : ∀ die n, Statement (.distributorJobComplete die n) := fun _ _ _ h => nomatch h
theorem brambleJobComplete : ∀ die n, Statement (.brambleJobComplete die n) := fun _ _ _ h => nomatch h
theorem gatherKernel : ∀ die n, Statement (.gatherKernel die n) := fun _ _ _ h => nomatch h
theorem gatherJobComplete : ∀ die n, Statement (.gatherJobComplete die n) := fun _ _ _ h => nomatch h
theorem indexArrivalStep : ∀ die n, Statement (.indexArrivalStep die n) := fun _ _ _ h => nomatch h
theorem indexWorkStep : ∀ die n engine, Statement (.indexWorkStep die n engine) := fun _ _ _ _ h => nomatch h
theorem indexReclaim : ∀ ctx vbase, Statement (.indexReclaim ctx vbase) := fun _ _ _ h => nomatch h
theorem directoryUpdate : ∀ ctx, Statement (.directoryUpdate ctx) := fun _ _ h => nomatch h
theorem rinvalComplete : ∀ ctx n, Statement (.rinvalComplete ctx n) := fun _ _ _ h => nomatch h
theorem pstatArrival : ∀ core slot id, Statement (.pstatArrival core slot id) := fun _ _ _ _ h => nomatch h
theorem compactionComplete : ∀ die, Statement (.compactionComplete die) := fun _ _ h => nomatch h
theorem parcelPurgeComplete : ∀ n, Statement (.parcelPurgeComplete n) := fun _ _ h => nomatch h
theorem parcelPlacement : ∀ p, Statement (.parcelPlacement p) := fun _ _ h => nomatch h
theorem parcelArrivalComplete : ∀ n, Statement (.parcelArrivalComplete n) := fun _ _ h => nomatch h
theorem parcelAccepted : ∀ n, Statement (.parcelAccepted n) := fun _ _ h => nomatch h
theorem parcelReturned : ∀ n, Statement (.parcelReturned n) := fun _ _ h => nomatch h
theorem sretPerformed : ∀ core n, Statement (.sretPerformed core n) := fun _ _ _ h => nomatch h
theorem haltPerformed : ∀ core n, Statement (.haltPerformed core n) := fun _ _ _ h => nomatch h
theorem ctxsavePerformed : ∀ core n, Statement (.ctxsavePerformed core n) := fun _ _ _ h => nomatch h
theorem ctxloadPerformed : ∀ core n, Statement (.ctxloadPerformed core n) := fun _ _ _ h => nomatch h
theorem peerAccessArrival : ∀ p, Statement (.peerAccessArrival p) := fun _ _ h => nomatch h
theorem pipelineCheckFailure : ∀ core slot k, Statement (.pipelineCheckFailure core slot k) := fun _ _ _ _ h => nomatch h
theorem scrubSweep : ∀ ctx finds, Statement (.scrubSweep ctx finds) := fun _ _ _ h => nomatch h
theorem permitAudit : ∀ die reads, Statement (.permitAudit die reads) := fun _ _ _ h => nomatch h
theorem msgStall : ∀ core, Statement (.msgStall core) := fun _ _ h => nomatch h
theorem coreMap : ∀ core, Statement (.coreMap core) := fun _ _ h => nomatch h
theorem coreLost : ∀ core, Statement (.coreLost core) := fun _ _ h => nomatch h
theorem vcLimitRecompute : ∀ link, Statement (.vcLimitRecompute link) := fun _ _ h => nomatch h
theorem creditLimitFlit : ∀ link vc limit, Statement (.creditLimitFlit link vc limit) := fun _ _ _ _ h => nomatch h
theorem frameSlotSend : ∀ link, Statement (.frameSlotSend link) := fun _ _ h => nomatch h
theorem cellReceive : ∀ link c crcOk tagOk, Statement (.cellReceive link c crcOk tagOk) := fun _ _ _ _ _ h => nomatch h
theorem nakReceive : ∀ link lseq, Statement (.nakReceive link lseq) := fun _ _ _ h => nomatch h
theorem linkAckReceive : ∀ link lseq, Statement (.linkAckReceive link lseq) := fun _ _ _ h => nomatch h
theorem endToEndAckReceive : ∀ dev eseq, Statement (.endToEndAckReceive dev eseq) := fun _ _ _ h => nomatch h
theorem endToEndTimer : ∀ dev eseq, Statement (.endToEndTimer dev eseq) := fun _ _ _ h => nomatch h
theorem pathAbandon : ∀ dev, Statement (.pathAbandon dev) := fun _ _ h => nomatch h
theorem pathReset : ∀ dev, Statement (.pathReset dev) := fun _ _ h => nomatch h
theorem eseqExhausted : ∀ dev, Statement (.eseqExhausted dev) := fun _ _ h => nomatch h
theorem keyChangeStart : ∀ link, Statement (.keyChangeStart link) := fun _ _ h => nomatch h
theorem previousKeyDiscard : ∀ link, Statement (.previousKeyDiscard link) := fun _ _ h => nomatch h
theorem authFailureRetrain : ∀ link, Statement (.authFailureRetrain link) := fun _ _ h => nomatch h
theorem wavelengthDark : ∀ link wave, Statement (.wavelengthDark link wave) := fun _ _ _ h => nomatch h
theorem restripeFlit : ∀ link mask, Statement (.restripeFlit link mask) := fun _ _ _ h => nomatch h
theorem linkDown : ∀ link, Statement (.linkDown link) := fun _ _ h => nomatch h
theorem thermalThrottle : ∀ die up, Statement (.thermalThrottle die up) := fun _ _ _ h => nomatch h
theorem maxbarContribution : ∀ core slot id, Statement (.maxbarContribution core slot id) := fun _ _ _ _ h => nomatch h
theorem cwaitReservation : ∀ core slot id, Statement (.cwaitReservation core slot id) := fun _ _ _ _ h => nomatch h
theorem recordBufferSend : ∀ fromDie n, Statement (.recordBufferSend fromDie n) := fun _ _ _ h => nomatch h
theorem fabricCreditReturn : ∀ link vc, Statement (.fabricCreditReturn link vc) := fun _ _ _ h => nomatch h
theorem saddleLaneReplace : ∀ saddle, Statement (.saddleLaneReplace saddle) := fun _ _ h => nomatch h

end Candidate
end Sys2Proof.Laws
end

