-- ==== Sys2Proof/Laws/Wire.lean ====
section
/-! SUPPORT. Numbers as bytes, and what a receiver makes of the bytes of a cell that a sender has made (R304, R327). -/

namespace Sys2Proof

theorem leBytes_length (n v : Nat) : (leBytes n v).length = n := by
  induction n generalizing v with
  | zero => rfl
  | succ n ih => simp [leBytes, ih]

theorem leNat_leBytes (n v : Nat) (h : v < 256 ^ n) : leNat (leBytes n v) = v := by
  induction n generalizing v with
  | zero => simp at h; simp [leBytes, leNat, h]
  | succ n ih =>
    have : v / 256 < 256 ^ n := Nat.div_lt_of_lt_mul (by rw [Nat.mul_comm, ← Nat.pow_succ]; exact h)
    simp only [leBytes, leNat, ih _ this, BitVec.toNat_ofNat]
    omega

end Sys2Proof

namespace Sys2Proof.Machine

theorem cellHead_length (c : Cell) : (cellHead c).length = 16 := by simp [cellHead, leBytes_length]

theorem cellTag_length (key : BitVec 256) (nonce : BitVec 96) (head payload : List Byte) : (cellTag key nonce head payload).length = 12 := by
  simp [cellTag, padTo]

theorem cellTail_length (key : BitVec 256) (nonce : BitVec 96) (head payload : List Byte) : (cellTail key nonce head payload).length = 16 := by
  simp [cellTail, leBytes_length, cellTag_length]

theorem cellTail_tag (key : BitVec 256) (nonce : BitVec 96) (head payload : List Byte) :
    (cellTail key nonce head payload).take 12 = cellTag key nonce head payload :=
  List.take_left' (cellTag_length ..)

theorem cellTail_crc (key : BitVec 256) (nonce : BitVec 96) (head payload : List Byte) :
    (cellTail key nonce head payload).drop 12 =
      leBytes 4 (Config.crc32 (head ++ payload ++ (cellTail key nonce head payload).take 12)).toNat := by
  rw [cellTail_tag]; exact List.drop_left' (cellTag_length ..)

/-- A receiver finds the CRC-32 of a cell right that a sender has made. -/
theorem crcGood_cellTail (key : BitVec 256) (nonce : BitVec 96) (head payload : List Byte) (h1 : head.length = 16) (h2 : payload.length = 96) :
    crcGood head payload (cellTail key nonce head payload) = true := by
  have h := leNat_leBytes 4 _ (Config.crc32 (head ++ payload ++ (cellTail key nonce head payload).take 12)).isLt
  simp only [crcGood, h1, h2, cellTail_length, cellTail_crc, h, decide_true, Bool.true_and, decide_eq_true_eq]
  exact BitVec.eq_of_toNat_eq (by simp [w64])

/-- A receiver with the sender's key and nonce finds the tag right. -/
theorem tagGood_cellTail (key : BitVec 256) (nonce : BitVec 96) (head payload : List Byte) :
    tagGood key nonce head payload (cellTail key nonce head payload) = true := by
  simp only [tagGood, cellTail_tag, decide_true]

end Sys2Proof.Machine
end

