-- ==== Sys2Proof/Tests/Slice0.lean ====
section
/-! SUPPORT. Tests: each check of WellFormed refuses an ill-formed term; words written out from the encodings decode; single
instructions on small states, their results taken from the tables and worked examples of the spec; and, for each statement,
concrete states and operands that meet its hypotheses. -/

open Sys2Proof Sys2Proof.Machine

namespace Sys2Proof.Tests

/-! ## WellFormed: an ill-formed term for each check (Table 4.6, R69 to R71 and each definition) -/

theorem test_illegal_word : Instr.check (.illegal {}) = some .illegal := by decide
theorem test_bfx_length_zero : Instr.check (.bfx {} 1 2 0 0) = some .illegal := by decide
theorem test_bfi_past_64 : Instr.check (.bfi {} 1 2 60 5) = some .illegal := by decide
theorem test_li_predicate_16_bits : Instr.check (.li {} 49 0x10000) = some .illegal := by decide
theorem test_ext_zero_bits : Instr.check (.extI {} 1 2 0) = some .illegal := by decide
theorem test_ext_vector_33_bits : Instr.check (.extN {} 32 33 33) = some .illegal := by decide
theorem test_jtab_unaligned : Instr.check (.jtab {} 1 1 32) = some .illegal := by decide
theorem test_sig_predicated : Instr.check (.sig { pr := 1 } 0) = some .illegal := by decide
theorem test_fcvt_vector_64 : Instr.check (.fcvt {} (.fi .f32 .i64) 0 32 33) = some .illegal := by decide
theorem test_atom_fadd_64 : Instr.check (.atom {} .fadd 0 1 2 3 0) = some .illegal := by decide
theorem test_spawn_bit_31 : Instr.check (.spawn {} 49 1 2 3 0x80000000) = some .illegal := by decide
theorem test_send_no_words : Instr.check (.send {} 1 2 0 3) = some .illegal := by decide
theorem test_mma_17_planes : Instr.check (.mma {} 17 0 0 1 2 3) = some .illegal := by decide
theorem test_mquant_format_5 : Instr.check (.mquant {} 5 0 0 1 2 3 32) = some .illegal := by decide
theorem test_mstat_6 : Instr.check (.mstat {} 1 6) = some .illegal := by decide
theorem test_scope_5 : Instr.check (.st { sc := 5 } .d 1 2 0) = some .modifier := by decide
theorem test_store_acquire : Instr.check (.st { mo := 1 } .d 1 2 0) = some .modifier := by decide
theorem test_scope_on_add : Instr.check (.add { sc := 1 } 1 2 3) = some .modifier := by decide
theorem test_distance_and_tag : Instr.check (.add { pd := 1, at' := 1 } 1 2 3) = some .modifier := by decide
theorem test_tag_without_result : Instr.check (.nop { at' := 1 }) = some .modifier := by decide
theorem test_add_writes_special : Instr.check (.add {} 56 1 2) = some .operand := by decide
theorem test_compare_into_p0 : Instr.check (.cmp {} .eq 48 1 2) = some .operand := by decide
theorem test_mixed_classes : Instr.check (.fadd {} .f32 0 32 1 33) = some .operand := by decide
theorem test_fork_arguments_past_x31 : Instr.check (.fork {} 0 1 2 29 0) = some .operand := by decide
theorem test_send_words_past_x31 : Instr.check (.send {} 1 30 3 0) = some .operand := by decide

/-! ## Decoding: the worked encodings of chapters 05 to 09 and 18 to 23 -/

/-- `05 Table: div.i x5, x6, x7` -/
theorem test_decode_div_i : (decode 0x0061461C0000000000000000#96).toOption = some (.divI {} 5 6 7) := by decide
/-- `sar x4, x4, 3` -/
theorem test_decode_sar_imm : (decode 0x116104000000000000000003#96).toOption = some (.sarImm {} 4 4 3) := by decide
/-- `bfx x8, x9, 12, 20` -/
theorem test_decode_bfx : (decode 0x20320900000000000000050C#96).toOption = some (.bfx {} 8 9 12 20) := by decide
/-- `(p3) cmp.lt.i p2, x5, -1` -/
theorem test_decode_cmp_imm : (decode 0x232C850180000000FFFFFFFF#96).toOption = some (.cmpImm { pr := 3 } .ltI 50 5 0xFFFFFFFF) := by decide
/-- `loop x9, top` -/
theorem test_decode_loop : (decode 0x3052400000000000FFFFFFA8#96).toOption = some (.loop {} 9 0xFFFFFFA8) := by decide
/-- `jtab x4, 0x400, 6` -/
theorem test_decode_jtab : (decode 0x304004000000000600000400#96).toOption = some (.jtab {} 4 6 0x400) := by decide
/-- `fadd.bf16.rz x5, x6, x7` -/
theorem test_decode_fadd_bf16_rz : (decode 0x4041461C0000000100000000#96).toOption = some (.fadd {} .bf16 1 5 6 7) := by decide
/-- `fma.f32 v3, v1, v2, v3` -/
theorem test_decode_fma : (decode 0x4108E1880000118000000000#96).toOption = some (.fma {} .f32 0 35 33 34 35) := by decide
/-- `fcvt.f32.e4m3 v4, v2` -/
theorem test_decode_fcvt_types : (decode 0x442922000000001800000000#96).toOption = some (.fcvt {} (.ff .f32 .e4m3) 0 36 34) := by decide
/-- `fcvt.f32.i32.rz x5, x6` -/
theorem test_decode_fcvt_from_int : (decode 0x446146000000004000000000#96).toOption = some (.fcvt {} (.fi .f32 .i32) 1 5 6) := by decide
/-- `fcmp.lt.f32 p2, v1, v2` -/
theorem test_decode_fcmp : (decode 0x452CA1880000000000000000#96).toOption = some (.fcmp {} .lt .f32 50 33 34) := by decide
/-- `vred.fadd x5, v1` -/
theorem test_decode_vred : (decode 0x518161000000000000000000#96).toOption = some (.vred {} .fadd 5 33) := by decide
/-- `ld.n32.acq.die x5, [x6+8] >t2` -/
theorem test_decode_ld : (decode 0x605146001001400000000008#96).toOption = some (.ld { at' := 2, mo := 1, sc := 2 } .n32 5 6 8) := by decide
/-- `st.d.rel.pkg [x6+8], x5` -/
theorem test_decode_st : (decode 0x613006140002600000000008#96).toOption = some (.st { mo := 2, sc := 3 } .d 6 5 8) := by decide
/-- `atom.fadd.f32.rel.die x0, [x10+4], x8` -/
theorem test_decode_atom : (decode 0x70900A200002400100000004#96).toOption = some (.atom { mo := 2, sc := 2 } .fadd 1 0 10 8 4) := by decide
/-- `cas.d x5, [x10+0], x6, x7` -/
theorem test_decode_cas : (decode 0x71014A180000038000000000#96).toOption = some (.cas {} 0 5 10 6 7 0) := by decide
/-- `cwait p1, x10, x11, 9, 0x2A` -/
theorem test_decode_cwait : (decode 0x802C4A2C000000090000002A#96).toOption = some (.cwait {} 49 10 11 9 0x2A) := by decide
/-- `send x20, x5, 2, 7` -/
theorem test_decode_send : (decode 0x900014140000000000000087#96).toOption = some (.send {} 20 5 2 7) := by decide
/-- `mma.p5 x20, x22, x23` -/
theorem test_decode_mma : (decode 0xA040145800000B8500000000#96).toOption = some (.mma {} 5 0 0 20 22 23) := by decide
/-- `gang x14` -/
theorem test_decode_gang : (decode 0xA0300E000000000000000000#96).toOption = some (.gang {} 14) := by decide
/-- `mst.c1 [x24+0]` -/
theorem test_decode_mst : (decode 0xA05018000000002000000000#96).toOption = some (.mst {} 1 24 0) := by decide
/-- `mquant.e2m1s.a x20, x21, x5, 64` -/
theorem test_decode_mquant : (decode 0xA06014540000028400000040#96).toOption = some (.mquant {} 4 0 0 20 21 5 64) := by decide
/-- `wptr.acq x5, x13 >t2` -/
theorem test_decode_wptr : (decode 0xB0114D001001000000000000#96).toOption = some (.wptr { at' := 2, mo := 1 } 5 13) := by decide
/-- `gmcast x20, x5, 2, 7` -/
theorem test_decode_gmcast : (decode 0xB05014140000000000000087#96).toOption = some (.gmcast {} 20 5 2 7) := by decide
/-- `ldnear x10` -/
theorem test_decode_ldnear : (decode 0xC0000A000000000000000000#96).toOption = some (.ldnear {} 10) := by decide
/-- `rsplit x5, x6, 0x2_0A03` -/
theorem test_decode_rsplit : (decode 0xD00005180000000000020A03#96).toOption = some (.rsplit {} 5 6 0x20A03) := by decide
/-- `rinval.todie x5, 0x2_0A03` -/
theorem test_decode_rinval : (decode 0xD02005000000000200020A03#96).toOption = some (.rinval {} 2 5 0x20A03) := by decide
/-- `stp [x10+8], x11` -/
theorem test_decode_stp : (decode 0xD1300A2C0000000000000008#96).toOption = some (.stp {} 10 11 8) := by decide
/-- `ldp x5, [x10+8] >t1` -/
theorem test_decode_ldp : (decode 0xD1214A000800000000000008#96).toOption = some (.ldp { at' := 1 } 5 10 8) := by decide
/-- `post x10, x11, 7, 0x2_0A03` -/
theorem test_decode_post : (decode 0xD1100A2C00000000008280C7#96).toOption = some (.post {} 10 11 7 0x20A03) := by decide
/-- `csrr x5, gang.to` -/
theorem test_decode_csrr : (decode 0xE00140000000000000000003#96).toOption = some (.csrr {} 5 3) := by decide
/-- `vbcast v2, x2` -/
theorem test_decode_vbcast : (decode 0x500882000000000000000000#96).toOption = some (.vbcast {} 34 2) := by decide
/-- `add x1, x1, 64 %2` -/
theorem test_decode_add_distance : (decode 0x101041000008000000000040#96).toOption = some (.addImm { pd := 2 } 1 1 64) := by decide
/-- `(p1) ldv v3, [x1+0] >t1` -/
theorem test_decode_ldv_predicated : (decode 0x6208C1008800000000000000#96).toOption = some (.ldv { pr := 1, at' := 1 } 35 1 0) := by decide
/-- `(p1) fma.f32 v4, v0, v3, v4 <t1,t2` -/
theorem test_decode_fma_tags : (decode 0x4109208C8030120000000000#96).toOption = some (.fma { pr := 1, ct := 3 } .f32 0 36 32 35 36) := by decide
/-- `vscan.add v6, v5` -/
theorem test_decode_vscan : (decode 0x5209A5000000000000000000#96).toOption = some (.vscan {} .add 38 37) := by decide
/-- `vcompress v7, v6, p3` -/
theorem test_decode_vcompress : (decode 0x5059E6CC0000000000000000#96).toOption = some (.vcompress {} 39 38 51) := by decide
/-- `job x18` -/
theorem test_decode_job : (decode 0xB00012000000000000000000#96).toOption = some (.job {} 18) := by decide
/-- `peek x5, 3` -/
theorem test_decode_peek : (decode 0x902140000000000000000003#96).toOption = some (.peek {} 5 0 3) := by decide
/-- `cadd.rel.pkg x6, 1` -/
theorem test_decode_cadd : (decode 0x800006000002600000000001#96).toOption = some (.cadd { mo := 2, sc := 3 } 6 0 1) := by decide
/-- `fabs.f32 v3, v3` -/
theorem test_decode_fabs : (decode 0x4328E3000000000000000000#96).toOption = some (.fabs {} .f32 35 35) := by decide
/-- `maxbar x11, x8, x12 >t3` -/
theorem test_decode_maxbar : (decode 0xA072C8301800000000000000#96).toOption = some (.maxbar { at' := 3 } 11 8 12) := by decide
/-- `stvec x13` -/
theorem test_decode_stvec : (decode 0xC0100D000000000000000000#96).toOption = some (.stvec {} 13) := by decide
/-- `sel x12, x3, x11, p3` -/
theorem test_decode_sel : (decode 0x2133032C0000198000000000#96).toOption = some (.sel {} 12 3 11 51) := by decide
/-- `fence.rel.clus` -/
theorem test_decode_fence : (decode 0x730000000002200000000000#96).toOption = some (.fence { mo := 2, sc := 1 }) := by decide
/-- `sret x5, x7, x0` -/
theorem test_decode_sret : (decode 0xE020051C0000000000000000#96).toOption = some (.sret {} 5 7 0) := by decide
/-- `csrw parc.base, x5` -/
theorem test_decode_csrw : (decode 0xE01005000000000000000007#96).toOption = some (.csrw {} 5 7) := by decide
/-- `(p1) pause 16` -/
theorem test_decode_pause : (decode 0x905000008000000000000010#96).toOption = some (.pause { pr := 1 } 16) := by decide
/-- `gbar x21, x22` -/
theorem test_decode_gbar : (decode 0xB04015580000000000000000#96).toOption = some (.gbar {} 21 22) := by decide
/-- Table 4.3: in a word with DIV = 0 a nonzero unused bit is refused (R69). -/
theorem test_decode_unused_bit : (decode 0x0061461C0000000000000001#96).toOption = none := by decide
/-- The table's numbering lays the words out as the hardware stores them: `gang x14`. -/
theorem test_table_word : decodeTableWord 96 0xA0300E000000000000000000 = some (.gang {} 14) := by decide

/-! ## Single instructions on small states -/

/-- Core 0 belongs to context 0, whose cluster is 0; slot 0 runs the given activation; the partition is S = 1, A = 0. -/
def demo (sl : Slot) : State :=
  { cores := [(0, { ctx := some 0, part := 1, slots := [(0, some sl)] })], ctxs := [(0, { live := true, clusters := [0] })] }

/-- The slot after an instruction. -/
def slotAfter (i : Instr) (s : State) : Option Slot :=
  match exec i s with
  | .next t => t.slot 0 0
  | _ => none

/-- The state after an instruction, with any field read by `f`. -/
def seen {α : Type} (i : Instr) (s : State) (f : State → α) : Option α :=
  match exec i s with
  | .next t => some (f t)
  | _ => none

/-- A scalar register after an instruction on an activation with the given registers. -/
def xAfter (i : Instr) (x : List (Nat × Word)) (r : Reg) : Option Word := (slotAfter i (demo { x := x })).map (fun sl => sl.getX r)

/-- A lane of a vector register after an instruction. -/
def laneAfter (i : Instr) (sl : Slot) (r : Reg) (l : Nat) : Option (BitVec 32) := (slotAfter i (demo sl)).map (fun q => lane (q.getV r) l)

/-- The cause of the oldest record of core 0 after an instruction (Table 16.3). -/
def causeAfter (i : Instr) (s : State) : Option (BitVec 16) :=
  match exec i s with
  | .next t => match (t.core 0).recs with
    | m :: _ => some ((m.body.getD 0 0).extractLsb' 48 16)
    | [] => none
  | _ => none

/-- Vector register `r` with the given lanes from lane 0 on. -/
def lanesFrom (l : List Nat) : Lanes := lanesOf (fun i => BitVec.ofNat 32 (l.getD i 0))

-- Table 5.1
theorem test_add_wraps : xAfter (.add {} 3 1 2) [(1, 0xFFFFFFFFFFFFFFFF), (2, 1)] 3 = some 0 := by decide
theorem test_sub_below_zero : xAfter (.subImm {} 3 1 1) [(1, 0)] 3 = some 0xFFFFFFFFFFFFFFFF := by decide
theorem test_mulh_signed : xAfter (.mulhI {} 3 1 2) [(1, 0xFFFFFFFFFFFFFFFF), (2, 0xFFFFFFFFFFFFFFFF)] 3 = some 0 := by decide
theorem test_mulh_unsigned : xAfter (.mulhN {} 3 1 2) [(1, 0xFFFFFFFFFFFFFFFF), (2, 0xFFFFFFFFFFFFFFFF)] 3 = some 0xFFFFFFFFFFFFFFFE := by
  decide
theorem test_div_truncates : xAfter (.divI {} 3 1 2) [(1, 0xFFFFFFFFFFFFFFF9), (2, 2)] 3 = some 0xFFFFFFFFFFFFFFFD := by decide
-- R89
theorem test_div_by_zero : (slotAfter (.divN {} 3 1 2) (demo { x := [(1, 7)] })).map (fun sl => (sl.getX 3, sl.shadow.flags)) =
    some (0xFFFFFFFFFFFFFFFF, 2) := by decide
theorem test_div_overflow : xAfter (.divI {} 3 1 2) [(1, 0x8000000000000000), (2, 0xFFFFFFFFFFFFFFFF)] 3 = some 0x8000000000000000 := by decide
theorem test_rem_sign_of_dividend : xAfter (.remI {} 3 1 2) [(1, 0xFFFFFFFFFFFFFFF9), (2, 2)] 3 = some 0xFFFFFFFFFFFFFFFF := by decide
-- R90
theorem test_shift_by_65 : xAfter (.shl {} 3 1 2) [(1, 1), (2, 65)] 3 = some 2 := by decide
theorem test_sar_keeps_sign : xAfter (.sarImm {} 3 1 3) [(1, 0xFFFFFFFFFFFFFFF8)] 3 = some 0xFFFFFFFFFFFFFFFF := by decide
-- Table 4.4: x0 discards
theorem test_x0_discards : xAfter (.addImm {} 0 1 5) [(1, 1)] 0 = some 0 := by decide
-- Table 5.3
theorem test_clz_zero : xAfter (.clz {} 3 1) [] 3 = some 64 := by decide
theorem test_bfx : xAfter (.bfx {} 3 1 4 8) [(1, 0xABCD)] 3 = some 0xBC := by decide
theorem test_bfi_keeps_rest : xAfter (.bfi {} 3 1 4 8) [(1, 0xFF), (3, 0x1000F)] 3 = some 0x10FFF := by decide
theorem test_bswap : xAfter (.bswap {} 3 1) [(1, 0x0102030405060708)] 3 = some 0x0807060504030201 := by decide
-- Table 5.4
theorem test_li_extends : xAfter (.li {} 3 0x80000000) [] 3 = some 0xFFFFFFFF80000000 := by decide
theorem test_lih_keeps_low : xAfter (.lih {} 3 5) [(3, 0xFFFFFFFF00000007)] 3 = some 0x500000007 := by decide
theorem test_ext_signed : xAfter (.extI {} 3 1 8) [(1, 0x180)] 3 = some 0xFFFFFFFFFFFFFF80 := by decide
-- R93
theorem test_cmp_signed : (slotAfter (.cmp {} .ltI 49 1 2) (demo { x := [(1, 0xFFFFFFFFFFFFFFFF)] })).map (fun sl => sl.getP 49) =
    some 0xFFFF := by decide
theorem test_cmp_unsigned : (slotAfter (.cmp {} .ltN 49 1 2) (demo { x := [(1, 0xFFFFFFFFFFFFFFFF)], p := [(49, 0xFFFF)] })).map
    (fun sl => sl.getP 49) = some 0 := by decide
-- R86: a false predicate only advances
theorem test_false_predicate : (slotAfter (.add { pr := 1 } 3 1 1) (demo { x := [(1, 4)] })).map (fun sl => (sl.getX 3, sl.pc)) =
    some (0, 12) := by decide
-- R60: the fifth slot of a line is followed by the next line
theorem test_pc_after_fifth_slot : (slotAfter (.nop {}) (demo { pc := 48 })).map Slot.pc = some 64 := by decide
-- Table 5.6
theorem test_jal_links : (slotAfter (.jal {} 31 0x100) (demo { pc := 12 })).map (fun sl => (sl.getX 31, sl.pc)) = some (24, 0x100) := by decide
theorem test_loop_ends : (slotAfter (.loop {} 9 0xFFFFFFF4) (demo { pc := 12, x := [(9, 1)] })).map (fun sl => (sl.getX 9, sl.pc)) =
    some (0, 24) := by decide
theorem test_loop_repeats : (slotAfter (.loop {} 9 0xFFFFFFF4) (demo { pc := 12, x := [(9, 2)] })).map (fun sl => (sl.getX 9, sl.pc)) =
    some (1, 0) := by decide
theorem test_trap_masks : causeAfter (.trap {} 9) (demo {}) = some 0x010F := by decide
theorem test_illegal_traps : causeAfter (.illegal {}) (demo {}) = some 0x0103 := by decide
-- Table 6.2, R108, R111
theorem test_fadd : xAfter (.fadd {} .f32 0 3 1 2) [(1, 0x3F800000), (2, 0x40000000)] 3 = some 0x40400000 := by decide
theorem test_fdiv_by_zero : (slotAfter (.fdiv {} .f32 0 3 1 2) (demo { x := [(1, 0x3F800000)] })).map
    (fun sl => (sl.getX 3, sl.shadow.flags)) = some (0x7F800000, 8) := by decide
theorem test_fsub_signed_zero_down : xAfter (.fsub {} .f32 3 3 1 1) [(1, 0x3F800000)] 3 = some 0x80000000 := by decide
theorem test_fmin_zeros : xAfter (.fmin {} .f32 3 1 2) [(1, 0), (2, 0x80000000)] 3 = some 0x80000000 := by decide
theorem test_fmax_one_nan : xAfter (.fmax {} .f32 3 1 2) [(1, 0x7FC00000), (2, 0x3F800000)] 3 = some 0x3F800000 := by decide
theorem test_fclass_subnormal : xAfter (.fclass {} .f32 3 1) [(1, 1)] 3 = some 0x20 := by decide
theorem test_fcvt_toward_zero : xAfter (.fcvt {} (.fi .f32 .i32) 1 3 1) [(1, 0xBFC00000)] 3 = some 0xFFFFFFFFFFFFFFFF := by decide
-- Table 6.6, R117, R118
theorem test_vcompress : laneAfter (.vcompress {} 34 33 49) { v := [(33, lanesFrom [10, 11, 12, 13])], p := [(49, 0xA)] } 34 1 = some 13 := by decide
theorem test_vshift_up : laneAfter (.vshift {} 34 33 0 1) { v := [(33, lanesFrom [10, 11, 12])] } 34 2 = some 11 := by decide
theorem test_vred_add_signed : (slotAfter (.vred {} .add 3 33) (demo { v := [(33, lanesFrom [0xFFFFFFFF, 0xFFFFFFFF])] })).map (fun sl => sl.getX 3) =
    some 0xFFFFFFFFFFFFFFFE := by decide
theorem test_vscan_add : laneAfter (.vscan {} .add 34 33) { v := [(33, lanesFrom [1, 2, 3])] } 34 2 = some 6 := by decide
-- R121, R122, Table 7.3
theorem test_load_extends : (slotAfter (.ld {} .i8 3 0 8) { demo {} with mem := [(2 ^ 48 + 8, 0x80)] }).map (fun sl => sl.getX 3) =
    some 0xFFFFFFFFFFFFFF80 := by decide
theorem test_load_misaligned : causeAfter (.ld {} .d 3 0 4) (demo {}) = some 0x0201 := by decide
theorem test_load_no_window : causeAfter (.ld {} .d 3 1 0) (demo { x := [(1, 0x1000000000000000)] }) = some 0x0203 := by decide
theorem test_store_is_staged : seen (.st {} .h 0 1 8) (demo { x := [(1, 0x12345)] }) (fun t => (t.core 0).stage.map (fun e => e.bytes.map (fun b => b.2.2))) =
    some [[0x45, 0x23]] := by decide
-- Table 7.6
theorem test_atom_old_value : (slotAfter (.atom {} .add 0 3 0 1 8) { demo { x := [(1, 5)] } with mem := [(2 ^ 48 + 8, 7)] }).map (fun sl => sl.getX 3) =
    some 7 := by decide
-- R139, R144, R142
theorem test_counter_handle : causeAfter (.cadd {} 1 0 1) (demo { x := [(1, 1)] }) = some 0x0209 := by decide
theorem test_cerr_code_zero : causeAfter (.cerr {} 1 0) (demo { x := [(1, 0x20001)] }) = some 0x020A := by decide
theorem test_counter_saturates : (Counter.plus { val := 0xFFFFFFFFFFFFFFFF } 1) = { val := 0xFFFFFFFFFFFFFFFF, code := 0x81 } := by decide
-- R145, R150, R35
theorem test_send_to_no_core : causeAfter (.send {} 1 2 0 5) (demo { x := [(1, 8192)] }) = some 0x020B := by decide
theorem test_chmask : seen (.chmask {} 1 0) (demo { x := [(1, 2)] }) (fun t => ((t.hte 0 1).msk, (t.hte 0 0).msk)) = some (true, false) := by decide
theorem test_reply_class_sends : causeAfter (.sysc {} 7) { demo {} with cores := [(0, { ctx := some 0, part := 1, slots := [(0, some {})], hte := [(0, 1 <<< 68)] })] } =
    some 0x010B := by decide
-- R158, R161
theorem test_mma_without_gang : causeAfter (.mma {} 4 0 0 1 2 3) (demo {}) = some 0x0109 := by decide
theorem test_mzero_without_slice : causeAfter (.mzero {} 0) (demo {}) = some 0x020F := by decide
-- R173, R185
theorem test_card_misplaced : causeAfter (.job {} 1) (demo { x := [(1, 0x40000)] }) = some 0x020D := by decide
theorem test_index_block_misaligned : causeAfter (.ixstat {} 1) (demo { x := [(1, 8)] }) = some 0x020E := by decide
-- R191, R202, R203
theorem test_split_of_no_range : causeAfter (.rsplit {} 1 2 0x20001) (demo { x := [(1, 0x10000000000)] }) = some 0x0203 := by decide
theorem test_csr_unlisted : causeAfter (.csrr {} 3 0x200) (demo {}) = some 0x010C := by decide
theorem test_user_csrw : causeAfter (.csrw {} 1 3) (demo {}) = some 0x010A := by decide
theorem test_time_out_default : xAfter (.csrr {} 3 3) [] 3 = some 65536 := by decide
theorem test_user_halt : causeAfter (.halt {} 1 0) (demo {}) = some 0x010A := by decide
-- R101, R103
theorem test_done_frees_slot : seen (.done {}) (demo {}) (fun t => t.slot 0 0) = some none := by decide
theorem test_abort_returns_message : seen (.abort {} 0) (demo { held := [{ mid := 9 }] }) (fun t => (t.core 0).inbox.map Msg.mid) = some [9] := by decide
-- R23, R28
theorem test_no_handler : seen (.messageArrival 0) { demo {} with flight := [{ op := .msg { chan := 9 } }] } (fun t => ((t.core 0).inbox, (t.core 0).recs.length)) =
    some ([], 1) := by decide
theorem test_counter_add_performed : seen (.caddPerformed 0 0) { demo {} with cores := [(0, { ctx := some 0, released := [{ e := { op := .cadd 1 3 } }] })] }
    (fun t => (t.counter 1).val) = some 3 := by decide
-- R335
theorem test_clock_step : seen (.thermalThrottle 2 false) (demo {}) (fun t => (t.die 2).clock) = some 15 := by decide
-- R334: DEVNUM is written once
theorem test_devnum_once : seen (.devnumWrite 5) { State.reset with mgmt := { devWritten := true, devnum := 3 } } (fun t => t.mgmt.devnum) = some 3 := by decide

/-! ## Witnesses: states and operands that meet the hypotheses of the statements -/

/-- `Turn` as a computation. -/
def turns (s : State) (u : Ctl) (how : Under) (sl : Slot) : Bool :=
  (match s.curSlot with
   | some sl0 => decide (sl0.consume (Slot.tagsOf u.ct) = .done sl)
   | none => false) &&
  sl.acts u how && (decide (u.at' = 0) || !sl.landingFull u.at') && decide (sl.region = none)

theorem turn_of_turns {s : State} {u : Ctl} {how : Under} {sl : Slot} (h : turns s u how sl = true) : Turn s u how sl := by
  simp only [turns, Bool.and_eq_true, Bool.or_eq_true, decide_eq_true_eq, Bool.not_eq_true'] at h
  obtain ⟨⟨⟨h1, h2⟩, h3⟩, h4⟩ := h
  refine ⟨?_, h2, h3, h4⟩
  cases hs : s.curSlot with
  | none => simp [hs] at h1
  | some sl0 => exact ⟨sl0, rfl, by simpa [hs] using h1⟩

/-- On `demo` an activation without tags has its turn. -/
theorem turn_demo (sl : Slot) (how : Under) (u : Ctl) (h : turns (demo sl) u how sl = true) : Turn (demo sl) u how sl := turn_of_turns h

theorem witness_IntegerResult :
    (aluForm (.divN {} 3 1 2) = some (.divN, {}, 3, 1, .reg 2) ∧ Turn (demo {}) {} .scalar {}) ∧
    (aluForm (.rolImm {} 3 1 63) = some (.rol, {}, 3, 1, .val 63)) ∧
    (bitForm (.bfx {} 3 1 63 1) = some ({}, 3, 1) ∧ (Instr.bfx {} 3 1 63 1).WellFormed = true) :=
  ⟨⟨by decide, turn_of_turns (by decide)⟩, by decide, by decide⟩

theorem witness_MovesAndMasks :
    ((Instr.extI {} 33 32 32).WellFormed = true ∧ Turn (demo {}) {} (under 33) {} ∧ (moveForm (demo {}) {} (.extI {} 33 32 32)).isSome = true) ∧
    ((Instr.cmp {} .ltI 49 1 2).WellFormed = true ∧ maskForm (.cmp {} .ltI 49 1 2) = some ({}, 49, .scalar) ∧ Turn (demo {}) {} .scalar {}) :=
  ⟨⟨by decide, turn_of_turns (by decide), by decide⟩, by decide, by decide, turn_of_turns (by decide)⟩

theorem witness_ControlFlow :
    (∀ x ∈ [0xFFFFFFFF, 0x100000000], Turn (demo { x := [(1, x)] }) {} .scalar { x := [(1, x)] }) ∧
    (Slot.getX { x := [(1, 0xFFFFFFFF)] } 1).toNat < 2 ^ 32 ∧ 2 ^ 32 ≤ (Slot.getX { x := [(1, 0x100000000)] } 1).toNat ∧
    Slot.getX {} 9 ≠ 1 ∧ Slot.getX { x := [(9, 1)] } 9 = 1 ∧
    (5#7).toNat ≤ (Slot.getX { x := [(1, 5)] } 1).toNat ∧ (Slot.getX { x := [(1, 4)] } 1).toNat < (5#7).toNat ∧
    (Turn (demo { sig := 7 }) {} .always { sig := 7 } ∧ (7 : BitVec 24) ≠ 8) ∧
    ((demo {}).ctx ((demo {}).coreCtx 0)).dbg = 0 ∧
    (let s := { demo {} with ctxs := [(0, { live := true, dbg := 1 })] }
     Turn s {} .scalar {} ∧ (s.ctx (s.coreCtx 0)).dbg = 1) ∧
    (demo {}).curSlot = some {} :=
  ⟨by intro x hx; simp only [List.mem_cons, List.not_mem_nil, or_false] at hx
      obtain rfl | rfl := hx <;> exact turn_of_turns (by decide),
   by decide, by decide, by decide, by decide, by decide, by decide,
   ⟨turn_of_turns (by decide), by decide⟩, by decide, ⟨turn_of_turns (by decide), by decide⟩, by decide⟩

theorem witness_IssueAndDistance :
    (howOf (.add { pr := 1 } 3 1 2) = some .scalar ∧ Slot.consume {} (Slot.tagsOf 0) = .done {} ∧ Slot.acts {} { pr := 1 } .scalar = false) ∧
    (∃ sl, Slot.consume { landing := [{ tag := 1, st := .wait 0 }] } (Slot.tagsOf 1) = .wait sl) ∧
    (∃ pc tr, Slot.consume { landing := [{ tag := 1, pc := 12, st := .fault { cause := .memPoison } }] } (Slot.tagsOf 1) = .fault pc tr) ∧
    ((Ctl.at' { pd := 3 } = 0 ∧ Reg.isX 31 = true ∧ Slot.late {} = []) ∧ (0 : Nat) < (3#2).toNat ∧ (31 : Reg) ≠ 0) :=
  ⟨by decide, ⟨_, rfl⟩, ⟨_, _, rfl⟩, by decide⟩

theorem witness_FloatResult :
    (floatForm (.fadd {} .f32 0 3 1 2)).isSome = true ∧ Reg.isV 3 = false ∧ Turn (demo {}) {} (under 3) {} ∧
    (floatForm (.fadd {} .f32 0 35 33 34)).isSome = true ∧ Reg.isV 35 = true ∧ Turn (demo {}) {} (under 35) {} :=
  ⟨rfl, by decide, turn_of_turns (by decide), rfl, by decide, turn_of_turns (by decide)⟩

theorem witness_VectorMove :
    (laneForm {} (.vins {} 33 1 2 15)).isSome = true ∧ Turn (demo {}) {} .lanes {} ∧ Turn (demo {}) {} .scalar {} ∧
    Turn (demo {}) { pr := 1 } .always {} ∧
    (VOp.add ≠ .fadd ∧ VOp.add ≠ .fmin ∧ VOp.add ≠ .fmax) :=
  ⟨rfl, turn_of_turns (by decide), turn_of_turns (by decide), turn_of_turns (by decide), by decide⟩

/-- A range of 16 units at 0x100_0000_0000 whose backing lies at 0x100000. -/
def range (perm : BitVec 8) : Desc :=
  { vbase := 0x10000000000, perm := perm, size := 16, rhi := 16, off := 0x100000 - 0x10000000000 }

/-- `demo` with entries in the range table of core 0. -/
def ranged (ds : List Desc) (sl : Slot) : State :=
  { demo {} with cores := [(0, { ctx := some 0, part := 1, slots := [(0, some sl)], rtab := ds.map (fun d => { desc := d }) })] }

/-- A state whose context 0 has the given directory, at 0x200000. -/
def withDir (ds : List Desc) (s : State) : State :=
  { s with mem := (ds.flatMap Desc.words).zipIdx.flatMap (fun e => ((List.range 8).map (fun j => (0x200000 + 8 * e.2 + j, e.1.extractLsb' (8 * j) 8))).filter
      (fun b => decide (b.2 ≠ 0))),
           mgmt := { s.mgmt with ctxTab := [(0, (1 <<< 63) + 0x200000), (1, 0x400000), (2, BitVec.ofNat 64 ds.length), (3, 0x100000), (4, 0x40000000), (5, 0x800000)] } }

/-- `demo` for a supervisor activation: channel 0 has PRV. -/
def ruled (sl : Slot) : State :=
  { demo {} with cores := [(0, { ctx := some 0, part := 1, slots := [(0, some sl)], hte := [(0, 5 <<< 64)] })] }

/-- X1 holds `a`, X2 holds `b`, X3 holds `c`. -/
def regs (a b c : Word) : Slot := { x := [(1, a), (2, b), (3, c)] }

/-- A buffered store of eight bytes at `va`, whose key is `key`. -/
def buffered (va key : Nat) : SEntry := { op := .store (bytesAt va key 8 0x1122334455667788) }

/-- Ranges of 16 units, one every 4096 bytes. -/
def tiled (n : Nat) : Desc := { range 0xC0 with vbase := 0x10000000000 + 4096 * n }

theorem witness_AddressesResolve :
    (ranged [range 0xC0] {}).resolve {} 0x10000000FF8 8 permR = .far 0x100FF8 ∧
    ((2 : Nat) ≤ 65536 ∧ (∀ i j, i < j → j < 2 → (tiled i).vbase + 256 * (tiled i).size ≤ (tiled j).vbase)) ∧
    ((tiled 1).vbase ≤ 0x10000001FFF ∧ 0x10000001FFF < (tiled 1).vbase + 256 * (tiled 1).size) ∧
    (∀ i, i < 2 → ¬ ((tiled i).vbase ≤ 0x10000002000 ∧ 0x10000002000 < (tiled i).vbase + 256 * (tiled i).size)) := by
  refine ⟨by decide, ⟨by decide, ?_⟩, by decide, by decide⟩
  intro i j hij hj
  obtain ⟨rfl, rfl⟩ : i = 0 ∧ j = 1 := by omega
  decide

theorem witness_LoadResult :
    Turn (demo {}) {} .scalar {} ∧ Slot.mayAccess {} = true ∧
    ((demo {}).resolve {} 0 8 permR = .pool 0 0 ∧ (demo {}).clean {} 0 0 8 ∧ (demo {}).inside {} 0 0 8) ∧
    ((demo {}).resolve {} 0x3E000 8 permR = .pool 0 0x3E000 ∧ (demo {}).clean {} 0 0x3E000 8 ∧ (demo {}).fwd 0 {} (poolKey 0 0x3E000) = none ∧
      (demo {}).scrBytes 0 ≤ 0x3E000) ∧
    (let s := { demo {} with poison := [(2 ^ 48, true)] }
     s.resolve {} 0 8 permR = .pool 0 0 ∧ ¬ s.clean {} 0 0 8) ∧
    (let sl : Slot := { regs 0x10000000000 0 0 with stores := [buffered 0x10000000000 0x100000] }
     (ranged [range 0xC0] sl).resolve sl 0x10000000000 8 permR = .far 0x100000 ∧ (∀ e ∈ (ranged [range 0xC0] sl).outstanding sl 0x100000 8, e.2.isSome = true)) ∧
    (let sl := regs 0x10000000000 0 0
     (ranged [range 0xC0] sl).resolve sl 0x10000000000 8 permR = .far 0x100000 ∧ (∃ e ∈ (ranged [range 0xC0] sl).outstanding sl 0x100000 8, e.2 = none)) ∧
    (ranged [range 0x40] {}).resolve {} 0x10000000000 8 permR = .bad .rangePerm ∧
    ((ranged [] {}).resolve {} 0x10000000000 8 permR = .miss ∧ ((ranged [] {}).die 0).misses = []) := by
  refine ⟨turn_of_turns (by decide), by decide, ⟨by decide, ?_, ?_⟩, ⟨by decide, ?_, by decide⟩, ⟨by decide, ?_⟩, ⟨by decide, by decide⟩,
    ⟨by decide, _, List.mem_cons_self .., by decide⟩, by decide, by decide, by decide⟩
  · unfold State.clean; decide
  · unfold State.inside; decide
  · unfold State.clean; decide
  · unfold State.clean; decide

theorem witness_VectorLoad :
    let far := ranged [range 0xC0] (regs 0x10000000000 0 0)
    let edge := ranged [range 0xC0, { range 0 with vbase := 0x10000001000 }] (regs 0x10000000FF8 0 0)
    (Turn (demo {}) {} .lanes {} ∧ Slot.mayAccess {} = true ∧ ∀ l, l < 16 → (demo {}).resolve {} (4 * l) 4 permR = .pool 0 (4 * l) ∧
      (demo {}).clean {} 0 (4 * l) 4 ∧ (demo {}).inside {} 0 (4 * l) 4 ∧ ((demo {}).core 0).stage = []) ∧
    (Turn far {} .lanes (regs 0x10000000000 0 0) ∧ ∀ l, l < 16 → far.resolve (regs 0x10000000000 0 0) (0x10000000000 + 4 * l) 4 permR =
      .far (0x100000 + 4 * l)) ∧
    (∃ e ∈ far.outstanding (regs 0x10000000000 0 0) 0x100000 4, e.2 = none) ∧
    (Turn edge {} .lanes (regs 0x10000000FF8 0 0) ∧ (∀ j, j < 2 → edge.resolve (regs 0x10000000FF8 0 0) (0x10000000FF8 + 4 * j) 4 permR =
      .far (0x100FF8 + 4 * j)) ∧ edge.resolve (regs 0x10000000FF8 0 0) 0x10000001000 4 permR = .bad .rangePerm) ∧
    ((demo {}).resolve { v := [(34, lanesFrom [0, 0x40000])] } 0 4 0 = .pool 0 0 ∧
      (∀ t off, (demo {}).resolve { v := [(34, lanesFrom [0, 0x40000])] } 0x40000 4 0 ≠ .pool t off)) := by
  refine ⟨⟨turn_of_turns (by decide), by decide, ?_⟩, ⟨turn_of_turns (by decide), by decide⟩, ⟨_, List.mem_cons_self .., by decide⟩,
    ⟨turn_of_turns (by decide), by decide, by decide⟩, by decide, ?_⟩
  · unfold State.clean State.inside; decide
  · have h : (demo {}).resolve { v := [(34, lanesFrom [0, 0x40000])] } 0x40000 4 0 = .miss := by decide
    intro t off; rw [h]; exact Hit.noConfusion

theorem witness_StoreResult :
    let far := regs 0x10000000000 0 0
    (Turn (demo {}) {} .scalar {} ∧ Slot.mayAccess {} = true ∧ (demo {}).resolve {} 0x3DFF8 8 permW = .pool 0 0x3DFF8 ∧
      0x3DFF8 + 8 ≤ (demo {}).scrBytes 0 ∧
      ((demo {}).newJournal [] (bytesAt 0x3DFF8 (poolKey 0 0x3DFF8) 8 7)).length ≤ 64) ∧
    ((demo {}).resolve {} 0x3E000 1 permW = .pool 0 0x3E000 ∧ (demo {}).scrBytes 0 ≤ 0x3E000) ∧
    (Turn (ranged [range 0xC0] far) {} .scalar far ∧ (ranged [range 0xC0] far).resolve far 0x10000000000 8 permW = .far 0x100000 ∧
      far.stores.length + 2 ≤ 64) ∧
    (demo {}).resolve {} 1 2 permW = .bad .memAlign :=
  ⟨⟨turn_of_turns (by decide), by decide, by decide, by decide, by decide⟩, by decide, ⟨turn_of_turns (by decide), by decide, by decide⟩, by decide⟩

theorem witness_VectorStore :
    let far := regs 0x10000000000 0 0
    (Turn (demo {}) {} .lanes {} ∧ Slot.mayAccess {} = true ∧
      (∀ l, l < 16 → (demo {}).resolve {} (4 * l) 4 permW = .pool 0 (4 * l) ∧ 4 * l + 4 ≤ (demo {}).scrBytes 0) ∧
      ((demo {}).newJournal [] ((lanesIn 0xFFFF).flatMap (fun l => bytesAt (4 * l) (poolKey 0 (4 * l)) 4 0))).length ≤ 64) ∧
    (Turn (ranged [range 0xC0] far) {} .lanes far ∧
      ∀ l, l < 16 → (ranged [range 0xC0] far).resolve far (0x10000000000 + 4 * l) 4 permW = .far (0x100000 + 4 * l)) ∧
    ((demo {}).resolve {} 0 4 0 = .pool 0 0 ∧ 0 + 4 ≤ (demo {}).scrBytes 0 ∧ ((demo {}).core 0).stage = [] ∧
      ((demo {}).newJournal [] ((lanesIn 0xFFFF).flatMap (fun _ => bytesAt 0 (poolKey 0 0) 4 0))).length ≤ 64) :=
  ⟨⟨turn_of_turns (by decide), by decide, by decide, by decide⟩, ⟨turn_of_turns (by decide), by decide⟩, by decide⟩

/-- A parcel of 16 units. -/
def parcel (perm : BitVec 8) : Desc := { range perm with st := 1, pcl := true }

theorem witness_ParcelPointersAndPrefetch :
    let at_ (b : Word) := regs 0x10000000000 b 0
    let s (b : Word) := ranged [parcel 0xC4] (at_ b)
    let fwd : Slot := { regs 0x10000000000 0 0 with stores := [{ op := .store (bytesAt 0x10000000000 0x100000 8 0xFF8) }] }
    let none_ : Slot := { regs 0x10000000000 0 0 with stores := [{ op := .store (bytesAt 0x10000000000 0x100000 8 (BitVec.allOnes 64)) }] }
    let outside : Slot := { regs 0x10000000000 0 0 with stores := [{ op := .store (bytesAt 0x10000000000 0x100000 8 0x1000) }] }
    (∀ b ∈ [(0 : Word), 0x10000000000, 0x10000000FFF, 0x10000001000, 0xFFFFFFFFFF],
      Turn (s b) {} .scalar (at_ b) ∧ (s b).resolve (at_ b) 0x10000000000 8 (permR ||| permP) = .far 0x100000 ∧
        (s b).resolve (at_ b) 0x10000000000 8 (permW ||| permP) = .far 0x100000) ∧
    ((at_ 0).mayAccess = true ∧ ∃ e ∈ (s 0).outstanding (at_ 0) 0x100000 8, e.2 = none) ∧
    (∀ sl ∈ [fwd, none_, outside], Turn (ranged [parcel 0xC4] sl) {} .scalar sl ∧ (ranged [parcel 0xC4] sl).resolve sl 0x10000000000 8 (permR ||| permP) =
      .far 0x100000 ∧ ∀ e ∈ (ranged [parcel 0xC4] sl).outstanding sl 0x100000 8, e.2.isSome = true) ∧
    256 * (parcel 0xC4).size ≤ 0x1000 ∧
    (Turn (demo {}) {} .scalar {} ∧ (demo {}).resolve {} 0 8 (permR ||| permP) = .pool 0 0 ∧ place 0 0 = .pool 0 0) ∧
    (ranged [range 0xC0] (at_ 0)).resolve (at_ 0) 0x10000000000 8 (permW ||| permP) = .bad .rangePerm ∧
    (place 0 0x10000000000 = .far 0x10000000000 ∧ (s 0).translate 0 0x10000000000 0 [] ≠ .miss) ∧
    ((ranged [] (at_ 0)).translate 0 0x10000000000 0 [] = .miss ∧ ((ranged [] (at_ 0)).die (coreDie 0)).misses = []) := by
  refine ⟨?_, ⟨by decide, _, List.mem_cons_self .., by decide⟩, ?_, by decide, ⟨turn_of_turns (by decide), by decide, by decide⟩, by decide, by decide,
    by decide⟩
  · intro b hb; simp only [List.mem_cons, List.not_mem_nil, or_false] at hb
    obtain rfl | rfl | rfl | rfl | rfl := hb <;> exact ⟨turn_of_turns (by decide), by decide, by decide⟩
  · intro sl hb; simp only [List.mem_cons, List.not_mem_nil, or_false] at hb
    obtain rfl | rfl | rfl := hb <;> exact ⟨turn_of_turns (by decide), by decide, by decide⟩

theorem witness_AtomicResult :
    let far := regs 0x10000000000 5 0
    let s := ranged [range 0xD0] far
    (Turn (demo {}) {} .scalar {} ∧ Slot.mayAccess {} = true ∧ (demo {}).resolve {} 0x3DFFC 4 (permR ||| permW ||| permA) = .pool 0 0x3DFFC ∧
      0x3DFFC + 4 ≤ (demo {}).scrBytes 0 ∧
      (∀ j, j < 4 → (((demo {}).bankFlush 0).poolByte 0 0 0 (0x3DFFC + j)).2.1 = false) ∧
      ([] : List Journal).length + (((demo {}).bankFlush 0).newJournal [] (bytesAt 0x3DFFC (poolKey 0 0x3DFFC) 4 0)).length ≤ 64 ∧
      littleEndian (fun j => (((demo {}).bankFlush 0).poolByte 0 0 0 (0x3DFFC + j)).1) 4 = (0 : Word).toNat % 2 ^ 32 ∧
      littleEndian (fun j => (((demo {}).bankFlush 0).poolByte 0 0 0 (0x3DFFC + j)).1) 4 ≠ (5 : Word).toNat % 2 ^ 32) ∧
    (Turn s {} .scalar far ∧ s.resolve far 0x10000000000 8 (permR ||| permW ||| permA) = .far 0x100000 ∧ far.irrev = false ∧ far.stores.length < 64) ∧
    (ranged [range 0xC0] far).resolve far 0x10000000000 8 (permR ||| permW ||| permA) = .bad .rangePerm :=
  ⟨⟨turn_of_turns (by decide), by decide, by decide, by decide, by decide, by decide, by decide, by decide⟩,
   ⟨turn_of_turns (by decide), by decide, by decide, by decide⟩, by decide⟩

/-- `TurnIn` from a computation. -/
theorem turnIn_of {s : State} {u : Ctl} {how : Under} {sl : Slot} {r : Region} (h : s.curSlot = some sl) (h1 : sl.consume (Slot.tagsOf u.ct) = .done sl)
    (h2 : sl.acts u how = true) (h3 : u.at' = 0) (h4 : sl.region = some r)
    (h5 : u.ct = 0) : TurnIn s u how sl r :=
  ⟨⟨sl, h, h1⟩, h2, .inl h3, h4, by rw [h5]; intro tag ht; exact absurd ht (by decide +revert)⟩

theorem witness_RegionsAndFences :
    let far := regs 0x10000000080 0 0
    let s := ranged [range 0xD0] far
    let open_ (r : Region) : Slot := { region := some r }
    let r0 : Region := { line := 0x10000000080, key := 0x100080, remote := true }
    let r1 : Region := { r0 with accs := [.store 0x10000000080 [1]] }
    let r2 : Region := { line := 0x3DF80, key := poolKey 0 0x3DF80, accs := [.store 0x3DFF8 [1, 2, 3, 4, 5, 6, 7, 8]] }
    (Turn (demo {}) {} .scalar {} ∧ (demo {}).resolve {} 0 8 (permR ||| permW ||| permA) = .pool 0 0) ∧
    (Turn s {} .scalar far ∧ s.resolve far 0x10000000080 8 (permR ||| permW ||| permA) = .far 0x100080) ∧
    TurnIn (demo (open_ r0)) {} .scalar (open_ r0) r0 ∧ TurnIn (demo (open_ r1)) {} .scalar (open_ r1) r1 ∧
    (TurnIn (demo (open_ r2)) {} .scalar (open_ r2) r2 ∧ (open_ r2).mayAccess = true ∧ poolKey 0 0 ≤ r2.key ∧
      r2.key + (0x3DFF8 - r2.line) + 8 ≤ poolKey (keyCore r2.key) ((demo {}).scrBytes (keyCore r2.key)) ∧ keyCore r2.key = 0 ∧
      ∀ j, j < 8 → ((demo (open_ r2)).bankFlush 0).poisoned (r2.key + (0x3DFF8 - r2.line) + j) = false) ∧
    (∀ m ∈ [(0 : BitVec 2), 1, 2, 3], Turn (demo {}) { mo := m } .scalar {}) ∧
    (demo {}).staging 0 0 1 = false := by
  refine ⟨⟨turn_of_turns (by decide), by decide⟩, ⟨turn_of_turns (by decide), by decide⟩, turnIn_of (by decide) (by decide) (by decide) rfl rfl rfl,
    turnIn_of (by decide) (by decide) (by decide) rfl rfl rfl, ⟨turnIn_of (by decide) (by decide) (by decide) rfl rfl rfl, by decide, by decide, by decide, by decide,
    by decide⟩, ?_, by decide⟩
  intro m hm; simp only [List.mem_cons, List.not_mem_nil, or_false] at hm
  obtain rfl | rfl | rfl | rfl := hm <;> exact turn_of_turns (by decide)

theorem witness_CounterInstructions :
    let sl := regs 0x200FF 0 0
    (Turn (demo sl) {} .scalar sl ∧ (demo sl).counterOf ((demo sl).coreCtx 0) 0x200FF = some 0xFF ∧ sl.irrev = false ∧ sl.stores.length < 64 ∧
      sl.mayAccess = true) ∧
    ((1 : BitVec 8) ≠ 0 ∧ (0x7F : BitVec 8).toNat ≤ 0x7F ∧ 0x7F < (0x80 : BitVec 8).toNat) ∧
    (Turn (ruled sl) {} .scalar sl ∧ (ruled sl).prv sl = true ∧ (ruled sl).counterOf ((ruled sl).coreCtx 0) 0x20100 = none) ∧
    (demo sl).counterOf ((demo sl).coreCtx 0) 0x20100 = none :=
  ⟨⟨turn_of_turns (by decide), by decide, by decide, by decide, by decide⟩, by decide, ⟨turn_of_turns (by decide), by decide, by decide⟩, by decide⟩

/-- `demo` with group 5: the rectangle of core 0 alone, with a barrier and a reduction. -/
def grouped (sl : Slot) : State :=
  { demo sl with ctxs := [(0, { live := true, clusters := [0], groups := [(5, (3#128) <<< 126)] })] }

theorem witness_SendInstructions :
    let sl := regs 8191 0 0
    (Turn (demo sl) {} .scalar sl ∧ (demo sl).replyClass sl = false ∧ (8191 : Word).toNat < 2 ^ 13 ∧ (demo sl).injRoomFor sl 1 = true) ∧
    (let full := { demo sl with cores := [(0, { ctx := some 0, part := 1, slots := [(0, some sl)], inj := List.replicate 32 {} })] }
     Turn full {} .scalar sl ∧ full.injRoomFor sl 1 = false) ∧
    2 ^ 13 ≤ (8192 : Word).toNat ∧
    (Turn (grouped (regs 5 0 0)) {} .scalar (regs 5 0 0) ∧ Group.v ((grouped (regs 5 0 0)).group 0 5) = true) ∧
    Group.v ((grouped (regs 6 0 0)).group 0 6) = false ∧
    (demo (regs 0 0 0)).forkDie 0 0 0 = some 0 ∧ (demo (regs 0x1FFF 0 0)).forkDie 0 0 0x1FFF = none :=
  ⟨⟨turn_of_turns (by decide), by decide, by decide, by decide⟩, ⟨turn_of_turns (by decide), by decide⟩, by decide,
   ⟨turn_of_turns (by decide), by decide⟩, by decide, by decide, by decide⟩

/-- `demo` on a channel of the reply class. -/
def replying (sl : Slot) : State :=
  { demo sl with cores := [(0, { ctx := some 0, part := 1, slots := [(0, some sl)], hte := [(0, 1 <<< 68)] })] }

theorem witness_ChannelsAndModes :
    (Turn (replying {}) {} .scalar {} ∧ (replying {}).replyClass {} = true) ∧
    (Turn (demo {}) {} .scalar {} ∧ (demo {}).prv {} = false ∧ (0x17F : Nat) < 0x180 ∧ (demo {}).replyClass {} = false ∧
      ∀ ch, ch < 64 → (0 : Word).getLsbD ch = true → ((demo {}).hte 0 ch).prv = false) ∧
    (let s := { demo (regs 2 0 0) with cores := [(0, { ctx := some 0, part := 1, slots := [(0, some (regs 2 0 0))], hte := [(1, 1 <<< 66)] })] }
     Turn s {} .scalar (regs 2 0 0) ∧ s.prv (regs 2 0 0) = false ∧ ((regs 2 0 0).getX 1).getLsbD 1 = true ∧ (s.hte 0 1).prv = true) ∧
    (Turn (ruled {}) {} .scalar {} ∧ (ruled {}).prv {} = true) ∧
    (let sl := regs 8191 0 0
     Turn (demo sl) {} .scalar sl ∧ (demo sl).replyClass sl = false ∧ (readSrc (demo sl) sl 1).1.toNat < 2 ^ 13 ∧
       (demo sl).injRoomFor sl 1 = true) :=
  ⟨⟨turn_of_turns (by decide), by decide⟩, ⟨turn_of_turns (by decide), by decide, by decide, by decide, by decide⟩,
   ⟨turn_of_turns (by decide), by decide, by decide, by decide⟩, ⟨turn_of_turns (by decide), by decide⟩,
   turn_of_turns (by decide), by decide, by decide, by decide⟩

/-- A core with sixteen accumulator units: four slices; its matrix queue holds the given entries. -/
def matrixed (q : List MatEntry) (sl : Slot) : State :=
  { demo sl with cores := [(0, { ctx := some 0, part := 0x101, slots := [(0, some sl)], matq := q })] }

theorem witness_MatrixQueue :
    let sl : Slot := { regs 0 0 32 with unpaired := 1 }
    let full := List.replicate 16 ({} : MatEntry)
    (Turn (matrixed [] sl) {} .scalar sl ∧ sl.irrev = false ∧ 4 * (3#2).toNat + 3 < partA ((matrixed [] sl).core 0).part ∧
      ((matrixed [] sl).core 0).matUsed < 16 ∧ sl.unpaired ≠ 0) ∧
    (operandRegion 0 32 (sizeA 16 32) ((matrixed [] sl).scrBytes 0) ∧ operandRegion 0 32 (sizeB true 32) ((matrixed [] sl).scrBytes 0)) ∧
    (Turn (matrixed full sl) {} .scalar sl ∧ 16 ≤ ((matrixed full sl).core 0).matUsed) ∧
    (Turn (demo sl) {} .scalar sl ∧ ¬ 4 * (0#2).toNat + 3 < partA ((demo sl).core 0).part) ∧
    (Turn (matrixed [] (regs 0x20000 0 0)) {} .scalar (regs 0x20000 0 0) ∧ (matrixed [] (regs 0x20000 0 0)).counterOf 0 0x20000 = some 0) ∧
    ((matrixed [] {}).counterOf 0 0 = none ∧ Slot.unpaired {} = 0) ∧
    (¬ operandRegion 64 32 (sizeA 4 32) ((matrixed [] sl).scrBytes 0) ∧ ¬ operandRegion 0 16 (sizeB false 16) ((matrixed [] sl).scrBytes 0)) := by
  refine ⟨⟨turn_of_turns (by decide), by decide⟩, ?_, ⟨turn_of_turns (by decide), by decide⟩, ⟨turn_of_turns (by decide), by decide⟩,
    ⟨turn_of_turns (by decide), by decide⟩, by decide, ?_⟩ <;> (unfold operandRegion; decide)

theorem witness_MatrixOperands :
    let sl := regs 0 32 0
    let two : State := { demo sl with cores := [(0, { ctx := some 0, part := 0x101 }), (1, { ctx := some 0, part := 0x101, slots := [(0, some sl)] })], cur := (1, 0) }
    let g := grouped (regs 7 5 0)
    let busy := matrixed [{ op := .mma 4 0 false 0 0 32 }] (regs 0 0 0)
    (Turn two {} .scalar sl ∧ two.cur.1 % 4 ≠ 0) ∧
    (Turn (matrixed [] sl) {} .scalar sl ∧ operandRegion 0 32 (sizeA 16 32) ((matrixed [] sl).scrBytes 0) ∧
      operandRegion 0 32 (sizeB true 32) ((matrixed [] sl).scrBytes 0)) ∧
    (¬ operandRegion 0 0 (sizeA 4 0) ((matrixed [] sl).scrBytes 0) ∧ ¬ operandRegion 0 8224 (sizeB false 8224) ((matrixed [] sl).scrBytes 0)) ∧
    (Turn (matrixed [] (regs 0 0 0)) {} .scalar (regs 0 0 0) ∧ (regs 0 0 0).mayAccess = true ∧ place 0 0 = .pool 0 0 ∧
      0 + 16384 ≤ (matrixed [] (regs 0 0 0)).scrBytes 0 ∧ ((matrixed [] (regs 0 0 0)).core 0).sliceBusy 3 = false) ∧
    (Turn busy {} .scalar (regs 0 0 0) ∧ (busy.core 0).sliceBusy 0 = true) ∧
    (Turn g {} .scalar (regs 7 5 0) ∧ Group.v (g.group 0 5) = true ∧ g.groupHas 0 5 0 = true ∧ Group.v (g.group 0 4) = false) := by
  refine ⟨⟨turn_of_turns (by decide), by decide⟩, ⟨turn_of_turns (by decide), ?_⟩, ?_, ⟨turn_of_turns (by decide), by decide⟩,
    ⟨turn_of_turns (by decide), by decide⟩, turn_of_turns (by decide), by decide⟩ <;> (unfold operandRegion; decide)

/-- No byte of a pool is poisoned in a state without poison, staged writes and lost cores. -/
theorem clean_of_none (s : State) (sl : Slot) (t off n : Nat) (h1 : s.poison = []) (h2 : (s.core t).stage = []) (h3 : (s.core t).lost = false) :
    s.clean sl t off n := by
  intro j _ _
  unfold State.poolByte
  split
  · rfl
  · simp [h2, stagedByte, State.poisoned, h1, h3, Sparse.get]

theorem witness_Quantise :
    let sl := regs 0 0x4000 0
    (Turn (demo sl) {} .scalar sl ∧ sl.mayAccess = true ∧ (4 : BitVec 3).toNat ≤ 4) ∧
    (operandRegion 0 32 (256 * 32) ((demo sl).scrBytes 0) ∧ operandRegion 0x4000 32 (sizeA 16 32) ((demo sl).scrBytes 0) ∧
      (demo sl).clean sl 0 0 (256 * 32)) ∧
    (¬ operandRegion 0x3D000 32 (256 * 32) ((demo sl).scrBytes 0) ∧ ¬ operandRegion 0x3DF80 32 (sizeB true 32) ((demo sl).scrBytes 0)) ∧
    ((3 : Nat) < 4 ∧ (List.replicate 32 0x3F800000).length = 32 ∧ ∀ x ∈ List.replicate 32 0x3F800000, x < 2 ^ 32) ∧
    (∃ x ∈ List.replicate 32 0x7F800000, x / 2 ^ 23 % 256 = 255) ∧ (∀ x ∈ List.replicate 32 0x3F800000, x / 2 ^ 23 % 256 ≠ 255) ∧
    (quantBlock 0 none (List.replicate 32 0x3F800000)).header ≠ 0 := by
  refine ⟨⟨turn_of_turns (by decide), by decide⟩, ⟨?_, ?_, clean_of_none _ _ _ _ _ rfl rfl rfl⟩, ?_, ⟨by decide, by decide, ?_⟩,
    ⟨0x7F800000, by decide, by decide⟩, ?_, by decide +kernel⟩
  · unfold operandRegion; decide
  · unfold operandRegion; decide
  · unfold operandRegion; decide
  · intro x hx; rw [List.eq_of_mem_replicate hx]; decide
  · intro x hx; rw [List.eq_of_mem_replicate hx]; decide


/-- The little-endian bytes of a list of words at pool offset 0 of core 0, as memory cells. -/
def poolWords (ws : List Nat) : List Host.Cell :=
  ((bytesOfWords (ws.map (BitVec.ofNat 64))).zipIdx.map (fun e => (2 ^ 48 + e.2, e.1))).filter (fun b => decide (b.2 ≠ 0))

/-- `demo` with words at offset 0 of its pool. -/
def holding (ws : List Nat) (sl : Slot) : State := { demo sl with mem := poolWords ws }

/-- A copy of one byte from address 0 to address `dst` (Tables 8.4 and 8.6). -/
def copyCard (dst : Nat) : List Nat := [1 <<< 60, 0, 0, 0, dst, 1]
/-- A gather of one element of four bytes (Table 8.9). -/
def gatherCard : List Nat := [4 <<< 60, 0, 0, 0, 1, 0, 0, 4, 0, 0]

theorem witness_JobsAndBarriers :
    let bar (id : Word) := regs id 0x20000 0
    let plain (g : Nat) := { demo (bar 5) with ctxs := [(0, { live := true, clusters := [0], groups := [(5, BitVec.ofNat 128 g)] })] }
    (∀ ws ∈ [copyCard 8, gatherCard, []], Turn (holding ws {}) {} .scalar {} ∧ (holding ws {}).replyClass {} = false ∧
      (holding ws {}).holdsBlock {} 0 256 ∧ (holding ws {}).injRoomFor {} 4 = true) ∧
    ((holding (copyCard 8) {}).cardOk { words := (holding (copyCard 8) {}).ownWords {} 0 32 } false = true ∧
      (holding gatherCard {}).cardOk { words := (holding gatherCard {}).ownWords {} 0 32 } true = true ∧
      (∀ gath, (holding [] {}).cardOk { words := (holding [] {}).ownWords {} 0 32 } gath = false)) ∧
    (Turn (demo (regs 0x40000 0 0)) {} .scalar (regs 0x40000 0 0) ∧ 0x40000 ≤ ((regs 0x40000 0 0).getX 1).toNat) ∧
    ((7 : Nat) < 2 ^ 11 ∧ 7 / 8 % 32 = 0 ∧ (2 ^ 11 ≤ 2048 ∨ 8 / 8 % 32 ≠ 0)) ∧
    (Turn (grouped (bar 5)) {} .scalar (bar 5) ∧ Group.v ((grouped (bar 5)).group 0 5) = true ∧ Group.rc ((grouped (bar 5)).group 0 5) = true ∧
      (grouped (bar 5)).groupHas 0 5 0 = true ∧ (grouped (bar 5)).counterOf 0 0x20000 = some 0) ∧
    Group.v ((grouped (bar 4)).group 0 4) = false ∧
    (Group.v ((plain (2 ^ 127)).group 0 5) = true ∧ Group.rc ((plain (2 ^ 127)).group 0 5) = false) ∧
    (Group.rc ((plain (2 ^ 127 + 2 ^ 126 + 2 ^ 123)).group 0 5) = true ∧ (plain (2 ^ 127 + 2 ^ 126 + 2 ^ 123)).groupHas 0 5 0 = false) := by
  refine ⟨?_, ⟨by decide, by decide, by decide⟩, ⟨turn_of_turns (by decide), by decide⟩, by decide, ⟨turn_of_turns (by decide), by decide⟩,
    by decide, by decide, by decide⟩
  intro ws hw; simp only [List.mem_cons, List.not_mem_nil, or_false] at hw
  obtain rfl | rfl | rfl := hw <;>
    exact ⟨turn_of_turns (by decide), by decide, ⟨by decide, by decide, clean_of_none _ _ _ _ _ rfl rfl rfl⟩, by decide⟩

theorem witness_IndexRequests :
    let sl := regs 0 0 0
    let blk : List Nat := [0x10000000000, 0, 0, 0, 0, 0, 0, 0]
    let s (perm : BitVec 8) := { ranged [range perm] sl with mem := poolWords blk }
    let r : IxReq := { fn := 5, words := (s 0xC2).ownWords sl 0 8 }
    let r2 : IxReq := { fn := 5, words := ({ ranged [] sl with mem := poolWords [0, 1 <<< 36] }).ownWords sl 0 8 }
    (Turn (s 0xC2) {} .scalar sl ∧ (s 0xC2).replyClass sl = false ∧ (s 0xC2).holdsBlock sl 0 64 ∧ (s 0xC2).injRoomFor sl 2 = true ∧
      r.blockOk = true ∧ (r.words.getD 0 0).toNat < 2 ^ 52 ∧ sl.mayAccess = true ∧ r.n 6 + 4096 ≤ (s 0xC2).scrBytes 0) ∧
    (let hot : Slot := { sl with irrev := true }
     Turn (demo hot) {} .scalar hot ∧ hot.irrev = true) ∧
    (let awaits : Slot := { loads := [{ acq := true }] }
     Turn (demo awaits) {} .scalar awaits ∧ awaits.mayAccess = false) ∧
    (((s 0xC2).core 0).rtab.find? (fun e => e.desc.covers 0x10000000000) = some { desc := range 0xC2 } ∧
      (range 0xC2).access 0x10000000000 permR sl.posted = .ok 0x100000 ∧ (range 0xC2).has permI = true ∧ (range 0xC2).vbase = 0x10000000000) ∧
    ((range 0xC0).access 0x10000000000 permR sl.posted = .ok 0x100000 ∧ (range 0xC0).has permI = false) ∧
    r2.blockOk = false ∧
    0x40000 ≤ ((regs 0x40000 0 0).getX 1).toNat :=
  ⟨⟨turn_of_turns (by decide), by decide, ⟨by decide, by decide, clean_of_none _ _ _ _ _ rfl rfl rfl⟩, by decide, by decide, by decide, by decide, by decide⟩,
   ⟨turn_of_turns (by decide), by decide⟩, ⟨turn_of_turns (by decide), by decide⟩, by decide, by decide, by decide, by decide⟩

theorem witness_RangeRequests :
    let sl := regs 0x10000000000 0x10000000000 16
    let s (perm : BitVec 8) := withDir [range perm] (ruled sl)
    (Turn (s 0xC8) {} .scalar sl ∧ sl.irrev = false ∧ sl.stores.length < 64 ∧ (s 0xC8).counterOk 0 ∧ ¬ (s 0xC8).counterOk 1 ∧ (s 0xC8).prv sl = true) ∧
    (∃ d, (s 0xC8).coveredBy (sl.getX 1) = some d ∧ d.has permM = true ∧ (s 0xC8).coveredBy (sl.getX 2) = some d) ∧
    (∃ d, (s 0xC0).coveredBy (sl.getX 1) = some d ∧ d.has permM = false) ∧
    (s 0xC8).coveredBy (0x10000001000 : Word) = none ∧ (regs 0 0 0).getX 1 = 0 := by
  refine ⟨⟨turn_of_turns (by decide), by decide, by decide, .inl rfl, ?_, by decide⟩, ⟨_, rfl, by decide, by decide⟩, ⟨_, rfl, by decide⟩, by decide, by decide⟩
  unfold State.counterOk; decide

theorem witness_ProbesAndQueries :
    let sl := regs 0x10000000000 0x10000000000 0
    let table (n : Nat) : List RtEntry :=
      { desc := range 0xC0, pins := 0 } :: (List.range n).map (fun i => { desc := { tiled (i + 1) with size := 16 }, pins := 1 })
    let pinned (n : Nat) : State := { demo sl with cores := [(0, { ctx := some 0, part := 1, slots := [(0, some sl)], rtab := table n })] }
    (∀ n ∈ [15, 16], Turn (pinned n) {} .scalar sl ∧ ((pinned n).core 0).rtab.find? (fun e => e.desc.covers 0x10000000000) =
      some { desc := range 0xC0, pins := 0 } ∧ ((pinned n).core 0).rtab.countP (fun x => decide (x.pins ≠ 0)) = n) ∧
    (let s := ranged [] sl
     Turn s {} .scalar sl ∧ (s.core 0).rtab.find? (fun e => e.desc.covers 0x10000000000) = none ∧ (s.die (coreDie 0)).misses = []) ∧
    (let s := { ranged [] sl with dies := [(0, { misses := List.replicate 64 {} })] }
     Turn s {} .scalar sl ∧ 64 ≤ (s.die (coreDie 0)).misses.countP (fun m => decide (coreCluster m.core % 4 = coreCluster 0 % 4))) ∧
    (Slot.mayAccess { loads := [{ acq := true }] } = false ∧ Turn (demo { loads := [{ acq := true }] }) {} .scalar { loads := [{ acq := true }] }) ∧
    (let q := regs 0x3DFE0 0x10000000000 0
     let s := withDir [range 0xC0] (demo q)
     Turn s {} .scalar q ∧ 0x3DFE0 % 32 = 0 ∧ 0x3DFE0 + 32 ≤ s.scrBytes 0 ∧ (s.coveredBy (q.getX 2)).isSome = true ∧
       (s.newJournal [] ((List.range 4).flatMap (fun i => bytesAt (0x3DFE0 + 8 * i) (poolKey 0 (0x3DFE0 + 8 * i)) 8
         ((descWords (s.coveredBy (q.getX 2))).getD i 0)))).length ≤ 64) ∧
    (16 : Nat) % 32 ≠ 0 := by
  refine ⟨?_, ⟨turn_of_turns (by decide), by decide, by decide⟩, ⟨turn_of_turns (by decide), by decide⟩, ⟨by decide, turn_of_turns (by decide)⟩,
    ⟨turn_of_turns (by decide), by decide, by decide, by decide, by decide⟩, by decide⟩
  intro n hn; simp only [List.mem_cons, List.not_mem_nil, or_false] at hn
  obtain rfl | rfl := hn <;> exact ⟨turn_of_turns (by decide), by decide, by decide⟩

theorem witness_ParcelRequests :
    let sl := regs 0x10000000000 0xFFFFFFF 0
    let s (d : Desc) := withDir [d] (demo sl)
    (∀ d ∈ [range 0xCC, parcel 0xC4, range 0x80, { range 0xCC with st := 1 }], Turn (s d) {} .scalar sl ∧ (s d).coveredBy (sl.getX 1) = some d) ∧
    ((s (range 0xCC)).counterOk 0 ∧ (0xFFFFFFF : Word).toNat < 2 ^ 28 ∧ sl.irrev = false ∧ sl.stores.length < 64) ∧
    ((range 0xCC).pcl = false ∧ (range 0xCC).has (permP ||| permM) = true ∧ (range 0xCC).fit = true ∧ (range 0xCC).has permW = true) ∧
    ((parcel 0xC4).pcl = true ∧ (parcel 0xC4).st ≠ 0 ∧ (parcel 0xC4).st ≠ 5) ∧
    (let d := { parcel 0xC4 with st := 5 }
     (s d).coveredBy (sl.getX 1) = some d ∧ d.pcl = true ∧ d.st = 5 ∧ d.vbase = (sl.getX 1).toNat) ∧
    ((range 0x80).has (permP ||| permM) = false ∧ (range 0x80).has permW = false) ∧
    ({ range 0xCC with st := 1 } : Desc).fit = false ∧
    (s (range 0xCC)).coveredBy 0 = none := by
  refine ⟨?_, ⟨.inl rfl, by decide⟩, by decide, by decide, by decide, by decide, by decide, by decide⟩
  intro d hd; simp only [List.mem_cons, List.not_mem_nil, or_false] at hd
  obtain rfl | rfl | rfl | rfl := hd <;> exact ⟨turn_of_turns (by decide), by decide⟩

theorem witness_CsrAccess :
    let away (sl : Slot) : State := { ruled sl with ctxs := [(0, { live := true, clusters := [0], sup := 1 })] }
    (Turn (ruled {}) {} .scalar {} ∧ (ruled {}).prv {} = true ∧ ((ruled {}).ctx ((ruled {}).coreCtx 0)).sup = 0 ∧
      (4, 65536) ∈ (ruled {}).ctxCsrs 0) ∧
    (Turn (away {}) {} .scalar {} ∧ ((away {}).ctx ((away {}).coreCtx 0)).sup ≠ 0 ∧ (away {}).prv {} = true) ∧
    (Turn (demo {}) {} .scalar {} ∧ (demo {}).prv {} = false) ∧
    ((0x17E : Nat) = 0x100 + 2 * 63 ∧ 0x17F = 0x101 + 2 * 63 ∧ 10 ≤ 0xFF ∧ 0x180 ≤ (0x180 : BitVec 12).toNat) ∧
    ((127 : Word).toNat < 2 ^ 7 ∧ (1 : Word).toNat < 2 ∧ (0x7FFFFF : Word).extractLsb' 23 28 = 0 ∧ 256 ≤ (256 : Word).toNat ∧
      (0xFFFFFFFFFFF00 : Word).extractLsb' 0 8 = 0 ∧ (0xFFFFFFFFFFF00 : Word).extractLsb' 52 12 = 0 ∧ 128 ≥ 2 ^ 7) ∧
    (Hte.ok 63 ((0 : Word) ++ (0 : Word)) = true ∧ Hte.ok 63 ((0 : Word) ++ (1 : Word)) = false) ∧
    (Turn (ruled { halfHte := some (63, 1) }) {} .scalar { halfHte := some (63, 1) }) :=
  ⟨⟨turn_of_turns (by decide), by decide, by decide, by decide⟩, ⟨turn_of_turns (by decide), by decide, by decide⟩,
   ⟨turn_of_turns (by decide), by decide⟩, by decide, by decide, by decide, turn_of_turns (by decide)⟩

theorem witness_SupervisorInstructions :
    let sl := regs 0 64 5
    let logged (rs : List (List Word)) : State :=
      { ruled (regs 5 64 0) with ctxs := [(0, { live := true, clusters := [0], rings := [(5, { recs := rs })] })] }
    (Turn (ruled sl) {} .scalar sl ∧ (ruled sl).prv sl = true ∧ (ruled sl).inSet 0 0 = true ∧ sl.irrev = false ∧ sl.stores.length < 64 ∧
      64 % 64 = 0 ∧ (ruled sl).counterOk 0) ∧
    (Turn (ruled (regs 16 0 0)) {} .scalar (regs 16 0 0) ∧ (ruled (regs 16 0 0)).inSet 0 16 = false) ∧
    ((demo sl).prv sl = false ∧ (7 : Nat) ≤ 7 ∧ (2 : Nat) ≤ 2 ∧ 65536 ≤ 2 ^ 32) ∧
    (∀ rs ∈ [[], [[1, 2, 3, 4, 5, 6, 7, (8 : Word)]]], Turn (logged rs) {} .scalar (regs 5 64 0) ∧ (logged rs).prv (regs 5 64 0) = true ∧
      (5 : Nat) ≤ 5 ∧ 64 < (logged rs).scrBytes 0 ∧ (((logged rs).ctx ((logged rs).coreCtx 0)).ring 5).recs = rs) := by
  refine ⟨⟨turn_of_turns (by decide), by decide, by decide, by decide, by decide, by decide, .inl rfl⟩, ⟨turn_of_turns (by decide), by decide⟩, by decide, ?_⟩
  intro rs hr; simp only [List.mem_cons, List.not_mem_nil, or_false] at hr
  obtain rfl | rfl := hr <;> exact ⟨turn_of_turns (by decide), by decide, by decide, by decide, by decide⟩

theorem witness_SpanEnds :
    let all : List (BitVec 3) := [1, 2, 3, 4, 5, 6, 7]
    (Turn (demo {}) {} .scalar {} ∧ Slot.unpaired {} = 0 ∧ (Slot.flushLate {}).consume all = .done {} ∧ Slot.loads {} = [] ∧
      (demo {}).optCounter ((demo {}).coreCtx 0) 0 = some none) ∧
    (Turn (demo { unpaired := 1 }) {} .scalar { unpaired := 1 } ∧ Slot.unpaired { unpaired := 1 } ≠ 0) ∧
    (let sl : Slot := { cnt := 0x20000 }
     Turn (demo sl) {} .scalar sl ∧ sl.flushLate.consume all = .done sl ∧ (demo sl).optCounter 0 0x20000 = some (some 0)) ∧
    ((demo {}).optCounter 0 1 = none) ∧
    (let sl : Slot := { loads := [{}] }
     Turn (demo sl) {} .scalar sl ∧ sl.flushLate.consume all = .done sl ∧ sl.loads ≠ []) ∧
    (let sl : Slot := { landing := [{ tag := 7 }] }
     Turn (demo sl) {} .scalar sl ∧ ∃ q, sl.flushLate.consume all = .wait q) ∧
    (let sl : Slot := { landing := [{ tag := 7, st := .fault { cause := .memPoison } }] }
     Turn (demo sl) {} .scalar sl ∧ ∃ pc tr, sl.flushLate.consume all = .fault pc tr) ∧
    (let sl : Slot := { hold := .drain }
     (demo sl).slot 0 0 = some sl ∧ sl.hold = .drain ∧ ((demo sl).core 0).failed = false ∧ ((demo sl).core 0).released = [] ∧ ((demo sl).core 0).inj = [] ∧
       (∀ m, m < 16 → ((demo sl).core (memberOf 0 m)).stage = []) ∧ (demo sl).fab.peers = [] ∧ (demo sl).hostOut = [] ∧ ((demo sl).core 0).answered = []) ∧
    (let sl : Slot := { hold := .drain, act := 1, scDrain := true }
     let s : State := { demo sl with
       cores := [(0, { ctx := some 0, slots := [(0, some sl)], released := [{ act := 1, e := { op := .cadd 0 1 } }],
                       inj := [{ act := 1, released := true }], stage := [{ act := 1, id := 1 }], nextEntry := 1, answered := [(1, 0, 7)] }),
                 (1, { ctx := some 0, released := [{ e := { id := 7, op := .store [(0, 0, 0)] } }] })]
       fab := { peers := [(3, { waiting := [{ posted := true, act := 1 }] })] }, hostOut := [{ act := 1 }] }
     s.slot 0 0 = some sl ∧ (s.core 0).failed = false ∧ sl.hold = .drain ∧ (∃ r ∈ (s.core 0).released, r.act = sl.act ∧ r.e.op ≠ .marker ∧
       (r.e.op.isWrite = true ∨ r.left = none)) ∧
       (∃ e ∈ (s.core 0).inj, e.act = sl.act ∧ e.released = true) ∧
       (∃ e ∈ (s.core (memberOf 0 0)).stage, e.core = 0 ∧ e.act = sl.act ∧ e.id ≤ (s.core 0).nextEntry) ∧
       (∃ p ∈ s.fab.peers, ∃ x ∈ p.2.kept ++ p.2.waiting, x.posted = true ∧ x.core = 0 ∧ x.act = sl.act) ∧
       (∃ w ∈ s.hostOut, w.core = 0 ∧ w.act = sl.act) ∧ sl.scDrain = true ∧
       (∃ a ∈ (s.core 0).answered, a.1 = sl.act)) := by
  refine ⟨⟨turn_of_turns (by decide), by decide⟩, ⟨turn_of_turns (by decide), by decide⟩, ⟨turn_of_turns (by decide), by decide⟩, by decide,
    ⟨turn_of_turns (by decide), by decide⟩, ⟨turn_of_turns (by decide), _, rfl⟩, ⟨turn_of_turns (by decide), _, _, rfl⟩, by decide, by decide⟩

theorem witness_AbortRestores :
    let word : Journal := { key := poolKey 0 0x3DFF8, old := 1, poison := true }
    let sl : Slot := { journal := [word], ckpt := some { pc := 24 } }
    (Turn (demo { irrev := true }) {} .scalar { irrev := true }) ∧
    (Turn (demo sl) {} .scalar sl ∧ sl.irrev = false ∧ sl.hold ≠ .drain ∧ (demo sl).journalBad 0 0 sl.journal.length = false ∧ (sl.journal.map Journal.key).Nodup ∧
      (∀ e ∈ sl.journal, e.key % 8 = 0 ∧ ∃ o off, e.key = poolKey o off ∧ off + 8 ≤ (demo sl).scrBytes o) ∧ (demo sl).ckptBad 0 0 = false) ∧
    (Turn (demo { held := [{}] }) {} .scalar { held := [{}] }) := by
  refine ⟨turn_of_turns (by decide), ⟨turn_of_turns (by decide), by decide, by decide, by decide, by decide, ?_, by decide⟩, turn_of_turns (by decide)⟩
  intro e he; simp only [List.mem_cons, List.not_mem_nil, or_false] at he
  subst he; exact ⟨by decide, 0, 0x3DFF8, by decide, by decide⟩

theorem witness_TrapsAndReturns :
    (∀ sl ∈ [({ irrev := true } : Slot), { held := [{ att := 3 }] }, { held := [{ att := 2 }] }, { ckpt := some {} }, { child := some { att := 3 } }, { hold := .drain }],
      (demo sl).slot 0 0 = some sl ∧ ((demo sl).core 0).ctx = some 0 ∧ (demo sl).journalBad 0 0 sl.journal.length = false) ∧
    (Cause.klass .spanAbort ≠ .m ∧ Cause.klass .spanAbort ≠ .t) ∧ Cause.klass .memAlign = .m ∧ Cause.klass .memPoison = .t ∧
    (let s : State := { demo {} with cores := [(0, { ctx := some 0, released := [{ e := { op := .sret 0 3 0 } }] })] }
     s.performable 0 0 = some { e := { op := .sret 0 3 0 } } ∧ ∀ e ∈ (s.core 0).slots, ∀ sl, e.2 = some sl → sl.hold ≠ .parked) := by
  refine ⟨?_, by decide, by decide, by decide, by decide, ?_⟩
  · intro sl hb; simp only [List.mem_cons, List.not_mem_nil, or_false] at hb
    obtain rfl | rfl | rfl | rfl | rfl | rfl := hb <;> decide
  · intro e he; exact nomatch he

theorem witness_BindingAndBudget :
    let h : BitVec 128 := (1 <<< 64) ||| (1 <<< 76) ||| (2 <<< 80)
    let inbox (ch : BitVec 6) (task : Bool) : List Msg := [{ chan := ch, task := task, body := [12, 1, 2, 3, 4, 0x20000] }]
    let bound (ch : BitVec 6) (resume : List (Nat × Word)) (task : Bool) : State :=
      { demo {} with cores := [(0, { ctx := some 0, part := 1, hte := [(ch.toNat, h)], resume := resume, inbox := inbox ch task })] }
    (∀ e ∈ [(63, bound 63 [(63, 24)] false), (63, bound 63 [] false), (0, bound 0 [] true)], (e.2.core 0).mayBind = true ∧
      (e.2.core 0).freeSlot = some 0 ∧ ∃ aged, (e.2.core 0).select = some (e.1, aged)) ∧
    (∀ sl ∈ [({ budget := some 0 } : Slot), { budget := some 0, irrev := true }], (demo sl).slot 0 0 = some sl ∧ sl.hold ≠ .parked ∧
      sl.hold ≠ .drain ∧ ((demo sl).core 0).ctx = some 0 ∧ (demo sl).journalBad 0 0 sl.journal.length = false) ∧
    ((demo { budget := some 1 }).slot 0 0 = some { budget := some 1 } ∧ Slot.budget { budget := some 1 } ≠ some 0) ∧
    (let s (q : Bool) : State := { demo {} with cores := [(0, { ctx := some 0, preempt := true, quietSent := q })] }
     (∀ p, ((demo {}).core 0).lastOf p < 64) ∧ ∀ q, ((s q).core 0).ctx = some 0 ∧ ((s q).core 0).preempt = true ∧ ((s q).core 0).spawns = [] ∧ ((s q).core 0).quietSent = q) := by
  refine ⟨?_, ?_, by decide, fun _ => of_decide_eq_true rfl, by decide⟩
  · intro e he; simp only [List.mem_cons, List.not_mem_nil, or_false] at he
    obtain rfl | rfl | rfl := he <;> exact ⟨by decide, by decide, false, by decide⟩
  · intro sl hb; simp only [List.mem_cons, List.not_mem_nil, or_false] at hb
    obtain rfl | rfl := hb <;> decide

/-- ResetState has no hypotheses; from a canonical memory a step answers a next state. -/
theorem witness_StepKeepsMemory : Memory.wf (demo {}).mem = true ∧
    (match step { demo {} with agenda := [.take (.li {} 3 7)] } with | .next _ => true | _ => false) = true := by decide

theorem witness_StepRunsDecoded :
    (let s : State := { demo {} with agenda := [.take (.thermalThrottle 0 false), .wait 3, .issue 0 1] }
     s.agenda = .take (.thermalThrottle 0 false) :: [.wait 3, .issue 0 1] ∧ s.slot 0 1 = none) ∧
    (let w := (0x21#8 ++ 0#4 ++ 3#6 ++ 0#12 ++ 0#34 ++ 7#32).toNat
     let bs := leBytes 64 (w <<< 384)
     let sl : Slot := { pc := 48, line := some (0, bs) }
     let s : State := { demo sl with agenda := [.issue 0 0] }
     let core : Core := { ctx := some 0, part := 1, slots := [(0, some sl), (1, some sl)], turnA := 0, turnM := 0 }
     let two : State := { s with cores := [(0, core)] }
     let idle : State := { s with cores := [(0, { core with part := 2, slots := [(0, some sl), (1, none)], hte := [(63, (1 <<< 64) ||| (1 <<< 76))], inbox := [{ chan := 63 }] })] }
     let port := (instrPortM (.li {} 3 7)).getD true
     (s.binds 0 = false ∧ (s.core 0).issued = [] ∧ s.yields 0 port 0 = false) ∧ (two.binds 0 = false ∧ (two.core 0).issued = [] ∧ two.yields 0 port 0 = true) ∧
     idle.binds 0 = true ∧ sl.lead = 0 ∧
     s.slot 0 0 = some sl ∧ sl.hold = .ready ∧ sl.budget ≠ some 0 ∧ (s.core 0).failed = false ∧ sl.task = none ∧ (sl.pc.toNat % 64) % 12 = 0 ∧
       sl.pc.toNat % 64 < 60 ∧ sl.line = some (BitVec.ofNat 32 (sl.pc.toNat / 64 * 64), bs) ∧ sl.entry = none ∧ lineLk (leNat bs) = 0 ∧
       lineIllegal (leNat bs) 4 = false ∧ (decode (BitVec.ofNat 96 (leNat bs / 2 ^ (96 * 4)))).toOption = some (.li {} 3 7)) := by decide +kernel

theorem witness_FetchAndCorrection :
    let at_ (pc : Pc) : Slot := { pc := pc }
    (∀ pc ∈ [(0x8003DF80 : Pc), 0x8003DFB0, 0x8003E000], (demo (at_ pc)).slot 0 0 = some (at_ pc) ∧ (at_ pc).task = none ∧ (at_ pc).line = none ∧
      (pc.toNat % 64) % 12 = 0 ∧ pc.toNat % 64 < 60 ∧ 2 ^ 31 ≤ pc.toNat) ∧
    (let line := eccFill ((0x21#8 ++ 0#4 ++ 3#6 ++ 0#12 ++ 0#34 ++ 7#32).toNat + 2 ^ 497)
     eccRead line = .ok line ∧ eccRead (line ^^^ 1) = .corrected line ∧ (decode (lineSlot line 0)).toOption = some (.li {} 3 7) ∧ lineLk line = 0 ∧
       lineIllegal line 0 = false ∧ lineTm line 0 = true) ∧
    ((demo (at_ 0x8003E000)).scrBytes 0 ≤ 0x3E000 ∧ 0x3DF80 < (demo (at_ 0)).scrBytes 0) ∧
    (∃ line : Nat, line < 2 ^ 512) ∧ (511 : Nat) < 512 := by
  refine ⟨?_, by decide +kernel, by decide, ⟨0, Nat.two_pow_pos 512⟩, by decide⟩
  intro pc hp; simp only [List.mem_cons, List.not_mem_nil, or_false] at hp
  obtain rfl | rfl | rfl := hp <;> exact ⟨by decide, by decide, by decide, by decide, by decide, by decide⟩

/-- `demo` with entries of core 0's injection queue. -/
def sending (es : List Inj) : State := { demo {} with cores := [(0, { ctx := some 0, part := 1, slots := [(0, some {})], inj := es })] }

theorem jobLoad_ge (s : State) (d : Nat) (js : List Job) (h : (s.die d).jobs = js) : js.length ≤ s.jobLoad d := by
  subst h; exact Nat.le_add_right _ _

theorem witness_MessagesLeave :
    (∀ op ∈ [InjOp.msg {}, .mcast 5 {} [], .job {}, .index {} 0], (sending [{ op := op, released := true }]).mayInject 0 0 =
      some { op := op, released := true }) ∧
    (sending []).jobLoad 0 < 512 ∧ (let s := { sending [] with dies := [(0, { jobs := List.replicate 512 {} })] }
      512 ≤ s.jobLoad 0) ∧
    (sending []).mayInject 0 0 = none ∧
    (({ sending [] with cores := [(0, { recs := [{}] })] } : State).core 0).recs = [{}] ∧
    (({ sending [] with dies := [(0, { recs := [(3, {})] })] } : State).die 0).recs = [(3, {})] := by
  refine ⟨?_, by decide,
    Nat.le_trans (Nat.le_of_eq List.length_replicate.symm) (jobLoad_ge _ 0 (List.replicate 512 {}) rfl), by decide, rfl, rfl⟩
  intro op ho; simp only [List.mem_cons, List.not_mem_nil, or_false] at ho
  obtain rfl | rfl | rfl | rfl := ho <;> decide +kernel

/-- Core 0 with handler entries and an inbox; one message on its way. -/
def arriving (hte : List (Nat × BitVec 128)) (inbox : List Msg) (m : Msg) : State :=
  { demo {} with cores := [(0, { ctx := some 0, part := 1, hte := hte, inbox := inbox })], flight := [{ op := .msg m }] }

theorem witness_MessageArrives :
    let full0 := List.replicate 56 ({} : Msg)
    let v : BitVec 128 := 1 <<< 64
    (∀ e ∈ [(v, [], ({} : Msg)), (0, [], {}), (v, [], { ctx := 1 }), (v, [], { cls := true }), (v, full0, {}), (v, full0 ++ List.replicate 40 { area := 2 }, {}),
        (v ||| 1 <<< 68, List.replicate 8 { area := 1 }, { cls := true }), (v ||| 1 <<< 68, full0 ++ List.replicate 8 { area := 1 }, { cls := true })],
      let s := arriving [(0, e.1)] e.2.1 e.2.2
      s.behindFlight 0 { op := .msg e.2.2 } e.2.2 = false ∧ s.behindBack { op := .msg e.2.2 } e.2.2 = false ∧ (s.core 0).ctx = some 0 ∧ (s.core 0).lost = false) ∧
    (Hte.v v = true ∧ Hte.v 0 = false ∧ Hte.gw v = false ∧ Hte.cls v = false ∧ Hte.cls (v ||| 1 <<< 68) = true) ∧
    (((arriving [] full0 {}).core 0).areaUsed 0 = 56 ∧ ((arriving [] (List.replicate 8 { area := 1 }) {}).core 0).areaUsed 1 = 8 ∧
      ((arriving [] (List.replicate 40 { area := 2 }) {}).core 0).areaUsed 2 = 40) ∧
    (let f : Flight := { op := .msg { cls := true } }
     let s : State := { demo {} with flight := [{ f with src := 1, back := some 0 }, f] }
     s.flight[1]? = some f ∧ s.behindFlight 1 f { cls := true } = false ∧ s.behindBack f { cls := true } = true) ∧
    (let s (now : Nat) : State := { demo {} with cycle := now, cores := [(0, { ctx := some 0, stallSince := some 1, inbox := full0 ++ List.replicate 40 { area := 2 } })] }
     56 ≤ ((s 0).core 0).areaUsed 0 ∧ 40 ≤ ((s 0).core 0).areaUsed 2 ∧ ((demo {}).core 0).areaUsed 0 < 56 ∧
     ((s 0).core 0).stallSince = some 1 ∧ ((s 0).core 0).stallSent = false ∧ (s 1048576).cycle < 1 + 2 ^ 20 ∧ 1 + 2 ^ 20 ≤ (s 1048577).cycle) := by
  refine ⟨?_, by decide, by decide, by decide, by decide⟩
  intro e he; simp only [List.mem_cons, List.not_mem_nil, or_false] at he
  obtain rfl | rfl | rfl | rfl | rfl | rfl | rfl | rfl := he <;> decide

theorem witness_Tasks :
    let k : Task := { prio := 7, seq := 1 }
    let e : Inj := { op := .fork k 0 0, released := true }
    (sending [e]).mayInject 0 0 = some e ∧ ((sending [e]).bank 0 0).tasks.length < 4096 ∧
    (let s := { sending [] with dies := [(0, { banks := [(0, { tasks := [{ prio := 3 }, k] })] })], cores := [(0, { ctx := some 0, hte := [(0, 1 <<< 64)] })] }
     s.nextTask 0 0 = some (k, 0) ∧ (s.hte 0 0).v = true) ∧
    (∀ irrev : Bool, let l : Load := { op := .spawn 1 0 [] 0 }
     let sl : Slot := { loads := [l], irrev := irrev }
     let s : State := { demo sl with cores := [(0, { ctx := some 0, slots := [(0, some sl)] }), (1, { ctx := some 0, part := 1 })] }
     s.slot 0 0 = some sl ∧ sl.loads.find? (fun y => decide (y.id = 0)) = some l ∧ l.res = none ∧
       coreDie 1 = coreDie 0 ∧ s.inSet (s.coreCtx 0) 1 = true ∧ (s.core 1).ctx = some (s.coreCtx 0) ∧
       (s.core 1).lost = false ∧ (s.core 1).failed = false ∧ (s.core 1).hasFree = true ∧ (s.core 1).runnables = [] ∧ (s.core 1).preempt = false ∧ (s.core 1).recs.length < 8) ∧
    ¬ coreDie 1024 = coreDie 0 := by decide

/-- `demo` with one released entry of core 0. -/
def releasing (r : Rel) : State := { demo {} with cores := [(0, { ctx := some 0, part := 1, slots := [(0, some {})], released := [r] })] }

/-- A released entry that stands alone may be performed. -/
theorem witness_CounterEvents :
    (∀ op ∈ [SOp.cadd 3 7, .cerr 3 0x7F, .cinit 3 0 0], (releasing { e := { op := op } }).performable 0 0 = some { e := { op := op } }) ∧
    (let waits (w : Wait) : State := { demo {} with clusters := [(0, { waits := [w] })] }
     ∀ w ∈ [({} : Wait), { armed := true, fired := some (1, 2) }, { armed := true }, { armed := true, value := 1 }, { armed := true, sent := true }],
       ((waits w).cluster 0).waits[0]? = some w ∧ (w.ctr = 0 ∧ w.fired = none ∨ w.fired = some (1, 2))) ∧
    ((Wait.value {}).toNat ≤ ((demo {}).counter 0).val.toNat ∧ ((demo {}).counter 0).val.toNat < (1 : Word).toNat ∧ ((demo {}).counter 0).code = 0) ∧
    (let l : Load := { op := .cwait 3 1 9 5 }
     let sl : Slot := { loads := [l] }
     (demo sl).slot 0 0 = some sl ∧ sl.loads.find? (fun y => decide (y.id = 0)) = some l ∧ ((demo sl).cluster 0).waits.length < 1024 ∧
       1024 ≤ (({ demo sl with clusters := [(0, { waits := List.replicate 1024 {} })] } : State).cluster 0).waits.length) := by
  refine ⟨?_, by decide, by decide, by decide, by decide, by decide, Nat.le_of_eq List.length_replicate.symm⟩
  intro op ho; simp only [List.mem_cons, List.not_mem_nil, or_false] at ho
  obtain rfl | rfl | rfl := ho <;> decide

theorem witness_LoadReply :
    let loading (l : Load) : State := demo { loads := [l] }
    let mem : Load := { op := .mem .n16, bytes := [(5, none), (6, some 7)] }
    let atom : Load := { op := .atom .fadd 4 0x3F800000, bytes := [(8, none), (9, none), (10, none), (11, none)] }
    (∀ l ∈ [mem, atom, { op := .counter true 3 }, { res := some (.ready {}) }], (loading l).slot 0 0 = some { loads := [l] } ∧
      Slot.loads { loads := [l] } = [l] ∧ (loading l).loadMay 0 { loads := [l] } l = true ∧ (loading l).atomMay 0 { loads := [l] } l = true) ∧
    ((loading mem).reach 0 5 permR = .mem 5 ∧ (loading mem).poisoned 5 = false ∧ mem.bytes.length = 2) ∧
    ({ loading mem with poison := [(0, true)] } : State).poisoned 5 = true ∧
    ((loading atom).reach 0 (atom.keys.headD 0) (permR ||| permW ||| permA) = .mem 8) ∧
    (Slot.loadBefore {} { op := .counter true 3 } = false) := by
  refine ⟨?_, by decide, by decide, by decide, by decide⟩
  intro l hl; simp only [List.mem_cons, List.not_mem_nil, or_false] at hl
  obtain rfl | rfl | rfl | rfl := hl <;> decide

theorem witness_StorePerformed :
    let foreign : Nat := 0x800000000000
    (∀ op ∈ [SOp.store [(0, poolKey 0 0, 1)], .store [(0x10000000000, 0x100000, 1)], .store [(0x10000000000, foreign, 1)], .posted 0x10000000000 0x100000 .add 8 1,
        .dir (.make 0) 0, .purge 0 none 0], (releasing { e := { op := op } }).performable 0 0 = some { e := { op := op } }) ∧
    ((releasing {}).core 0).ctx = some 0 ∧
    (keyIsPool (poolKey 0 0) = true ∧ keyIsPool 0x100000 = false ∧ (releasing {}).reach 0 0x100000 permW = .mem 0x100000 ∧
      (releasing {}).poisoned 0x100000 = false ∧ (releasing {}).reach 0 0x100000 (permR ||| permW ||| permA) = .mem 0x100000) ∧
    (keyIsPool foreign = false ∧ (releasing {}).reach 0 foreign permW = .fault .rangeMiss) ∧
    (let s : State := { demo {} with fab := { peers := [(7, { handed := [(3, 2)] })] } }
     (s.core 0).ctx = some 0 ∧ s.slot 0 8 = none ∧ (s.peer 7).holds 3 2 = true) := by
  refine ⟨?_, by decide, by decide, by decide, by decide⟩
  intro op ho; simp only [List.mem_cons, List.not_mem_nil, or_false] at ho
  obtain rfl | rfl | rfl | rfl | rfl | rfl := ho <;> decide

theorem witness_BanksAndWalks :
    let staged (bs : List (Nat × Nat × Byte)) (p : List (Nat × Bool)) : State :=
      { demo {} with poison := p, cores := [(0, { ctx := some 0, part := 1, stage := [{ bytes := bs }] })] }
    (((staged [(0, 2 ^ 48, 1)] []).core 0).stage = [{ bytes := [(0, 2 ^ 48, 1)] }] ∧ (staged [(0, 2 ^ 48, 1)] []).poisoned (2 ^ 48) = false) ∧
    (((staged (bytesAt 0 (8 * 2 ^ 45) 8 5) [(2 ^ 48, true)]).core 0).stage = [{ bytes := bytesAt 0 (8 * 2 ^ 45) 8 5 }] ∧
      (staged (bytesAt 0 (8 * 2 ^ 45) 8 5) [(2 ^ 48, true)]).poisoned (8 * 2 ^ 45) = true) ∧
    ((staged [(0, 2 ^ 48, 1)] [(2 ^ 48, true)]).poisoned (2 ^ 48) = true ∧ ((staged [(0, 2 ^ 48, 1)] [(2 ^ 48, true)]).core 0).ctx = some 0) ∧
    (let sl : Slot := { hold := .walk }
     let s := { withDir [range 0xC0] (demo sl) with dies := [(0, { misses := [{ va := 0x10000000000 }] })] }
     (s.die 0).misses[0]? = some { va := 0x10000000000 } ∧ s.slot 0 0 = some sl ∧ s.dirFind (s.coreCtx 0) 0x10000000000 = some (range 0xC0) ∧
       (s.core 0).rtab.length < 32 ∧ s.dirFind (s.coreCtx 0) 0 = none) := by decide

theorem witness_SupervisorArrivals :
    let ctx0 (x : Ctx) : State := { demo {} with ctxs := [(0, x)] }
    (((ctx0 { folds := [{ act := 9, shadow := { flags := 2, msat := 5 } }] }).ctx 0).folds = [{ act := 9, shadow := { flags := 2, msat := 5 } }] ∧
      ∀ e ∈ ((ctx0 {}).core 0).slots, ∀ sl, e.2 = some sl → sl.act = 9 → sl.hold ≠ .drain ∨ sl.commits ≠ 0) ∧
    (let s : State := { demo { hold := .drain } with ctxs := [(0, { folds := [{}] })] }
     (s.ctx 0).folds = [{}] ∧ (∃ e ∈ (s.core 0).slots, ∃ sl : Slot, e.2 = some sl ∧ sl.act = 0 ∧ sl.hold = .drain ∧ sl.commits = 0) ∧
       (s.core 0).released = []) ∧
    (∀ f ∈ [(0 : BitVec 7), 1], ((ctx0 { flags := f, oobs := [(8191, 0x3FFFFF)] }).ctx 0).oobs = [(8191, 0x3FFFFF)] ∧
      ((ctx0 { flags := f, oobs := [(8191, 0x3FFFFF)] }).ctx 0).flags = f) ∧
    (((ctx0 { csrs := [.write 0 8 256] }).ctx 0).csrs = [.write 0 8 256]) ∧
    (let l : Load := { op := .csr 6 }
     let sl : Slot := { loads := [l] }
     let s : State := { demo sl with ctxs := [(0, { csrs := [.read 0 0 0 0] })] }
     (s.ctx 0).csrs = [.read 0 0 sl.act 0] ∧ s.slot 0 0 = some sl ∧ (6, 0) ∈ s.ctxCsrs 0) ∧
    (let l : Load := { op := .pstat 0x10000000000 }
     let sl : Slot := { loads := [l] }
     let s := withDir [range 0xC0] (demo sl)
     s.slot 0 0 = some sl ∧ s.dirFind (s.coreCtx 0) 0x10000000000 = some (range 0xC0) ∧ (demo sl).dirFind ((demo sl).coreCtx 0) 0x10000000000 = none) ∧
    (releasing { e := { op := .halt 0 false } }).performable 0 0 = some { e := { op := .halt 0 false } } := by
  refine ⟨⟨rfl, ?_⟩, ⟨rfl, ⟨(0, some { hold := .drain }), by decide, _, rfl, by decide⟩, rfl⟩, by decide⟩
  intro e he sl hs ha
  have he : e ∈ [(0, some ({} : Slot))] := he
  obtain rfl := List.mem_singleton.mp he; cases hs; exact absurd ha (by decide)

/-- A directory of one descriptor answers every address with that descriptor where it covers it. -/
theorem dirFind_one (s : State) (k ea : Nat) (d : Desc) (h1 : s.dirN k = 1) (h2 : s.dirDesc k 0 = d) (h3 : d.covers ea = true) :
    s.dirFind k ea = some d := by
  have h : ∀ n, walkFrom (s.dirDesc k) 1 ea n 0 = 0 := by
    intro n
    induction n with
    | zero => rfl
    | succ n ih =>
      have : ¬ (0 + 2 ^ n < 1) := by have := Nat.two_pow_pos n; omega
      simp [walkFrom, ih]
  unfold State.dirFind walkFind
  rw [h1, h, h2]
  simp [h3]

/-- A range of 2,048 units without offset, which a context image fits into. -/
def image : Desc := { vbase := 0x10000000000, perm := 0xC0, size := 2048, rhi := 2048, off := 0x100000 - 0x10000000000 }

theorem area_image (s : State) (h : s.poison = []) (h1 : s.dirN 0 = 1) (h2 : s.dirDesc 0 0 = image) (need : BitVec 8) (hn : image.has need = true) :
    s.area 0 0x10000000000 0x100000 266496 need := by
  refine ⟨by decide, fun j hj => ⟨?_, by simp [State.poisoned, h, Sparse.get]⟩⟩
  have hc : image.covers (0x10000000000 + j) = true := by
    have h1 : image.vbase ≤ 0x10000000000 + j := Nat.le_add_right _ _
    have h2 : 0x10000000000 + j < image.limit := by show _ < 0x10000000000 + 256 * 2048; omega
    simp [Desc.covers, h1, h2]
  have hr : image.resident (0x10000000000 + j) = true := by
    have h1 : image.resLo ≤ 0x10000000000 + j := Nat.le_add_right _ _
    have h2 : 0x10000000000 + j < image.resHi := by show _ < 0x10000000000 + 256 * 2048; omega
    simp [Desc.resident, h1, h2]
  have hp : image.pa (0x10000000000 + j) = 0x100000 + j := by
    have ho : image.off.toNat = 0x100000 + 2 ^ 64 - 0x10000000000 := by decide
    simp only [Desc.pa, ho]; omega
  unfold State.dirTranslate
  rw [if_neg (by omega), dirFind_one s 0 _ image h1 h2 hc]
  simp [Desc.access, hn, hr, hp, show image.away = false from by decide]

theorem witness_SaveAndLoad :
    let quiet (op : SOp) : State := withDir [image] { demo {} with cores := [(0, { ctx := some 0, part := 1, released := [{ e := { op := op } }] }),
      (1, { ctx := some 0, part := 1, preempt := true })] }
    (∀ op ∈ [SOp.ctxsave 1 0x10000000000 0, .ctxload 1 0x10000000000 0], (quiet op).performable 0 0 = some { e := { op := op } } ∧
      (quiet op).coreCtx 0 = 0 ∧ (quiet op).coreCtx 1 = 0 ∧ ((quiet op).core 1).quiescent = true) ∧
    ((quiet (.ctxsave 1 0x10000000000 0)).bankFlush 1).area 0 0x10000000000 0x100000 266496 permW ∧
    ((quiet (.ctxsave 1 0x10000000000 0)).bankFlush 1).poolPoison 1 = none ∧
    (quiet (.ctxload 1 0x10000000000 0)).area 0 0x10000000000 0x100000 266496 permR ∧
    (quiet (.ctxload 1 0x10000000000 0)).wordAt 0x100000 ≠ 0x4B580001 ∧
    (let s := (((quiet (.ctxload 1 0x10000000000 0)).setWord 0x100000 0x4B580001).setWord 0x100008 1).setWord 0x100018 1
     s.wordAt 0x100000 = 0x4B580001 ∧ s.wordAt 0x100008 = 1 ∧ s.wordAt 0x100018 = (s.core 1).part.toNat) ∧
    ((quiet (.ctxsave 0 0 0)).core 0).quiescent = false := by
  refine ⟨by decide, area_image _ rfl (by decide) (by decide) _ (by decide), by decide, area_image _ rfl (by decide) (by decide) _ (by decide),
    by decide, by decide, by decide⟩

/-- Four cores of one gang: members 0 to 3 with sixteen accumulator units each. -/
def gang4 (q : Nat → List MatEntry) (g : Gang) : State :=
  { demo {} with cores := (List.range 4).map (fun m => (m, { ctx := some 0, part := 0x101, matq := q m })), gangs := [(0, g)] }

/-- An arrival of every member of gang 0, with counter 5. -/
def arrivals4 : List GangArr := (List.range 4).map (fun m => { core := m, cycle := 7, ctr := 5 })

theorem witness_MatrixPerformed :
    let one (op : MatOp) : State := gang4 (fun m => if m = 0 then [{ op := op }] else []) {}
    (∀ op ∈ [MatOp.zero 3, .scale 3 0x40000000], (one op).hasSlice 0 3 = true ∧ ((one op).core 0).matq = [{ op := op }]) ∧
    (let s := gang4 (fun m => [{ op := .mma 4 m true 0 (0x1000 + 128 * m) 32 }]) { arrivals := arrivals4, step := some 0 }
     (s.gang 0).step = some 0 ∧ (s.gang 0).arrivals.length = 4 ∧ (∀ m, m < 4 → { core := m, cycle := 7, ctr := 5 } ∈ (s.gang 0).arrivals ∧
       ((s.core m).matq.head?.map MatEntry.act, (s.core m).matq.head?.map MatEntry.commits) = (some 0, some 0)) ∧ ∀ m, m < 4 → (s.core m).matq.head?.map MatEntry.op = some (.mma 4 m true 0 (0x1000 + 128 * m) 32) ∧
       s.hasSlice m m = true ∧ operandRegion (0x1000 + 128 * m) 32 (sizeB false 32) (s.scrBytes m) ∧ operandRegion 0 32 (sizeA 4 32) (s.scrBytes 0)) := by
  refine ⟨by decide, by decide, by decide, by decide, by unfold operandRegion; decide⟩

theorem witness_GangJoins :
    (let s (g : Gang) := gang4 (fun _ => [{ op := .gang 5 }]) g
     ((s {}).core 1).matq = [{ op := .gang 5 }] ∧ (s {}).gangExpired 0 = false ∧ ((s {}).gang 0).late.contains 1 = false ∧
       ((s { late := [1] }).gang 0).late.contains 1 = true ∧ (s { late := [1] }).gangExpired 0 = false) ∧
    (let s (k : Nat → Nat) := gang4 (fun m => [{ op := .mma 4 0 false 0 0 (k m) }]) { arrivals := arrivals4 }
     ((s (fun _ => 32)).gangReady 0 = true ∧ ∀ m, m < 4 → (s (fun _ => 32)).gangTerms 0 m = some (5, 32, 4)) ∧
     ((s (fun m => 32 * (m + 1))).gangReady 0 = true ∧ (s (fun m => 32 * (m + 1))).gangTerms 0 0 = some (5, 32, 4) ∧
       ∃ m, m < 4 ∧ (s (fun m => 32 * (m + 1))).gangTerms 0 m ≠ some (5, 32, 4)) ∧
     (∀ m, m < 4 → ∃ b ∈ ((s (fun _ => 32)).gang 0).arrivals, b.core = m)) ∧
    (let a : GangArr := { core := 2, cycle := 7, ctr := 5 }
     let s (now : Nat) : State := { gang4 (fun _ => []) { arrivals := [a] } with cycle := now }
     a.leads ((s 0).gang 0).arrivals ∧ (∀ b, b.leads ((s 0).gang 0).arrivals → b = a) ∧ (∃ m, m < 4 ∧ ∀ b ∈ ((s 0).gang 0).arrivals, b.core ≠ 0 + m) ∧
       (s 65542).cycle < 7 + ((s 0).ctx 0).gangTo.toNat ∧ 7 + ((s 0).ctx 0).gangTo.toNat ≤ (s 65543).cycle) := by
  refine ⟨by decide, by decide, ?_, ?_, by decide, by decide, by decide⟩
  · unfold GangArr.leads; decide
  · intro b hb; exact List.mem_singleton.mp hb.1

/-- `demo` with group 5 and rounds of it. -/
def rounds (r : MaxRound) (b : GbarRound) (sl : Slot) : State :=
  { demo sl with ctxs := [(0, { live := true, clusters := [0], groups := [(5, (3#128) <<< 126)], maxRounds := [(5, r)], gbarRounds := [(5, b)] })] }

theorem witness_Agreement :
    let l : Load := { op := .maxbar 5 0x80000001 }
    let sl : Slot := { loads := [l] }
    (∀ r ∈ [({} : MaxRound), { late := [0] }, { votes := [(0, 7)] }], (rounds r {} sl).slot 0 0 = some sl ∧
      sl.loads.find? (fun y => decide (y.id = 0)) = some l ∧ (rounds r {} sl).maxExpired 0 5 = false ∧ (rounds r {} sl).maxRound 0 5 = r) ∧
    (let s := rounds { votes := [(0, 7)] } {} sl
     s.groupMembers 0 5 = [0] ∧ (s.maxRound 0 5).votes ≠ [] ∧ (∀ m ∈ s.groupMembers 0 5, ∃ e ∈ (s.maxRound 0 5).votes, e.1 = m) ∧
       0 ∉ (s.maxRound 0 5).late) ∧
    (let s (now : Nat) : State := { rounds { votes := [(3, 7)], first := 1 } {} sl with cycle := now }
     (s 0).groupMembers 0 5 = [0] ∧ (∀ e ∈ ((s 0).maxRound 0 5).votes, e.1 ≠ 0) ∧ (s 65536).cycle < 1 + ((s 0).ctx 0).grpTo.toNat ∧
       1 + ((s 0).ctx 0).grpTo.toNat ≤ (s 65537).cycle) ∧
    (∀ b ∈ [({} : GbarRound), { late := [0] }], let e : Gbar := { grp := 5, ctr := 9 }
     let s : State := { rounds {} b {} with cores := [(0, { ctx := some 0, gbars := [e] })] }
     (s.core 0).gbars = [e] ∧ s.barMay 0 e = true ∧ (s.core 0).ctx = some 0 ∧ s.barExpired 0 5 = false ∧ s.barRound 0 5 = b) ∧
    (let s := rounds {} { arrived := [(0, 7, 9)] } {}
     s.barFull 0 5 = true ∧ (0, 7, 9) ∈ (s.barRound 0 5).arrived ∧ ∀ m ∈ s.groupMembers 0 5, ∃ y ∈ (s.barRound 0 5).arrived, y.1 = m) ∧
    (let s := rounds {} { arrived := [(3, 7, 9)] } {}
     (3, 7, 9) ∈ (s.barRound 0 5).arrived ∧ ∃ m ∈ s.groupMembers 0 5, ∀ y ∈ (s.barRound 0 5).arrived, y.1 ≠ m) := by decide

/-! ## Engines -/

/-- `demo` whose die 0 has the given jobs. -/
def working (js : List Job) : State := { demo {} with dies := [(0, { jobs := js })] }
/-- A job of core 0 with the given card words. -/
def jobOf (ws : List Nat) : Job := { words := ws.map (BitVec.ofNat 64) }

/-- The key of an engine's address, if it has one. -/
def engAt (s : State) (k c va : Nat) (need : BitVec 8) : Option Nat := match s.engKey k c va need with | .ok (.mem x) => some x | _ => none

theorem engAt_ok {s : State} {k c va key : Nat} {need : BitVec 8} (h : engAt s k c va need = some key) : s.engKey k c va need = .ok (.mem key) := by
  unfold engAt at h
  split at h
  · rename_i x hx; rw [hx, Option.some.inj h]
  · exact absurd h (by simp)

theorem holds_of {s : State} {k c va n : Nat} {f : Nat → Byte} (key : Nat → Nat)
    (h : ∀ i, i < n → engAt s k c (va + i) permR = some (key i) ∧ s.byte (key i) = f i ∧ s.poisoned (key i) = false ∧
      (keyIsPool (key i) = true → (s.core (keyCore (key i))).lost = false) ∧ (keyIsPool (key i) = false → paClass (key i) ≠ .peer)) :
    s.engHolds k c va n f := fun i hi => ⟨key i, engAt_ok (h i hi).1, (h i hi).2⟩

theorem takes_of {s : State} {k c va n : Nat} {key : Nat → Nat}
    (h : ∀ i, i < n → engAt s k c (va + i) permW = some (key i) ∧ s.poisoned (key i) = false ∧ (keyIsPool (key i) = false → paClass (key i) ≠ .peer)) :
    s.engTakes k c va n key := fun i hi => ⟨engAt_ok (h i hi).1, (h i hi).2⟩

theorem witness_JobsMoveData :
    let copy := jobOf (copyCard 8)
    let dist := jobOf [2 <<< 60, 0, 0, 0, 64, 0, 0x100, 64]
    let far := jobOf (copyCard 0x10000000000)
    let s := working [copy]
    (let f : State := { demo {} with flight := [{ op := .job copy }] }
     f.flight[0]? = some { op := .job copy } ∧ copy.die = 0 ∧ (f.die 0).jobs.length < 512 ∧ (f.die 0).recs.length < 64 ∧
       64 ≤ (({ f with dies := [(0, { recs := List.replicate 64 (0, {}) })] } : State).die 0).recs.length ∧
       f.storesBefore 0 0 none = false ∧
       ({ f with cores := [(0, { ctx := some 0, released := [{ e := { id := 0, op := .store [(0, 0x100000, 1)] } }, { e := { id := 1, op := .marker } }] })] } : State).storesBefore 0 0 (some 1) = true) ∧
    (let m := { range 0xC0 with st := 1 }
     let s := { withDir [m] (demo {}) with dies := [(0, { jobs := [far] })] }
     s.startable 0 0 = some far ∧ far.pins = [] ∧ s.moves far.ctx far.core far.runs = true) ∧
    (let j : Job := { copy with sent := some (4, 1), stop := some 0 }
     (working [j]).workable 0 0 = some j ∧ j.stop.isSome = true ∧ j.gone = none ∧ (working [j]).engOut 0 4 = false) ∧
    (let j : Job := { copy with sent := some (4, 1), gone := some 0 }
     (working [j]).workable 0 0 = some j ∧ j.gone.isSome = true ∧ (working [j]).engOut 0 4 = false) ∧
    (let read := jobOf [1 <<< 60, 0, 0, 0x10000000000, 8, 1]
     let d := { range 0x80 with off := 0x7F0000000000 }
     let w := withDir [d] (demo {})
     let s := { w with dies := [(0, { jobs := [read] })], mgmt := { w.mgmt with apert := [(0, 0x8000000000000001#64)] } }
     s.workable 0 0 = some read ∧ read.eng = 1 ∧ read.sent = none ∧ (s.flushCluster 0).readsAway read read.runs = true ∧ read.asks = [] ∧
       (s.flushCluster 0).engMiss 0 0 read.runs = none) ∧
    (let j : Job := { copy with sent := some (4, 1) }
     let s := working [j]
     s.workable 0 0 = some j ∧ j.sent = some (4, 1) ∧ s.engOut 0 4 = false ∧
       ({ s with hostOut := [{ ent := 4 }] } : State).engOut 0 4 = true) ∧
    (let h := { range 0xC0 with off := 0 }
     let s := { withDir [h] (demo {}) with dies := [(0, { jobs := [far] })] }
     s.workable 0 0 = some far ∧ (s.flushCluster 0).engTakes 0 0 0x10000000000 1 (fun _ => 0x10000000000) ∧ keyIsPool 0x10000000000 = false ∧
       paClass 0x10000000000 = .host) ∧
    (((working [copy, copy]).die 0).jobs[1]? = some copy ∧ copy ∈ ((working [copy, copy]).die 0).jobs.take 1 ∧ copy.unitId = copy.unitId) ∧
    (s.workable 0 0 = some copy ∧ copy.eng = 1 ∧ copy.sent = none ∧ (s.flushCluster 0).engSettles 0 1 (fun _ => poolKey 0 8) ∧ (s.flushCluster 0).engHolds 0 0 0 1 (fun _ => 0) ∧
      (s.flushCluster 0).engTakes 0 0 8 1 (fun _ => poolKey 0 8) ∧ copy.n 2 = 0 ∧ 0 + 1 ≤ 8) ∧
    (let p := { s with poison := [(2 ^ 48, true)] }
     p.workable 0 0 = some copy ∧ (p.flushCluster 0).engKey 0 0 (0 + 0) permR = .ok (.mem (poolKey 0 0)) ∧
       (p.flushCluster 0).poisoned (poolKey 0 0) = true ∧ (p.flushCluster 0).engHolds 0 0 0 0 (fun _ => 0) ∧
       (p.flushCluster 0).engTakes 0 0 8 1 (fun _ => poolKey 0 8) ∧ (p.flushCluster 0).engFault 0 0 [(0, 1, permR)] = none ∧
       (p.flushCluster 0).engSettles 0 0 (fun _ => poolKey 0 8) ∧ (p.flushCluster 0).readsAway copy copy.runs = false) ∧
    ((working [far]).workable 0 0 = some far ∧
      ((working [far]).flushCluster 0).engMiss 0 0 [(0, 1, permR), (0x10000000000, 1, permW)] = some 0x10000000000) ∧
    ((working [dist]).workable 0 0 = some dist ∧ dist.eng = 2 ∧ 64 ≤ dist.n 7 ∧
      ((working [dist]).flushCluster 0).engFault 0 0 [(0, 64, permR)] = none ∧ ((working [dist]).flushCluster 0).readsAway dist dist.runs = false ∧ ((working [dist]).flushCluster 0).distOk 0 dist = true ∧
      ((working [dist]).flushCluster 0).engHolds 0 0 0 64 (fun _ => 0)) ∧
    32 < (jobOf [2 <<< 60, 0, 0, 0, 64, 31 + 1 <<< 10, 0, 64]).n 5 % 32 + ((jobOf [2 <<< 60, 0, 0, 0, 64, 31 + 1 <<< 10, 0, 64]).n 5 / 2 ^ 10 % 32 + 1) := by
  exact ⟨by decide, by decide, by decide, by decide, by decide, by decide, ⟨by decide, takes_of (by decide), by decide⟩, by decide,
    ⟨by decide, by decide, by decide, ⟨by decide, by decide⟩, holds_of (fun i => poolKey 0 i) (by decide), takes_of (by decide), by decide⟩,
    ⟨by decide, engAt_ok (by decide), by decide, fun i hi => absurd hi (Nat.not_lt_zero i), takes_of (by decide), by decide, ⟨by decide, fun i hi => absurd hi (Nat.not_lt_zero i)⟩, by decide⟩, by decide,
    ⟨by decide, by decide, by decide, by decide, by decide, by decide, holds_of (fun i => poolKey 0 i) (by decide +kernel)⟩, by decide⟩

theorem witness_BrambleMerges :
    let job (na : Nat) := jobOf [3 <<< 60, 0, 0, 0, 0x100, 0x200, 0x300, 0x400, 0x500, na, 1, 1]
    let s (na : Nat) := working [job na]
    ∀ na ∈ [1, 2], (s na).workable 0 0 = some (job na) ∧ (job na).eng = 3 ∧ (job na).sent = none ∧ (job na).n 9 ≤ 2 ^ 24 ∧ (job na).n 10 ≤ 2 ^ 24 ∧
      ((s na).flushCluster 0).engSettles 0 (4 * (na + 1)) (fun i => poolKey 0 (0x400 + i)) ∧
      ((s na).flushCluster 0).engHolds 0 0 0 (4 * na) (fun i => byteOf ((fun _ => 0) (i / 4)) (i % 4)) ∧
      ((s na).flushCluster 0).engTakes 0 0 0x400 (4 * (na + 1)) (fun i => poolKey 0 (0x400 + i)) := by
  intro job s na hn; simp only [List.mem_cons, List.not_mem_nil, or_false] at hn
  obtain rfl | rfl := hn <;>
    exact ⟨by decide, by decide, by decide, by decide, by decide, ⟨by decide, by decide⟩, holds_of (fun i => poolKey 0 i) (by decide), takes_of (by decide)⟩

theorem witness_GatherMoves :
    let plain := jobOf gatherCard
    let kernel (pc : Nat) := jobOf [4 <<< 60, 0, 0, 0x100, 33, 1, 0, 4, 0x200, pc]
    let runs (r : State × Except Pc (List Byte)) : Bool := match r.2 with | .ok _ => true | .error _ => false
    let code (j : Job) : State := { working [j] with mem := [(2 ^ 48 + 11, 0x32), (2 ^ 48 + 62, 0xC2), (2 ^ 48 + 63, 0x66)] }
    ((working [plain]).workable 0 0 = some plain ∧ plain.eng = 4 ∧ plain.sent = none ∧ plain.n 9 = 0 ∧
      ((working [plain]).flushCluster 0).engOut 0 0 = false ∧ ((working [plain]).flushCluster 0).moves 0 0 [(0, 4, permR), (0, 4, permW)] = false ∧
      ((working [plain]).flushCluster 0).engHolds 0 0 0 (4 * 1) (fun i => byteOf ((fun _ => 0) (i / 4)) (i % 4)) ∧
      ((working [plain]).flushCluster 0).engTakes 0 0 0 4 (fun i => poolKey 0 i) ∧ plain.n 5 ≤ 0 ∧
      (jobOf [4 <<< 60, 0, 0, 0, 1, 1, 0, 4, 0, 0]).n 5 = 1) ∧
    ((code (kernel 0x80000000)).workable 0 0 = some (kernel 0x80000000) ∧ (kernel 0x80000000).lines < (kernel 0x80000000).lineCount ∧
      ((code (kernel 0x80000000)).flushCluster 0).readsAway (kernel 0x80000000) (kernel 0x80000000).runs = false ∧
      ((code (kernel 0x80000000)).flushCluster 0).engHolds 0 0 0x100 128 (fun _ => 0) ∧
      runs (((code (kernel 0x80000000)).flushCluster 0).runKernel (kernel 0x80000000) 0 (List.replicate 128 0)) = true) ∧
    runs (((working [kernel 0x80000000]).flushCluster 0).runKernel (kernel 0x80000000) 0 (List.replicate 128 0)) = false := by
  exact ⟨⟨by decide, by decide, by decide, by decide, by decide, by decide, holds_of (fun i => poolKey 0 i) (by decide), takes_of (by decide), by decide, by decide⟩,
    ⟨by decide, by decide, by decide +kernel, holds_of (fun i => poolKey 0 (0x100 + i)) (by decide +kernel), by decide +kernel⟩, by decide +kernel⟩

/-! ## Indexes -/

/-- A configured index of one cell and sixteen INT8 dimensions at 0x10000000000. -/
def ixOf (e : List IxEntry) (holds : List Nat) : Index :=
  { vbase := 0x10000000000, configured := true, nc := 1, dim := 1, fmt := 1, lnk := 1, entries := e, holds := holds }
/-- A request of FN `fn` with the given block words. -/
def ixOn (fn : Nat) (ws : List Nat) : IxReq := { fn := fn, words := ws.map (BitVec.ofNat 64), vec := List.replicate 64 0 }
/-- One request on its way to die 0. -/
def asking (x : Option Index) (r : IxReq) : State := { demo {} with flight := [{ op := .index r 0 }], indexes := x.toList }
/-- One request at its work step. -/
def answering (x : Index) (r : IxReq) : State := { demo {} with dies := [(0, { works := [r] })], indexes := [x] }

theorem witness_IndexArrivals :
    let base := 0x10000000000
    let search (hs : Nat) := ixOn 0 [base, hs <<< 35 ||| 1 <<< 28, 5, 0, 0, 0, 0, 0]
    let here (x : Option Index) (r : IxReq) : Prop := (asking x r).flight[0]? = some { op := .index r 0 } ∧
      (asking x r).ixBehind 0 { op := .index r 0 } r = false ∧ ((asking x r).die 0).recs.length < 64
    (here none (ixOn 5 [base]) ∧ ((asking none (ixOn 5 [base])).index 0 base).configured = false) ∧
    (∀ x ∈ [ixOf [] [], ixOf [] [5], ixOf [{}] (List.replicate 64 0)], ∀ r ∈ [search 0, search 1, ixOn 1 [base], ixOn 2 [base], ixOn 3 [base], ixOn 4 [base, 0, 5], ixOn 5 [base],
        ixOn 6 [base], ixOn 7 [base, 0, 0, 0, 1]], here (some x) r ∧ (asking (some x) r).index r.ctx (r.n 0) = x ∧ x.configured = true) ∧
    ((search 1).hs = true ∧ (search 0).hs = false ∧ (search 1).n 2 = 5 ∧ (search 0).mode = 0 ∧ (search 0).probes = 1) ∧
    ((ixOf [] []).next = (ixOf [] []).cur ∧ (ixOf [] []).next + 1 < 2 ^ 48 ∧ (ixOf [{}] []).entries ≠ [] ∧ (ixOf [] []).nc ≤ 1) ∧
    (ixOn 7 [base]).n 4 < (ixOf [] []).nc ∧
    (match (search 0).vector 0 1 with | .ok _ => true | _ => false) = true ∧
    (let s := withDir [range 0xC2] (asking (some (ixOf [] [])) (ixOn 1 [base]))
     16 * (ixOf [] []).bytesNeeded 0 ≤ 256 * ((s.descOf 0 base).map Desc.size).getD 0 ∧ (ixOf [] []).entries.length + s.ixPending (ixOf [] []) < 2 ^ 32) ∧
    256 * (((asking (some (ixOf [] [])) (ixOn 1 [base])).descOf 0 base).map Desc.size).getD 0 < (ixOf [] []).bytesNeeded 0 ∧
    (match (ixOn 1 [base]).vector 1 1 with | .ok _ => true | _ => false) = true ∧
    (match ({ ixOn 1 [base] with vec := List.replicate 64 0xFF } : IxReq).vector 2 1 with | .ok _ => true | _ => false) = false := by
  decide +kernel

theorem witness_IndexWork :
    let base := 0x10000000000
    let search := ixOn 0 [base, 1 <<< 28]
    let change (fn : Nat) : IxReq := { ixOn fn [base, 0, 0, 0, 9] with seq := 1 }
    let answer : IxReq := { ixOn 5 [base] with out := some [0, 0, 0, 0, 0] }
    let e (n : Nat) : IxEntry := { seq := n, key := 9, vec := List.replicate 16 0 }
    (∀ r ∈ [search, change 1, change 2, answer], ((answering (ixOf [e 0, e 2] []) r).die 0).works[0]? = some r ∧
      ((answering (ixOf [e 0, e 2] []) r).die 0).recs.length < 64 ∧ ((answering (ixOf [e 0, e 2] []) r).index r.ctx (r.n 0)).cur = 0 ∧
      r.n 3 + 2048 ≤ (answering (ixOf [] []) r).scrBytes r.core) ∧
    (search.mode = 0 ∧ search.k = 1 ∧ search.k ≤ 64 ∧ List.Pairwise (fun a b : IxEntry => a.seq ≠ b.seq) [e 0, e 2] ∧ (∀ y ∈ [e 0, e 2], y.cell < 1) ∧
      ∀ j, j < 2048 → ((answering (ixOf [] []) search).bankFlush 0).poisoned (poolKey 0 j) = false) ∧
    (let x := ixOf [{ e 0 with bad := true }] []
     ∃ p ∈ x.reads search, x.partBad search p = true) ∧
    ((change 2).seq = (ixOf [] []).cur + 1 ∧ ({ change 2 with seq := 2 } : IxReq).seq ≠ (ixOf [] []).cur + 1) ∧
    (let s : State := { demo {} with indexes := [ixOf [{ e 0 with tomb := some 0 }] []] }
     s.index 0 base = ixOf [{ e 0 with tomb := some 0 }] [] ∧ ixOf [{ e 0 with tomb := some 0 }] [] ∈ s.indexes) := by
  refine ⟨by decide, ⟨by decide, by decide, by decide, by decide, by decide, ?_⟩, by decide +kernel, by decide, by decide⟩
  intro j _
  have h : ((answering (ixOf [] []) (ixOn 0 [0x10000000000, 1 <<< 28])).bankFlush 0).poison = [] := rfl
  simp only [State.poisoned, h, Sparse.get]

/-! ## Directories -/

/-- A directory of the given descriptors, each valid and in ascending order. -/
theorem ordered_of {s : State} {k : Nat} (ds : List Desc) (h : s.dir k = ds) (h1 : ∀ d ∈ ds, d.valid = true)
    (h2 : List.Pairwise (fun x y : Desc => x.limit ≤ y.vbase) ds) : s.dirOrdered k := by
  unfold State.dirOrdered; rw [h]; exact ⟨h1, h2⟩

/-- Two ranges that a merge joins. -/
def low : Desc := { range 0xC8 with size := 16, rhi := 16 }
def high : Desc := { range 0xC8 with vbase := 0x10000001000 }

/-- A directory with an update of context 0 that walker 0 has received. -/
def updating (ds : List Desc) (op : DirOp) (pins : Nat) : State :=
  { withDir ds (demo {}) with
    ctxs := [(0, { live := true, clusters := [0], dirq := [{ op := op }] })],
    cores := [(0, { ctx := some 0, part := 1, rtab := ds.map (fun d => { desc := d, pins := pins }) })] }

theorem witness_DirectoryUpdates :
    (∀ op ∈ [DirOp.split 0x10000000000 0x10000000100, .split 0x10000000000 0x10000000000, .res 0x10000000000 0x10000000000 0x10000001000,
        .res 0x10000000000 0x10000000001 0, .free 0x10000000000, .compact 0x10000000000 1], ∀ pins ∈ [0, 1], let s := updating [range 0xC8] op pins
      (s.ctx 0).dirq = [{ op := op }] ∧ s.dirFind 0 0x10000000000 = some (range 0xC8) ∧ s.dirN 0 < 65536 ∧ s.dirOrdered 0 ∧
        s.pinned 0 (range 0xC8) = decide (pins ≠ 0) ∧ s.quiet 0 (range 0xC8) = true) ∧
    ((range 0xC8).st = 0 ∧ (range 0xC8).pcl = false ∧ (range 0xC8).has permM = true ∧ (range 0xC0).has permM = false ∧ (range 0xC8).has permW = true) ∧
    (let s := updating [low, high] (.merge 0x10000000000 0x10000001000) 0
     s.dirFind 0 0x10000000000 = some low ∧ s.dirFind 0 0x10000001000 = some high ∧ s.dirOrdered 0 ∧ low.limit = high.vbase ∧ low.perm = high.perm ∧
       low.off = high.off ∧ low.rlo < low.rhi ∧ high.rlo < high.rhi ∧ low.rhi = low.size ∧ high.rlo = 0 ∧ s.quiet 0 low = true ∧ s.pinned 0 high = false) ∧
    (let d : Desc := { range 0xCC with perm := 0xCC }
     (updating [d] (.make 0x10000000000) 0).dirFind 0 0x10000000000 = some d ∧ d.has permP = true ∧ d.has permM = true ∧ d.rlo = 0 ∧ d.rhi = d.size ∧
       d.has permG = false ∧ d.has permI = false) ∧
    ((updating [parcel 0xC4] (.post 0x10000000000 0 0) 0).dirFind 0 0x10000000000 = some (parcel 0xC4) ∧ (parcel 0xC4).pcl = true ∧
      ({ parcel 0xC4 with st := 5 } : Desc).st = 5 ∧ (updating [{ parcel 0xC4 with st := 5 }] (.post 0x10000000000 0 0) 0).dirFind 0 0x10000000000 =
        some { parcel 0xC4 with st := 5 }) ∧
    (updating [range 0xC8] (.free 0) 0).dirFind 0 0 = none ∧
    (let s : State := { updating [range 0xC8] (.free 0) 0 with ctxs := [(0, { purges := [{ reach := 0 }] })] }
     (s.ctx 0).purges[0]? = some { reach := 0 } ∧ s.cores.map Prod.fst = [0] ∧ ∀ d, s.quietOn 0 (fun c => decide (c = 0)) d = true) ∧
    (let s := updating [range 0xC8] (.split 0x10000000000 0x10000000100) 0
     let busy : Slot := { loads := [{ bytes := [(0x100000, none)] }] }
     ({ s with cores := [(0, { ctx := some 0, part := 1, slots := [(0, some busy)] })] } : State).quiet 0 (range 0xC8) = false) ∧
    (let s : State := { updating [range 0xC8] (.free 0) 0 with dies := [(0, { compactions := [{ vbase := 0x10000000000, newPa := 0x180000 }] })] }
     (s.die 0).compactions = [{ vbase := 0x10000000000, newPa := 0x180000 }] ∧ s.dirFind 0 0x10000000000 = some (range 0xC8) ∧ s.quiet 0 (range 0xC8) = true ∧
       0x180000 % 256 = 0 ∧ s.pinned 0 (range 0xC8) = false ∧ s.dirOrdered 0 ∧ s.dirN 0 ≤ 65536 ∧ s.apart 0 0x180000 (256 * 16) ∧
       (updating [range 0xC8] (.free 0) 1).pinned 0 (range 0xC8) = true) := by
  refine ⟨?_, by decide, ⟨by decide, by decide, ordered_of [low, high] (by decide) (by decide) (by decide), by decide⟩, by decide, by decide, by decide,
    ⟨by decide, by decide, fun _ => by simp [State.quietOn, State.posting, updating, withDir, demo, Core.touches]⟩, by decide,
    ⟨by decide, by decide, by decide, by decide, by decide, ordered_of [range 0xC8] (by decide) (by decide) (by decide), by decide, ?_, by decide⟩⟩
  rotate_left
  · unfold State.apart; decide
  intro op ho pins hp; simp only [List.mem_cons, List.not_mem_nil, or_false] at ho hp
  obtain rfl | rfl | rfl | rfl | rfl | rfl := ho <;> obtain rfl | rfl := hp <;>
    exact ⟨by decide, by decide, by decide, ordered_of [range 0xC8] (by decide) (by decide) (by decide), by decide, by decide⟩

theorem witness_Parcels :
    let d := { parcel 0xC4 with st := 2 }
    let base (x : Xfer) (pins : Nat) : State :=
      { withDir [d] (demo {}) with xfers := [x], cores := [(0, { ctx := some 0, part := 1, rtab := [{ desc := d, pins := pins }] })] }
    (∀ x ∈ [({ vbase := 0x10000000000 } : Xfer), { vbase := 0x10000000000, inTransit := true, answer := 1 }, { vbase := 0x10000000000, inTransit := true, answer := 2 },
        { vbase := 0x10000000000, inTransit := true, dest := 0x2000 }], ∀ pins ∈ [0, 1], let s := base x pins
      s.xfers[0]? = some x ∧ s.dirFind 0 0x10000000000 = some d ∧ s.dirN 0 ≤ 65536 ∧ s.dirOrdered 0 ∧ s.pinned 0 d = decide (pins ≠ 0) ∧
        s.jobsOn 0 d = false ∧ s.quiet 0 d = true) ∧
    (let p : ParcelIn := { srcDev := 1, core := 0, chan := 3, units := 16, perm := 0xC4 }
     let s (size : Word) : State := { withDir [range 0xC0] (demo {}) with
       ctxs := [(0, { live := true, clusters := [0], parcBase := 0x20000000000, parcSize := size })],
       cores := [(0, { ctx := some 0, part := 1, hte := [(3, 1 <<< 64)] })] }
     p.srcDev ≠ (s 4096).mgmt.devnum ∧ ((s 4096).core 0).ctx = some 0 ∧ (s 4096).dirOrdered 0 ∧ ((s 4096).hte 0 3).v = true ∧ ((s 4096).hte 0 3).cls = false ∧
       (s 4096).dirN 0 < 65536 ∧ ((s 4096).ctx 0).parcSize ≠ 0 ∧ (s 4096).phLo 0 ≤ (s 4096).arrPa 0 ∧ (s 4096).arrPa 0 + 4096 ≤ (s 4096).phHi 0 ∧
       (((s 4096).ctx 0).parcBase.toNat ≤ 0x20000000000 ∧ 0x20000000000 + 4096 ≤ ((s 4096).ctx 0).parcBase.toNat + ((s 4096).ctx 0).parcSize.toNat ∧
         ∀ e ∈ (s 4096).dir 0, 0x20000000000 + 4096 ≤ e.vbase ∨ e.limit ≤ 0x20000000000) ∧
       ¬ ((s 0).ctx 0).parcSize ≠ 0) ∧
    (let s : State := { withDir [{ parcel 0xC4 with st := 4 }] (demo {}) with arrivals := [{ vbase := 0x10000000000, p := { core := 0, chan := 3, units := 16, body := [1, 2] } }] }
     ({ s with dies := [(0, { jobs := [{ words := BitVec.ofNat 64 (1 <<< 43) :: List.replicate 15 0 ++ [0x10000000000, 1] }] })] } : State).jobsOn 0 { parcel 0xC4 with st := 4 } = true ∧
     ({ s with cores := [(0, { ctx := some 0, released := [{ e := { op := .store [(0, 0x100000, 1)] } }] })] } : State).quiet 0 { parcel 0xC4 with st := 4 } = false ∧
     s.arrivals[0]? = some { vbase := 0x10000000000, p := { core := 0, chan := 3, units := 16, body := [1, 2] } } ∧
       s.dirFind 0 0x10000000000 = some { parcel 0xC4 with st := 4 } ∧ s.dirOrdered 0 ∧ s.apart 0 0x100000 2) := by
  refine ⟨?_, ⟨by decide, by decide, ordered_of [range 0xC0] (by decide) (by decide) (by decide), by decide⟩,
    ⟨by decide, by decide, by decide, by decide, ordered_of [{ parcel 0xC4 with st := 4 }] (by decide) (by decide) (by decide), ?_⟩⟩
  · intro x hx pins hp; simp only [List.mem_cons, List.not_mem_nil, or_false] at hx hp
    obtain rfl | rfl | rfl | rfl := hx <;> obtain rfl | rfl := hp <;>
      exact ⟨by decide, by decide, by decide, ordered_of [{ parcel 0xC4 with st := 2 }] (by decide) (by decide) (by decide), by decide, by decide, by decide⟩
  · unfold State.apart; decide

/-! ## Units, links, commands -/

theorem witness_UnitEvents :
    let s : State := { withDir [range 0xD1] (demo {}) with fab := { peers := [(1, { handed := [(5, 1)] })] } }
    ((∀ i, i < 128 → ∀ need ∈ [permR, permW, permAtom], s.dirTranslate 0 (0x10000000000 + i) (need ||| permG) = .ok (0x100000 + i) ∧
        paClass (0x100000 + i) ≠ .peer ∧ s.poisoned (0x100000 + i) = false) ∧
      (s.peer 1).holds 5 1 = true ∧ (s.peer 1).holds 5 3 = false ∧ (s.peer 1).holds 6 1 = false ∧
      ({ s with fab := { peers := [(1, { handed := [(5, 3)] })] } }.peer 1).holds 5 3 = true ∧
      littleEndian (fun j => s.byte (0x100000 + j)) 8 = (0 : Word).toNat % 2 ^ 64 ∧
      (∀ op ∈ [PeerOp.load 96, .store [1, 2], .atom .add 8 1, .cas 4 0 1, .region []],
        peerExtent { va := 0x10000000000, op := op } = (0x10000000000, match op with | .load n => n | .store bs => bs.length | .atom _ n _ => n | .cas n .. => n | .region _ => 128))) ∧
    (peerExtent { va := 0x10000000FFE, op := .store [1, 2, 3] } = (0x10000000FFE, 3) ∧
      (∀ j, j < 2 → s.dirTranslate 0 (0x10000000FFE + j) (permW ||| permG) = .ok (0x100FFE + j)) ∧ s.dirTranslate 0 (0x10000000FFE + 2) (permW ||| permG) = .fault .rangeMiss) ∧
    (s.dirTranslate 0 0 (permR ||| permG) = .fault .rangeMiss) ∧
    (let due : State := { demo {} with cycle := 2 ^ 63 }
     ∀ e ∈ [(SoftError.poisonWord 3 8, 3), (.corrected 3 8, 3), (.counter 0 255, 2), (.waitBoth 0 1023, 2), (.task 7 15 0 true, 0), (.message 0 0, 0)],
       (demo {}).findsOne 0 e.1 e.2 { finds := [{ what := e.1, by_ := some (0, 0, 64) }] } 1 ∧
       due.findsOne 0 e.1 e.2 { level := some e.2, finds := [{ what := e.1 }] } 2) ∧
    ((demo {}).sweepDue 0 3 = false ∧ .corrected 3 8 ∉ (demo {}).mended none ∧
      .corrected 3 8 ∈ ({ demo {} with mgmt := { mended := [.corrected 3 8] } } : State).mended none) ∧
    (0x005FFFFFFFFF < 0x006000000000 ∧ ({ demo {} with poison := [(8, true)] } : State).poisoned 15 = true ∧ (demo {}).poisoned 0x005FFFFFFFFF = false) ∧
    ((demo {}).clusterOwner 0 = some 0 ∧ (let w : Wait := { ent := 1023 }
      (({ demo {} with clusters := [(0, { waits := [w] })] } : State).cluster 0).waits.find? (fun w => decide (w.ent = 1023)) = some w)) ∧
    ((({ demo {} with dies := [(7, { banks := [(15, { tasks := [{ cnt := 0x20000 }] })] })] } : State).bank 7 15).tasks[0]? = some { cnt := 0x20000 }) ∧
    (let s : State := { demo {} with cores := [(0, { ctx := some 0, inbox := [{ chan := 9 }] })] }
     (s.core 0).ctx = some 0 ∧ (s.core 0).inbox[0]? = some { chan := 9 }) ∧
    (∀ n ∈ [0, 1, 2], (demo { fails := n }).slot 0 0 = some { fails := n } ∧ Slot.hold { fails := n } ≠ .parked ∧ ((demo { fails := n }).core 0).failed = false) ∧
    ((demo { hold := .parked }).slot 0 0 = some { hold := .parked }) ∧
    (let r (permits : Nat) (q : Bool) : AuditRead := { permits := permits, free := 3, size := 8, drained := q }
     (r 5 true).permits + 3 = 8 ∧ (r 4 true).permits + 3 ≠ 8 ∧ (r 5 false).drained = false) ∧
    (let l : Link := { inFlight := [1, 2, 3, 4] }
     let r (h : List Nat) : AuditRead := { snap := some h, link := 62, flit := flitOf (linkKey 62 false 0) 6 h 0 }
     (∀ h, (r h).link = 62 ∧ (r h).flit = flitOf (linkKey 62 false l.rxGen) 6 h (r h).flit.val) ∧ (∀ v, v < 4 → four l.inFlight v = four [1, 2, 3, 4] v) ∧ ¬ ∀ v, v < 4 → four l.inFlight v = four [0, 2, 3, 4] v) ∧
    (let c : Core := { ctx := some 0, part := 1, failTimes := List.replicate 8 0 }
     let s (sp : List Nat) : State := { demo {} with cores := [(0, c)], dies := [(0, { spares := sp })] }
     let busy : State := { s [] with cycle := 35000, cores := [(0, { c with released := [{ e := { op := .cadd 0 1 } }] })] }
     ((s []).core 0).lost = false ∧ ((s []).core 0).ctx = some 0 ∧ ((s []).core 0).failed = true ∧ (s []).coreDrained 0 = true ∧ 0 ∉ ((s []).die 0).spares ∧
       0 ∈ ((s [0]).die 0).spares ∧ ((s []).core 0).spawns = [] ∧ (∀ j, j < 8 → (s [0]).slot 0 j = none) ∧
       (busy.core 0).failed = true ∧ (busy.core 0).failTimes.getLastD 0 + 35000 ≤ busy.cycle ∧ busy.coreDrained 0 = false ∧
       ((demo {}).core 1).ctx = none ∧ 0 ∉ ((demo {}).die 0).spares ∧
       (({ demo {} with dies := [(0, { spares := [0] })] } : State).core 1).ctx = none) ∧
    (9 < 10 ∧ Sparse.get 0 (demo {}).mgmt.saddles 9 < 2) ∧
    (((demo {}).die 7).clock = 16 ∧ (({ demo {} with dies := [(7, { clock := 8 })] } : State).die 7).clock = 8) := by
  refine ⟨⟨by decide +kernel, by decide, by decide, by decide, by decide, by decide, by decide⟩, by decide, by decide, ?_, by decide, by decide, by decide,
    by decide, by decide, by decide, by decide, by decide, ⟨fun h => ⟨rfl, rfl⟩, by decide⟩, by decide, by decide, by decide⟩
  intro due e he; simp only [List.mem_cons, List.not_mem_nil, or_false] at he
  obtain rfl | rfl | rfl | rfl | rfl | rfl := he <;> exact ⟨.inl ⟨_, rfl, rfl⟩, .inr ⟨rfl, by decide, rfl⟩⟩

/-- `demo` whose link `n` is as given. -/
def linked (n : Nat) (l : Link) : State := { demo {} with fab := { links := [(n, l)] } }

/-- A control flit may arrive whole, and may not. -/
theorem flits (s : State) (n kind : Nat) (fields : List Nat) (v : Nat) :
    (∃ f : FlitIn, f.val = v ∧ s.wholeFlit n kind fields f) ∧ ∃ f : FlitIn, f.val = v ∧ ¬ s.wholeFlit n kind fields f := by
  let f := flitOf (linkKey n false (s.link n).rxGen) kind fields v
  refine ⟨⟨f, rfl, rfl⟩, { f with crc := f.crc + 1 }, rfl, fun h => ?_⟩
  have h : f.crc + 1 = f.crc := congrArg FlitIn.crc h
  generalize f.crc = x at h; bv_omega

theorem authentic_of {l : Link} {head : List Byte} {g : Nat} (n : Nat) (payload tail : List Byte) (h : l.genOf (headCell head).kg = some g)
    (ht : tagGood (linkKey n false g) (linkNonce n false (fullTxc l.rxTxc (headCell head).txc.toNat)) head payload tail = true) :
    l.authentic n head payload tail = true := by
  unfold Link.authentic; simp only [h]; exact ht

/-- A cell whose key generation a link knows may arrive whole. -/
theorem whole_cell {l : Link} {head : List Byte} {g : Nat} (n : Nat) (hl : head.length = 16) (h : l.genOf (headCell head).kg = some g) :
    ∃ payload tail, crcGood head payload tail = true ∧ l.authentic n head payload tail = true :=
  ⟨List.replicate 96 0, _, crcGood_cellTail (linkKey n false g) (linkNonce n false (fullTxc l.rxTxc (headCell head).txc.toNat)) _ _ hl List.length_replicate,
   authentic_of n _ _ h (tagGood_cellTail _ _ _ _)⟩

theorem witness_Links :
    (let s : State := { linked 62 {} with mgmt := { measured := true, tested := true, devWritten := true, leaf := 1048575 } }
     (s.link 62).st ≠ 2 ∧ (s.link 62).st ≠ 3 ∧ s.mgmt.leaf < 2 ^ 20) ∧
    (∀ l ∈ [({ st := 2 } : Link), { st := 3, frame := 63 }, { st := 2, frame := 1, replay := [{ lseq := 5 }] }, { st := 2, rxPrev := some 0 }, { st := 2, rxPrev := some 1 },
        { st := 2, rxPrev := some 0, rxOwed := true }, { st := 2, authLog := List.replicate 16 true }, { st := 2, rekey := true }, { st := 2, genCells := 4294967296 },
        { st := 2, newMask := some 3, newResv := some [] }, { st := 2, asked := true }],
      ((linked 62 l).link 62).st = 2 ∨ ((linked 62 l).link 62).st = 3) ∧
    ((Link.rxCount { st := 2 }).length = 4 ∧ (Link.frame { st := 2 }) = 0 ∧ 2 ^ 32 ≤ (Link.genCells { genCells := 4294967296 }) ∧
      16 ≤ (Link.authLog { st := 2, authLog := List.replicate 16 true }).count true ∧ (Link.authLog {}).count true < 16) ∧
    ((linked 62 {}).cycle < (Link.rxSince {}) + 1024 ∧ (Link.rxSince {}) + 1024 ≤ ({ linked 62 {} with cycle := 1024 } : State).cycle) ∧
    ((0xFFFF : BitVec 16) = 0x7FFF ||| BitVec.ofNat 16 (2 ^ 15) ∧ BitVec.ofNat 16 3 &&& (Link.mask {}) ≠ 0 ∧ BitVec.ofNat 16 0 &&& (Link.mask {}) = 0) ∧
    (let c : Cell := { ddev := 1, vc := 3, kind := 1 }
     let l : Link := { st := 2, frame := 1, limit := [2, 2, 2, 2] }
     let s (own : List Cell) (out : List (Nat × Cell)) : State := { linked 1 { l with own := own } with
       fab := { links := [(1, { l with own := own })], out := out }, mgmt := { devnum := 31, route := [(1025, 1 <<< 63 ||| 1), (1054, 1 <<< 63 ||| 30)] } }
     ((s [] []).link 1).replay.length ≤ ((s [] []).link 1).resend ∧ ((s [] []).link 1).inFlight.length = 4 ∧ (∀ e ∈ (s [] []).waitingFor 1, ¬ (s [] []).maySend 1 e) ∧
     (s [{ vc := 3, kind := 6 }] []).waitingFor 1 = [(64, { vc := 3, kind := 6 })] ∧ (s [{ vc := 3, kind := 6 }] []).maySend 1 (64, { vc := 3, kind := 6 }) ∧
     (∀ i ∈ [30, 63], (i, c) ∈ (s [] [(i, c)]).waitingFor 1 ∧ (s [] [(i, c)]).maySend 1 (i, c) ∧ ∀ e ∈ (s [] [(i, c)]).fab.out, e.1 ≤ 63)) ∧
    (let l : Link := { replay := [{ lseq := 5 }, { lseq := 6 }] }
     ((linked 62 l).link 62).replay[1]? = some { lseq := 6 } ∧ ∀ j d, j < 1 → ((linked 62 l).link 62).replay[j]? = some d → d.lseq ≠ 6) ∧
    (∀ n kind fields v, (∃ f : FlitIn, f.val = v ∧ (linked 62 {}).wholeFlit n kind fields f) ∧
      ∃ f : FlitIn, f.val = v ∧ ¬ (linked 62 {}).wholeFlit n kind fields f) ∧
    (crcGood [] [] [] = false ∧ Link.authentic { rxKg := true } 62 (cellHead {}) [] [] = false) := by
  refine ⟨by decide, by decide, by decide, by decide, by decide, ⟨by decide, by decide, ?_, by decide, ⟨by decide, by decide⟩, ?_⟩, ⟨rfl, ?_⟩,
    flits _, rfl, by decide⟩
  · intro e he; exact absurd he (by decide +revert)
  · intro i hi; simp only [List.mem_cons, List.not_mem_nil, or_false] at hi
    obtain rfl | rfl := hi <;> exact ⟨by decide, ⟨by decide, by decide⟩, by decide⟩
  · intro j d hj hd
    obtain rfl : j = 0 := by omega
    obtain rfl : ({ lseq := 5 } : Cell) = d := by simpa [linked, State.link, Sparse.get] using hd
    decide

/-- Cells that arrive whole: of every kind, expected and not, for this device and others, under the current key and the next. -/
theorem witness_Links_cells :
    (∀ c ∈ [({} : Cell), { kind := 1, lseq := 1 }, { kind := 8 }, { kind := 15 }, { kind := 6, vc := 3 }, { kind := 1, ddev := 5, hops := 3 },
        { kind := 1, ddev := 5 }, { kind := 1, sdev := 33, eseq := 1 }, { kind := 2, vc := 1, sdev := 33, eseq := 5 }, { kind := 3, vc := 2, sdev := 33, eseq := 5000 }],
      headCell (cellHead c) = c ∧ ∃ payload tail, crcGood (cellHead c) payload tail = true ∧
        Link.authentic { st := 2 } 62 (cellHead c) payload tail = true) ∧
    (let l : Link := { st := 2, rxHello := true }
     l.rxHello = true ∧ ∃ payload tail, crcGood (cellHead { kind := 6, vc := 3 }) payload tail = true ∧ l.authentic 62 (cellHead { kind := 6, vc := 3 }) payload tail = true) ∧
    (let l : Link := { st := 2, rxNew := true }
     let c : Cell := { kg := true }
     (l.rxPrev = none ∧ (headCell (cellHead c)).kg ≠ l.rxKg) ∧ ∃ payload tail, crcGood (cellHead c) payload tail = true ∧
       l.authentic 62 (cellHead c) payload tail = true) ∧
    (let p : Peer := { h := 3, map := [5], handed := [(2, 1)] }
     (∃ x ∈ p.handed, x.1 = 2) ∧ (∀ x ∈ p.handed, x.1 ≠ 1) ∧ 1 ≤ p.h ∧ 5 ∈ p.map ∧ p.h < 4 ∧ 4 ∉ p.map ∧ (∀ m ∈ p.map, p.h < m ∧ m ≤ p.h + 4096) ∧
       p.h + 4096 < 4100 ∧ Peer.resetting { resetting := true } = true) := by
  refine ⟨?_, ⟨rfl, ?_⟩, ⟨by decide, ?_⟩, by decide⟩
  · intro c hc; simp only [List.mem_cons, List.not_mem_nil, or_false] at hc
    obtain rfl | rfl | rfl | rfl | rfl | rfl | rfl | rfl | rfl | rfl := hc <;>
      exact ⟨by decide, whole_cell (g := 0) 62 (cellHead_length _) (by decide)⟩
  · exact whole_cell (g := 0) 62 (cellHead_length _) (by decide)
  · exact whole_cell (g := 1) 62 (cellHead_length _) (by decide)

theorem witness_Paths :
    let x (sends : Nat) : Kept := { cell := { eseq := 5, ddev := 33 }, sends := sends }
    let s (p : Peer) (now st : Nat) : State := { demo {} with
      cycle := now, fab := { peers := [(33, p)], links := [(31, { st := st })] }, mgmt := { route := [(1, 1 <<< 63)] } }
    let late (t : State) (x : Kept) : Prop := x.last + t.mgmt.e2e ≤ t.cycle
    ((∀ y ∈ ((s {} 0 2).peer 33).kept, y.cell.eseq.toNat ≠ 5) ∧ (∃ y ∈ ((s { kept := [x 1] } 0 2).peer 33).kept, y.cell.eseq.toNat = 5)) ∧
    (((s { kept := [x 1], waiting := [x 0] } 0 2).peer 33).waiting = [x 0] ∧ (s {} 0 2).routeOf 33 = some 31 ∧ (demo {}).routeOf 33 = none) ∧
    (((s { kept := [x 7] } 35000 2).peer 33).kept.find? (fun x => decide (x.cell.eseq.toNat = 5)) = some (x 7) ∧ (x 7).sends < 8 ∧ (x 7).noRoute = false ∧
      late (s {} 35000 2) (x 7) ∧ (63, (x 7).cell) ∉ (s {} 35000 2).fab.out ∧ ((s {} 0 2).link 31).st = 2 ∧ ((s {} 0 0).link 31).st = 0) ∧
    (¬ late (s {} 34999 2) (x 7) ∧ 8 ≤ (x 8).sends ∧ (x 0).sends = 0) ∧
    (∃ y ∈ ((s { kept := [x 8] } 35000 2).peer 33).kept, 8 ≤ y.sends ∧ late (s {} 35000 2) y) ∧
    (∃ y ∈ ((s { kept := [{ x 0 with noRoute := true }] } 0 2).peer 33).kept, y.noRoute = true) ∧
    (((s { dead := true } 0 2).peer 33).dead = true ∧ (s { dead := true } 0 2).drainedTo 33 = true ∧
      ({ s { dead := true } 0 2 with fab := { links := [(31, { replay := [{ kind := 1, ddev := 33 }] })] } } : State).drainedTo 33 = false) ∧
    (((s { resetting := true } 0 2).peer 33).resetting = true ∧ ((s { resetting := true } 0 2).peer 33).dead = false ∧ (s { resetting := true } 0 2).drainedTo 33 = true ∧
      (let a : Arrival := { vbase := 0x10000000000, p := { srcDev := 33 } }
       let t := { withDir [{ parcel 0xC4 with st := 4 }] (demo {}) with arrivals := [a] }
       t.arrivals.filter (fun a => decide (a.p.srcDev.toNat = 33)) = [a] ∧ t.dirFind 0 0x10000000000 = some { parcel 0xC4 with st := 4 })) ∧
    (2 ^ 32 ≤ ((s { next := 4294967296 } 0 2).peer 33).next ∧ ((s { next := 4294967296 } 0 2).peer 33).kept = []) := by decide

theorem witness_HostCommands :
    let h : HostCmd := { resAddr := 0x1000, resLen := 64 }
    let cores16 : BitVec 8192 := BitVec.ofNat 8192 (15 * (1 + 2 ^ 32 + 2 ^ 64 + 2 ^ 96))
    let b : LaunchBlock := { coreSet := cores16, prog := 0x10000000000, part := 1, hteAll := [(1, 1 <<< 64 ||| 1 <<< 76 ||| 1 <<< 80)] }
    let s : State := { withDir [range 0xA0] { State.reset with ctxs := [] } with
      mgmt := { (withDir [range 0xA0] State.reset).mgmt with measured := true, tested := true, devWritten := true, linksUp := true } }
    (s.mayRun h ∧ h.resAddr + h.resLen ≤ 0x7F0000000000 ∧ ¬ bufferOk { h with resLen := 0x7F0000000000 }) ∧
    (let e : State := { demo {} with mgmt := { waiting := some (.endctx h 0) } }
     let r : State := { demo {} with mgmt := { cqt := 1, cqn := 16 } }
     e.mgmt.waiting = some (.endctx h 0) ∧ (.endctx h 0 : Instr) ≠ .resync h ∧ r.mgmt.waiting = none ∧ r.mgmt.cqh ≠ r.mgmt.cqt ∧ r.mgmt.cqn ≠ 0 ∧
       r.mgmt.cqb.toNat + 64 ≤ 0x7F0000000000 ∧ r.wordAt 0x010000000000 / 2 ^ 56 = 0 ∧
       ({ r with mem := [(0x010000000007, 7), (0x010000000028, 48)] } : State).wordAt 0x010000000000 / 2 ^ 56 = 7 ∧
       ({ r with mem := [(0x010000000007, 7), (0x010000000028, 48)] } : State).wordAt 0x010000000028 = 48) ∧
    (((demo {}).core 0).ctx = some 0 ∧ ((demo {}).arriveMsg 0 { ctx := 0, host := true }).2 = true ∧
      (let full := arriving [(0, 1 <<< 64)] (List.replicate 56 ({} : Msg) ++ List.replicate 40 { area := 2 }) {}
       (full.arriveMsg 0 { ctx := 0, host := true }).2 = false)) ∧
    (2 ^ 20 ≤ ({ State.reset with mgmt := { leaf := 1048576 } } : State).mgmt.leaf ∧ Firmware.config {} = {}) ∧
    (s.mgmt.measured = true ∧ s.mgmt.tested = true ∧ s.mgmt.devWritten = true ∧ s.mgmt.linksUp = true ∧ ¬ State.reset.mgmt.measured = true ∧
      (s.ctx 0).live = false ∧ ((demo {}).ctx 0).live = true) ∧
    (s.launchOk b = true ∧ s.launchOk {} = false) ∧
    (State.reset.mgmt.leaf < 2 ^ 20 ∧ ((demo {}).core 0).ctx = some 0 ∧ ((demo {}).core 0).ctx ≠ some 1 ∧ ((demo {}).ctx 63).live = false) ∧
    (let e : State := { demo {} with ctxs := [(0, { live := true, ending := true })], cores := [(0, { ctx := some 0, preempt := true })] }
     (e.ctx 0).ending = true ∧ e.ctxIdle 0 = true ∧ ∀ x ∈ e.ctxs, x.2.ending = true → x.1 = 0) ∧
    (let e : State := { demo {} with ctxs := [(0, { live := true, ending := true })], cores := [(0, { ctx := some 0 })] }
     e.ctxIdle 0 = false) := by
  unfold State.mayRun State.cmdIdle bufferOk; decide +kernel

end Sys2Proof.Tests
end

section
/-! Channels and modes (R35, R145 to R151, R202): what an instruction that sends, launches or masks does, each said once, and the
statement about them. -/

namespace Sys2Proof.Machine

section

variable {s : State} {u : Ctl} {sl : Slot}

/-! ## An instruction that takes effect -/

/-- An instruction that is issued and takes effect comes to what its body makes of the slot. -/
theorem exec_of_turn {i : Instr} {how : Under} {inRegion : Bool} {body : Slot → State}
    (hx : exec i s = .next (s.issue i u how inRegion body)) (h : Turn s u how sl) : exec i s = .next (body sl) := by
  rw [hx, State.issue_of_turn h]

/-- One whose body refuses the slot traps. -/
theorem trapsOpen_of_body {i : Instr} {how : Under} {inRegion : Bool} {body : Slot → State} {cause : Cause}
    (hx : exec i s = .next (s.issue i u how inRegion body)) (h : Turn s u how sl) (hb : body sl = s.trap0 sl cause) :
    TrapsOpen i s sl cause :=
  ⟨Config.openInfo s.tick, (exec_of_turn hx h).trans (congrArg _ hb)⟩

/-- Retiring without a register write completes an instruction whose `exec` is that retirement. -/
theorem retires_of_retire {i : Instr} (h : exec i s = .next (s.retire i u none sl)) : Retires i s sl :=
  ⟨_, _, h, onlySlot_putCur s _, State.curSlot_putCur s _, Slot.advanced_age i sl⟩

/-! ## The selector's records -/

/-- Bringing the selector's records up to date changes nothing else. -/
theorem Core.freeEntries_rest (co : Core) (n : Nat) : co.freeEntries n =
    { co with order := (co.freeEntries n).order, ages := (co.freeEntries n).ages, room := (co.freeEntries n).room } := by
  unfold Core.freeEntries; split <;> rfl

@[simp] theorem Core.freeEntries_hte (co : Core) (n : Nat) : (co.freeEntries n).hte = co.hte := by rw [Core.freeEntries_rest]
@[simp] theorem Core.settle_hte (co : Core) : co.settle.hte = co.hte := Core.freeEntries_hte co 0
@[simp] theorem Core.settle_inj (co : Core) : co.settle.inj = co.inj := by rw [Core.settle, Core.freeEntries_rest]
@[simp] theorem Core.settle_inbox (co : Core) : co.settle.inbox = co.inbox := by rw [Core.settle, Core.freeEntries_rest]
@[simp] theorem Core.settle_released (co : Core) : co.settle.released = co.released := by rw [Core.settle, Core.freeEntries_rest]

/-! ## Sending (R145) -/

/-- Reading a scalar source moves the cursor of the held messages alone (R28). -/
theorem readSrc_rest (s : State) (sl : Slot) (r : Reg) :
    (readSrc s sl r).2 = { sl with cursor := (readSrc s sl r).2.cursor } := by
  unfold readSrc; split <;> rfl

/-- The room in the injection queue does not depend on what the slot has read. -/
theorem injRoomFor_readSrc (s : State) (sl : Slot) (r : Reg) (n : Nat) :
    s.injRoomFor (readSrc s sl r).2 n = s.injRoomFor sl n := by
  rw [readSrc_rest]; rfl

/-- A request that is no index request captures nothing when it is released. -/
theorem captured_of_not_index {op : InjOp} (h : ∀ r d, op ≠ .index r d) (s : State) (c act : Nat) :
    s.captured c act op = op ∧ s.captureOob c act op = s := by
  cases op with
  | index r d => exact absurd rfl (h r d)
  | _ => exact ⟨rfl, rfl⟩

/-- With room, one entry joins the injection queue at its young end. -/
theorem injects_of_room {i : Instr} {sl0 : Slot} {n : Nat} {op : InjOp} (hx : exec i s = .next (s.injects i u sl0 sl n op))
    (hroom : s.injRoomFor sl n = true) (hop : ∀ r d, op ≠ .index r d) : Injects i s sl op n := by
  obtain ⟨hcap, hoob⟩ := captured_of_not_index hop s s.cur.1 sl.act
  let e : Inj := { act := sl.act, slot := s.cur.2, op := op, released := sl.irrev, behind := sl.marker, upto := sl.nextId,
                   width := n, ent := s.curCore.nextEntry }
  have hpush : s.pushInj sl op n = s.modCore s.cur.1 (fun co => Core.settle { co with inj := co.inj ++ [e] }) := by
    simp only [State.pushInj, hcap, hoob, ite_self, e]
  rw [State.injects, if_pos hroom, hpush] at hx
  refine ⟨_, _, e, hx, ⟨rfl, ⟨fun _ => rfl, fun _ => rfl⟩, ?_⟩, State.curSlot_putCur _ _, Slot.advanced_age i sl, ?_, rfl, rfl, rfl, rfl,
    rfl, rfl, rfl, ?_, ?_⟩
  · intro c hc
    exact (State.core_modCore_of_ne _ _ (Ne.symm hc)).trans (State.core_modCore_of_ne _ _ (Ne.symm hc))
  all_goals simp [State.retire, State.putCur, State.setSlot]

/-- A destination below 2^13 has no bit above. -/
theorem bits_eq_zero_of_lt {w : Word} (h : w.toNat < 2 ^ 13) : bits w 13 51 = 0 := by
  unfold bits; omega

/-- `send` and `reply` of a request-class activation place their message (R35, R145). -/
theorem injects_of_sendMsg {i : Instr} {a b : Reg} {n : BitVec 3} {ch : BitVec 6} {cls : Bool}
    (hx : exec i s = .next (s.sendMsg i u a b n ch cls)) (h : Turn s u .scalar sl) (hr : s.replyClass sl = false)
    (hd : (readSrc s sl a).1.toNat < 2 ^ 13) (hroom : s.injRoomFor sl 1 = true) :
    Injects i s (readSrc s sl a).2 (.msg (sentMsg s (readSrc s sl a).1.toNat ch cls (registers sl b n.toNat))) 1 := by
  have hx' := exec_of_turn hx h
  simp only [hr, Bool.false_eq_true, ↓reduceIte, bits_eq_zero_of_lt hd, ne_eq, not_true_eq_false] at hx'
  exact injects_of_room hx' (by rw [injRoomFor_readSrc]; exact hroom) (fun _ _ => InjOp.noConfusion)

/-! ## Sending for a result -/

/-- A cell that takes its ESEQ changes the fabric side alone. -/
theorem sendKept_rest (s : State) (dev : Nat) (x : Kept) : s.sendKept dev x = { s with fab := (s.sendKept dev x).fab } := by
  unfold State.sendKept; dsimp only; split <;> rfl

/-- Cells that take their ESEQ change the fabric side alone. -/
theorem takeSeqs_rest (s : State) (dev : Nat) (xs : List Kept) : s.takeSeqs dev xs = { s with fab := (s.takeSeqs dev xs).fab } := by
  induction xs generalizing s with
  | nil => rfl
  | cons x xs ih =>
    unfold State.takeSeqs
    split
    · rw [ih, sendKept_rest]
    · rfl

/-- So do the requests of an access. -/
theorem requests_rest (s : State) (c act va : Nat) (keys : List Nat) :
    s.requests c act va keys = { s with fab := (s.requests c act va keys).fab } :=
  foldl_keeps (fun t => t = { s with fab := t.fab }) _ (fun t dev ht => by rw [State.sendCell, takeSeqs_rest, ht]) _ rfl

/-- An instruction whose `exec` launches a result has sent for it. -/
theorem launches_of_launch {i : Instr} {d : Reg} {op : LoadOp} {va : Nat} {mask : BitVec 16} {acq : Bool}
    {bytes : List (Nat × Option Byte)} (hx : exec i s = .next (s.launch i u sl d op va mask acq bytes)) :
    Launches i u s sl d op := by
  obtain ⟨fab, hfab⟩ : ∃ f : List Nat → Fab, ∀ keys, s.requests s.cur.1 sl.act va keys = { s with fab := f keys } :=
    ⟨_, requests_rest s _ _ _⟩
  simp only [State.launch, hfab, Slot.wr_none] at hx
  refine ⟨_, _, hx, ⟨rfl, ⟨fun _ => rfl, fun _ => rfl⟩, fun c hc => State.core_modCore_of_ne _ _ (Ne.symm hc)⟩,
    State.curSlot_putCur _ _, ?_⟩
  have hhold : sl.age.hold = sl.hold := by rw [Slot.age_rest]
  have hpc : nextPc sl.age.pc = nextPc sl.pc := congrArg nextPc sl.age_pc
  have hsig : foldSig sl.age.sig (sigRec i) = foldSig sl.sig (sigRec i) := by rw [Slot.age_sig]
  by_cases ht : u.at' = 0
  · rw [if_pos ht]
    refine ⟨⟨_, rfl, rfl, rfl, rfl, rfl, rfl, rfl, rfl⟩, rfl, ?_, ?_, hpc, hsig, rfl⟩
    · rw [if_neg (fun hne : u.at' ≠ 0 => hne ht), List.append_nil]; exact sl.age_landing
    · rw [if_pos ht]
  · rw [if_neg ht]
    refine ⟨⟨_, rfl, rfl, rfl, rfl, rfl, rfl, rfl, rfl⟩, rfl, ?_, ?_, hpc, hsig, rfl⟩
    · rw [if_pos ht]; exact congrArg (· ++ _) sl.age_landing
    · rw [if_neg ht]; exact hhold

/-! ## The status word (R151) -/

/-- Two fields side by side, as a sum. -/
theorem toNat_append_add {m n : Nat} (x : BitVec m) (y : BitVec n) : (x ++ y).toNat = x.toNat * 2 ^ n + y.toNat := by
  rw [BitVec.toNat_append, ← Nat.shiftLeft_add_eq_or_of_lt y.isLt, Nat.shiftLeft_eq]

/-- The model's sum of fields is the word of Table 7.9. -/
theorem chanStatus_eq_statusWord (co : Core) (ch : Nat) : co.chanStatus ch = statusWord co ch := by
  apply BitVec.eq_of_toNat_eq
  simp only [Core.chanStatus, statusWord, w64, BitVec.toNat_setWidth, toNat_append_add, BitVec.toNat_ofNat, BitVec.toNat_ofBool]
  omega

/-! ## Masking channels (R150) -/

theorem SameMem.trans {s t r : State} (h : SameMem s t) (h' : SameMem t r) : SameMem s r :=
  ⟨fun a => (h'.byte a).trans (h.byte a), fun a => (h'.poison a).trans (h.poison a)⟩

/-- Memory and every handler entry are as before. -/
structure KeepsEntries (s t : State) : Prop where
  mem : SameMem s t
  hte : ∀ c ch, t.hte c ch = s.hte c ch

namespace KeepsEntries

theorem refl (s : State) : KeepsEntries s s := ⟨SameMem.refl s, fun _ _ => rfl⟩

theorem trans {s t r : State} (h : KeepsEntries s t) (h' : KeepsEntries t r) : KeepsEntries s r :=
  ⟨h.mem.trans h'.mem, fun c ch => (h'.hte c ch).trans (h.hte c ch)⟩

/-- An update of a core that leaves its handler entries alone. -/
theorem modCore (s : State) (c : Nat) {f : Core → Core} (hf : ∀ co, (f co).hte = co.hte) : KeepsEntries s (s.modCore c f) := by
  refine ⟨⟨fun _ => rfl, fun _ => rfl⟩, fun c' ch => ?_⟩
  by_cases hc : c = c'
  · subst hc; simp only [State.hte, State.core_modCore, hf]
  · simp only [State.hte, State.core_modCore_of_ne s f hc]

theorem putCur (s : State) (sl : Slot) : KeepsEntries s (s.putCur sl) :=
  modCore s s.cur.1 (f := fun co => { co with slots := Sparse.set none co.slots s.cur.2 (some sl) }) fun _ => rfl

theorem record (s : State) (c : Nat) (r : Rec) : KeepsEntries s (s.record c r) := by
  unfold State.record; split
  · exact refl s
  · exact modCore s c fun _ => rfl

theorem endActivation (s : State) (c k : Nat) : KeepsEntries s (s.endActivation c k) := by
  unfold State.endActivation; split
  · exact refl s
  · exact modCore s c fun co => by rw [Core.freeEntries_hte]; rfl

theorem reenter (s : State) (c k : Nat) : KeepsEntries s (s.reenter c k) := by
  unfold State.reenter; split
  · exact refl s
  · split
    · exact refl s
    · split
      · exact (record s c _).trans (endActivation _ c k)
      · exact modCore s c fun _ => rfl

/-- Parked activations that come back leave the entries alone. -/
theorem unpark (s : State) (c ch : Nat) : KeepsEntries s (s.unpark c ch) := by
  refine foldl_keeps (KeepsEntries s) _ (fun t k ht => ht.trans ?_) _ (refl s)
  split
  · split
    · split
      · exact reenter t c k
      · split
        · exact modCore t c fun _ => rfl
        · exact refl t
    · exact refl t
  · exact refl t

end KeepsEntries

/-- Masking a channel is writing MSK of its entry, with what that lets go. -/
theorem setMask_maskChan (s : State) (c ch : Nat) (b : Bool) : KeepsEntries (s.setMask c ch b) (s.maskChan c ch b) := by
  unfold State.maskChan
  cases b with
  | true => exact .refl _
  | false => exact .unpark _ c ch

/-- The entries of a core after MSK of a channel is written. -/
theorem hte_maskChan (s : State) (c ch ch' : Nat) (b : Bool) :
    (s.maskChan c ch b).hte c ch' = if ch = ch' then (s.hte c ch').setMsk b else s.hte c ch' := by
  rw [(setMask_maskChan s c ch b).hte]
  simp only [State.setMask, State.hte, State.core_modCore, Core.settle_hte, Sparse.get_modify]
  split
  · next h => rw [h]
  · rfl

/-- Memory stays. -/
theorem sameMem_maskChan (s : State) (c ch : Nat) (b : Bool) : SameMem s (s.maskChan c ch b) :=
  SameMem.trans (t := s.setMask c ch b) ⟨fun _ => rfl, fun _ => rfl⟩ (setMask_maskChan s c ch b).mem

/-- Masking the channels of a list leaves memory alone. -/
theorem sameMem_foldl_maskChan (s : State) (c : Nat) (b : Bool) (chs : List Nat) :
    SameMem s (chs.foldl (fun t ch => t.maskChan c ch b) s) :=
  foldl_keeps (SameMem s) _ (fun t ch ht => ht.trans (sameMem_maskChan t c ch b)) chs (SameMem.refl s)

/-- Masking each channel of a list once writes MSK of their entries and of no other. -/
theorem hte_foldl_maskChan (s : State) (c : Nat) (b : Bool) {chs : List Nat} (hn : chs.Nodup) (ch' : Nat) :
    (chs.foldl (fun t ch => t.maskChan c ch b) s).hte c ch' =
      if ch' ∈ chs then (s.hte c ch').setMsk b else s.hte c ch' := by
  induction chs generalizing s with
  | nil => rfl
  | cons ch chs ih =>
    obtain ⟨hch, hn⟩ := List.nodup_cons.1 hn
    rw [List.foldl_cons, ih _ hn, hte_maskChan]
    by_cases h : ch = ch'
    · subst h; simp [hch]
    · simp [h, Ne.symm h]

/-- The channels that `chmask` takes are those of its mask. -/
theorem mem_maskChannels (x : Word) (ch : Nat) :
    ch ∈ (List.range 64).filter (fun ch => x.getLsbD ch) ↔ ch < 64 ∧ x.getLsbD ch = true := by
  rw [List.mem_filter, List.mem_range]

/-- `chmask` refuses a mask that names a channel of an entry with PRV = 1, unless the activation has PRV itself (R150). -/
theorem chmask_refuses_iff (s : State) (sl : Slot) (a : Reg) :
    (!s.prv sl && ((List.range 64).filter (fun ch => (sl.getX a).getLsbD ch)).any (fun ch => (s.hte s.cur.1 ch).prv)) = true ↔
      s.prv sl = false ∧ ∃ ch, ch < 64 ∧ (sl.getX a).getLsbD ch = true ∧ (s.hte s.cur.1 ch).prv = true := by
  simp only [Bool.and_eq_true, Bool.not_eq_true', List.any_eq_true, mem_maskChannels, and_assoc]

/-- `chmask` of an activation that may write every entry its mask names (R150). -/
theorem chmask_masks {a : Reg} {op : BitVec 1} (h : Turn s u .scalar sl)
    (hp : s.prv sl = true ∨ ∀ ch, ch < 64 → (sl.getX a).getLsbD ch = true → (s.hte s.cur.1 ch).prv = false) :
    ∃ t sl', exec (.chmask u a op) s = .next t ∧ SameMem s t ∧ t.curSlot = some sl' ∧ Advanced (.chmask u a op) sl sl' ∧
      ∀ ch, t.hte s.cur.1 ch = if ch < 64 ∧ (sl.getX a).getLsbD ch = true then (s.hte s.cur.1 ch).setMsk (decide (op = 0))
        else s.hte s.cur.1 ch := by
  have hallowed : ¬ (s.prv sl = false ∧ ∃ ch, ch < 64 ∧ (sl.getX a).getLsbD ch = true ∧ (s.hte s.cur.1 ch).prv = true) := by
    rintro ⟨hprv, ch, hlt, hbit, hch⟩
    rcases hp with hp | hp
    · rw [hp] at hprv; exact Bool.noConfusion hprv
    · rw [hp ch hlt hbit] at hch; exact Bool.noConfusion hch
  have hx := exec_of_turn (i := .chmask u a op) rfl h
  rw [if_neg (mt (chmask_refuses_iff s sl a).1 hallowed)] at hx
  refine ⟨_, _, hx, (sameMem_foldl_maskChan s _ _ _).trans (KeepsEntries.putCur _ _).mem, State.curSlot_putCur _ _, Slot.advanced_age _ sl, fun ch => ?_⟩
  rw [State.retire, (KeepsEntries.putCur _ _).hte, hte_foldl_maskChan s _ _ (List.nodup_range.filter _) ch]
  simp only [mem_maskChannels]

/-- One that may not write an entry of its mask traps. -/
theorem chmask_traps {a : Reg} {op : BitVec 1} (h : Turn s u .scalar sl) (hp : s.prv sl = false)
    (hch : ∃ ch, ch < 64 ∧ (sl.getX a).getLsbD ch = true ∧ (s.hte s.cur.1 ch).prv = true) :
    TrapsOpen (.chmask u a op) s sl .privInstr :=
  trapsOpen_of_body rfl h (if_pos ((chmask_refuses_iff s sl a).2 ⟨hp, hch⟩))

/-! ## The statement -/

/-- A number that only a supervisor writes is listed, may be written and needs PRV (Table 9.13). -/
theorem csrw_checks {n : Nat} (h : (1 ≤ n ∧ n ≤ 5) ∨ n = 7 ∨ n = 8 ∨ (0x100 ≤ n ∧ n < 0x180)) :
    csrListed n = true ∧ csrReadOnly n = false ∧ csrSupWrite n = true := by
  simp only [csrListed, csrReadOnly, csrSupWrite, Bool.or_eq_true, Bool.and_eq_true, Bool.or_eq_false_iff, decide_eq_true_eq,
    decide_eq_false_iff_not]
  omega

/-- In a reply-class activation every instruction that sends, forks, spawns or hands out work traps (R35). -/
theorem sendReply_of_replyClass (d a b c : Reg) (n q : BitVec 3) (ch : BitVec 6) (imm : BitVec 32) (h : Turn s u .scalar sl)
    (hr : s.replyClass sl = true) :
    ∀ i ∈ [Instr.send u a b n ch, .reply u a b n ch, .sysc u imm, .gmcast u a b n ch, .spawn u d a b c imm, .fork u q a b c imm,
      .job u a, .gath u a, .scat u a, .ldnear u a, .stvec u a, .delvec u a, .ixsnap u a, .ixrel u a, .ixstat u a, .ixcfg u a,
      .ixcent u a], TrapsOpen i s sl .sendReply := by
  simp only [List.forall_mem_cons, List.not_mem_nil, false_implies, implies_true, and_true]
  refine ⟨?_, ?_, ?_, ?_, ?_, ?_, ?_, ?_, ?_, ?_, ?_, ?_, ?_, ?_, ?_, ?_, ?_⟩ <;>
    exact trapsOpen_of_body rfl h (if_pos hr)

/-- Without PRV a privileged instruction traps (R202, Table 9.14). -/
theorem privInstr_of_not_prv (d a b c : Reg) (code : BitVec 8) (op : BitVec 1) (ch : BitVec 6) (ctr : BitVec 18)
    (h : Turn s u .scalar sl) (hp : s.prv sl = false) :
    ∀ i ∈ [Instr.cinit u a b code, .rres u a b c ctr, .rcompact u a b ctr, .sret u a b c, .halt u a op, .ctxsave u a b ctr,
      .ctxload u a b ctr, .prio u a ch, .scrub u a b, .errpop u d a b], TrapsOpen i s sl .privInstr := by
  have hp' : (!s.prv sl) = true := by rw [hp]; rfl
  simp only [List.forall_mem_cons, List.not_mem_nil, false_implies, implies_true, and_true]
  refine ⟨?_, ?_, ?_, ?_, ?_, ?_, ?_, ?_, ?_, ?_⟩ <;>
    exact trapsOpen_of_body rfl h (if_pos hp')

/-- So does `csrw` of a number that only a supervisor writes (R202, Table 9.13). -/
theorem csrw_privInstr {a : Reg} {csr : BitVec 12} (h : Turn s u .scalar sl) (hp : s.prv sl = false)
    (hn : (1 ≤ csr.toNat ∧ csr.toNat ≤ 5) ∨ csr.toNat = 7 ∨ csr.toNat = 8 ∨ (0x100 ≤ csr.toNat ∧ csr.toNat < 0x180)) :
    TrapsOpen (.csrw u a csr) s sl .privInstr := by
  obtain ⟨hlisted, hro, hsup⟩ := csrw_checks hn
  exact trapsOpen_of_body rfl h (by simp [hlisted, hro, hsup, hp])

/-- `peek` writes the header of a held message, a word of its body, or 0 (R147). -/
theorem peek_writes (d : Reg) (m : BitVec 4) (w : BitVec 3) (h : Turn s u .scalar sl) :
    Writes (.peek u d m w) u s sl { d := d, x := peekWord sl.held m.toNat w.toNat } := by
  have hx := exec_of_turn (i := .peek u d m w) rfl h
  exact writes_of_retire hx rfl

/-- `spawn` of a request-class activation asks its target (R148). -/
theorem spawn_launches (d a b c : Reg) (imm : BitVec 32) (h : Turn s u .scalar sl) (hr : s.replyClass sl = false) :
    Launches (.spawn u d a b c imm) u s sl d (.spawn (sl.getX a).toNat imm (registers sl c 4) (sl.getX b)) := by
  have hx := exec_of_turn (i := .spawn u d a b c imm) rfl h
  rw [if_neg (by rw [hr]; exact Bool.false_ne_true)] at hx
  exact launches_of_launch hx

/-- `pause` sets the slot's pause, `pause 0` leaves it (R150). -/
theorem pause_retires (n : BitVec 16) (h : Turn s u .scalar sl) :
    Retires (.pause u n) s { sl with paused := if n = 0 then sl.paused else n.toNat + 1 } := by
  have hx := exec_of_turn (i := .pause u n) rfl h
  exact retires_of_retire hx

/-- `chstat` writes the status word of its channel (R151). -/
theorem chstat_writes (d : Reg) (ch : BitVec 6) (h : Turn s u .scalar sl) :
    Writes (.chstat u d ch) u s sl { d := d, x := statusWord (s.core s.cur.1) ch.toNat } := by
  have hx := exec_of_turn (i := .chstat u d ch) rfl h
  rw [← chanStatus_eq_statusWord]
  exact writes_of_retire hx rfl

end

/-- Settles O17: every form's body runs on the slot that takes effect, and the checks of R35 and R202 come first in it. -/
theorem channelsAndModes : Obligations.ChannelsAndModes := by
  unfold Obligations.ChannelsAndModes
  refine ⟨⟨?_, ?_, ?_⟩, ?_⟩
  · intro s u d a b c n q ch imm sl h hr
    simpa only [List.forall_mem_cons] using sendReply_of_replyClass d a b c n q ch imm h hr
  · intro s u a b n ch sl h hr src hd hroom
    exact ⟨injects_of_sendMsg rfl h hr hd hroom, injects_of_sendMsg rfl h hr hd hroom⟩
  · intro s u d a b c code op ch ctr csr sl h hp
    exact ⟨privInstr_of_not_prv d a b c code op ch ctr h hp, csrw_privInstr h hp⟩
  · intro s u d a b c sl h
    refine ⟨fun m w => ?_, fun imm hr => spawn_launches d a b c imm h hr, fun n hn => ?_, pause_retires 0 h,
      fun ch => chstat_writes d ch h, fun op => chmask_masks h, fun op => chmask_traps h⟩
    · have hw : w.toNat = 0 ↔ w = 0 := by bv_omega
      have hx := peek_writes d m w h
      simp only [peekWord, hw] at hx
      exact hx
    · have hx := pause_retires n h
      rw [if_neg hn] at hx
      exact hx

end Sys2Proof.Machine
end

section
/-! Control transfers, `sig`, `nop`, `brk`, `trap` and `illegal` (R79, R82, R95 to R98, R100): what each does, said once, and the
refutation of the statement about them. The statement leaves out that a retired `sig` ends a run of replays (R309); its other clauses are theorems here. -/

namespace Sys2Proof.Machine

section

variable {s : State} {u : Ctl} {sl : Slot}

/-! ## Entering a target -/

/-- Retiring to a target without a register write enters it. -/
theorem enters_of_retireTo {i : Instr} {target : Pc} (h : exec i s = .next (s.retireTo i u none target sl)) :
    Enters i s sl (Advanced i sl) target :=
  ⟨_, _, h, onlySlot_putCur s _, Slot.advanced_age i sl, State.curSlot_putCur s _⟩

/-- Retiring to a target with a register write makes the write and enters it. -/
theorem enters_of_retireTo_write {i : Instr} {w : RegWrite} {target : Pc}
    (h : exec i s = .next (s.retireTo i u (some w) target sl)) : Enters i s sl (Retired i u w sl) target :=
  ⟨_, _, h, onlySlot_putCur s _, Slot.retired_wr i u w sl, State.curSlot_putCur s _⟩

/-- Masking bit 31 keeps its weight. -/
theorem toNat_and_bit31 (pc : Pc) : (pc &&& 0x80000000).toNat = pc.toNat / 2 ^ 31 * 2 ^ 31 := by
  have hlt := pc.isLt
  have hbit : pc.getLsbD 31 = decide (pc.toNat / 2 ^ 31 % 2 = 1) := Nat.testBit_eq_decide_div_mod_eq
  rw [show (0x80000000 : Pc) = BitVec.twoPow 32 31 from rfl, BitVec.and_twoPow, hbit]
  split
  · next h =>
    rw [decide_eq_true_eq] at h
    rw [BitVec.toNat_twoPow]; omega
  · next h =>
    rw [decide_eq_true_eq] at h
    rw [BitVec.toNat_ofNat]; omega

/-- Masking bits 30 to 0 is the remainder mod 2^31. -/
theorem toNat_and_low31 (pc : Pc) : (pc &&& 0x7FFFFFFF).toNat = pc.toNat % 2 ^ 31 :=
  Nat.and_two_pow_sub_one_eq_mod pc.toNat 31

/-- The model's masked target is the sum of R95, taken mod 2^31 within the code space of the PC. -/
theorem relTarget_eq_relative (pc : Pc) (imm : BitVec 32) : relTarget pc imm = relative pc imm := by
  have hlow : (pc + imm).toNat % 2 ^ 31 = (pc.toNat + imm.toNat) % 2 ^ 31 := by rw [BitVec.toNat_add]; omega
  have hpc := pc.isLt
  apply BitVec.eq_of_toNat_eq
  rw [relTarget, relative, BitVec.toNat_or, toNat_and_bit31, toNat_and_low31, hlow, ← Nat.shiftLeft_eq,
    ← Nat.shiftLeft_add_eq_or_of_lt (Nat.mod_lt _ (Nat.two_pow_pos 31)), Nat.shiftLeft_eq, BitVec.toNat_ofNat]
  omega

/-! ## Table 5.6 -/

theorem br_enters (h : Turn s u .scalar sl) (imm : BitVec 32) :
    Enters (.br u imm) s sl (Advanced (.br u imm) sl) (relative sl.pc imm) := by
  have hx := exec_of_turn (i := .br u imm) rfl h
  rw [relTarget_eq_relative] at hx
  exact enters_of_retireTo hx

theorem j_enters (h : Turn s u .scalar sl) (imm : BitVec 32) : Enters (.j u imm) s sl (Advanced (.j u imm) sl) imm :=
  enters_of_retireTo (exec_of_turn (i := .j u imm) rfl h)

/-- `jal` writes the next slot's PC. -/
theorem jal_enters (h : Turn s u .scalar sl) (d : Reg) (imm : BitVec 32) :
    Enters (.jal u d imm) s sl (Retired (.jal u d imm) u { d := d, x := (nextPc sl.pc).setWidth 64 } sl) imm := by
  have hx := exec_of_turn (i := .jal u d imm) rfl h
  exact enters_of_retireTo_write hx

/-- The upper half of a word is 0 when the word is below 2^32. -/
theorem upper_half_eq_zero_iff (w : Word) : bits w 32 32 = 0 ↔ w.toNat < 2 ^ 32 := by
  have := w.isLt
  unfold bits; omega

theorem jr_enters (h : Turn s u .scalar sl) {a : Reg} (ha : (sl.getX a).toNat < 2 ^ 32) :
    Enters (.jr u a) s sl (Advanced (.jr u a) sl) ((sl.getX a).setWidth 32) := by
  have hx := exec_of_turn (i := .jr u a) rfl h
  rw [if_neg (not_not_intro ((upper_half_eq_zero_iff _).2 ha))] at hx
  exact enters_of_retireTo hx

theorem jr_traps (h : Turn s u .scalar sl) {a : Reg} (ha : 2 ^ 32 ≤ (sl.getX a).toNat) :
    Traps (.jr u a) s sl .fetchTarget (sl.getX a) := by
  have hx := exec_of_turn (i := .jr u a) rfl h
  rw [if_pos (mt (upper_half_eq_zero_iff _).1 (Nat.not_lt.2 ha))] at hx
  exact hx

/-- `loop` of a counter other than 1, 0 among them, writes it less one and enters (R97). -/
theorem loop_enters (h : Turn s u .scalar sl) {d : Reg} (imm : BitVec 32) (hd : sl.getX d ≠ 1) :
    Enters (.loop u d imm) s sl (Retired (.loop u d imm) u { d := d, x := sl.getX d - 1 } sl) (relative sl.pc imm) := by
  have hx := exec_of_turn (i := .loop u d imm) rfl h
  have hn : sl.getX d - 1 ≠ 0 := by bv_omega
  rw [if_pos hn, relTarget_eq_relative] at hx
  exact enters_of_retireTo_write hx

/-- `loop` of a counter of 1 writes 0 and falls through (R97). -/
theorem loop_writes (h : Turn s u .scalar sl) {d : Reg} (imm : BitVec 32) (hd : sl.getX d = 1) :
    Writes (.loop u d imm) u s sl { d := d, x := 0 } := by
  have hx := exec_of_turn (i := .loop u d imm) rfl h
  rw [hd] at hx
  exact writes_of_retire hx rfl

/-! ### Jump tables (R98) -/

theorem jtab_retires (h : Turn s u .scalar sl) {a : Reg} {len : BitVec 7} (base : BitVec 32) (ha : len.toNat ≤ (sl.getX a).toNat) :
    Retires (.jtab u a len base) s sl := by
  have hx := exec_of_turn (i := .jtab u a len base) rfl h
  rw [if_pos ha] at hx
  exact retires_of_retire hx

/-- An index within the table enters the target that its entry gives, once the entry's line has been asked for. -/
theorem exec_jtab_of_entry (h : Turn s u .scalar sl) {a : Reg} {len : BitVec 7} {base : BitVec 32} {target : Pc} {key : Nat}
    (ha : (sl.getX a).toNat < len.toNat) (he : s.jtabEntry s.cur.1 base (jtabAddr base (sl.getX a).toNat) = some (target, key)) :
    exec (.jtab u a len base) s = .next ((s.askLine s.cur.1 key).retireTo (.jtab u a len base) u none target sl) := by
  have hx := exec_of_turn (i := .jtab u a len base) rfl h
  simp only [Nat.not_le.2 ha, ↓reduceIte, he] at hx
  exact hx

/-- A line of this device is asked of no other. -/
theorem askLine_of_here {key : Nat} (hk : s.awayDev key = none) (c : Nat) : s.askLine c key = s := by
  rw [State.askLine, hk]

theorem jtab_enters (h : Turn s u .scalar sl) {a : Reg} {len : BitVec 7} {base : BitVec 32} {target : Pc} {key : Nat}
    (ha : (sl.getX a).toNat < len.toNat) (he : s.jtabEntry s.cur.1 base (jtabAddr base (sl.getX a).toNat) = some (target, key))
    (hk : s.awayDev key = none) : Enters (.jtab u a len base) s sl (Advanced (.jtab u a len base) sl) target := by
  have hx := exec_jtab_of_entry h ha he
  rw [askLine_of_here hk] at hx
  exact enters_of_retireTo hx

/-- Wherever the entry's line stands, the slot is that of the transfer. -/
theorem jtab_slot (h : Turn s u .scalar sl) {a : Reg} {len : BitVec 7} {base : BitVec 32} {target : Pc} {key : Nat}
    (ha : (sl.getX a).toNat < len.toNat) (he : s.jtabEntry s.cur.1 base (jtabAddr base (sl.getX a).toNat) = some (target, key)) :
    ∃ t m, exec (.jtab u a len base) s = .next t ∧ Advanced (.jtab u a len base) sl m ∧
      t.curSlot = some { m with pc := target, entry := some sl.pc, sig := target.setWidth 24 } :=
  ⟨_, _, exec_jtab_of_entry h ha he, Slot.advanced_age _ sl, State.curSlot_putCur _ _⟩

theorem jtab_traps (h : Turn s u .scalar sl) {a : Reg} {len : BitVec 7} {base : BitVec 32}
    (ha : (sl.getX a).toNat < len.toNat) (he : s.jtabEntry s.cur.1 base (jtabAddr base (sl.getX a).toNat) = none) :
    Traps (.jtab u a len base) s sl .jtabFault (BitVec.ofNat 64 (jtabAddr base (sl.getX a).toNat)) := by
  have hx := exec_of_turn (i := .jtab u a len base) rfl h
  simp only [Nat.not_le.2 ha, ↓reduceIte, he] at hx
  exact hx

/-! ## Table 5.8 -/

/-- `sig` of the value of S retires without a fold, starts a new block, and ends a run of replays (R79, R100, R309). -/
theorem sig_passes (h : Turn s u .always sl) {imm : BitVec 24} (hs : sl.sig = imm) : ∃ t, exec (.sig u imm) s = .next t ∧
    OnlySlot s t s.cur.1 s.cur.2 ∧ t.curSlot = some { sl.age with
      pc := nextPc sl.pc, entry := none, fails := 0, sig := (nextPc sl.pc).setWidth 24 } := by
  have hx := exec_of_turn (i := .sig u imm) rfl h
  rw [if_neg (not_not_intro hs)] at hx
  exact ⟨_, hx, onlySlot_putCur s _, State.curSlot_putCur s _⟩

/-- `sig` of another value traps, with S as its second information word. -/
theorem sig_traps (h : Turn s u .always sl) {imm : BitVec 24} (hs : sl.sig ≠ imm) : ∃ info, exec (.sig u imm) s =
    .next (s.takeTrap s.cur.1 s.cur.2 sl.pc { cause := .sigMismatch, info := info, info2 := sl.sig.setWidth 64 }) := by
  have hx := exec_of_turn (i := .sig u imm) rfl h
  rw [if_pos hs] at hx
  exact ⟨_, hx⟩

theorem nop_retires (h : Turn s u .scalar sl) : Retires (.nop u) s sl := retires_of_retire (exec_of_turn (i := .nop u) rfl h)

theorem brk_retires (h : Turn s u .scalar sl) (imm : BitVec 32) (hd : (s.ctx (s.coreCtx s.cur.1)).dbg = 0) :
    Retires (.brk u imm) s sl := by
  have hx := exec_of_turn (i := .brk u imm) rfl h
  rw [if_neg (by rw [hd]; decide)] at hx
  exact retires_of_retire hx

theorem brk_traps (h : Turn s u .scalar sl) (imm : BitVec 32) (hd : (s.ctx (s.coreCtx s.cur.1)).dbg = 1) :
    Traps (.brk u imm) s sl .debugBreak (imm.setWidth 64) := by
  have hx := exec_of_turn (i := .brk u imm) rfl h
  rw [if_pos hd] at hx
  exact hx

theorem trap_traps (h : Turn s u .scalar sl) (imm : BitVec 32) : Traps (.trap u imm) s sl .userTrap (imm.setWidth 64) :=
  exec_of_turn (i := .trap u imm) rfl h

/-- `illegal` traps in every form, whatever its predicate and tags (R82). -/
theorem illegal_traps (hc : s.curSlot = some sl) (u : Ctl) : TrapsOpen (.illegal u) s sl .instrIllegal := by
  have hx : exec (.illegal u) s = execIllegal u s := rfl
  rw [execIllegal, hc] at hx
  exact ⟨_, hx⟩

end

/-! ## The statement -/

/-- Core 0 of context 0 with one activation. -/
def single (sl : Slot) : State :=
  { cores := [(0, { ctx := some 0, part := 1, slots := [(0, some sl)] })], ctxs := [(0, { live := true, clusters := [0] })] }

/-- An activation whose instruction the core replays for the first time (R309). -/
def replaying : Slot := { fails := 1 }

/-- A failed pipeline check makes a fresh activation such a one. -/
theorem replaying_reached : exec (.pipelineCheckFailure 0 0 .pipe) (single {}) = .next (single replaying) := rfl

/-- The replayed instruction takes effect. -/
theorem turn_replaying : Turn (single replaying) {} .always replaying :=
  { consumed := ⟨replaying, rfl, rfl⟩, acts := rfl, room := .inl rfl, noRegion := rfl }

/-- Refutes O3: the statement has a `sig` that finds its value in S leave the count of replays as it was, but on an activation whose
`sig` is replayed after a failed pipeline check the count is 1 before and 0 after. -/
theorem not_controlFlow : ¬ Obligations.ControlFlow := by
  unfold Obligations.ControlFlow
  rintro ⟨-, hslot⟩
  obtain ⟨hsig, -⟩ := hslot (single replaying) {} replaying
  obtain ⟨t, hx, -, hkept⟩ := hsig 0 turn_replaying rfl
  obtain ⟨t', hx', -, hreset⟩ := sig_passes turn_replaying (imm := 0) rfl
  obtain rfl : t = t' := Host.Outcome.next.inj (hx.symm.trans hx')
  have hfails : 1 = 0 := congrArg Slot.fails (Option.some.inj (hkept.symm.trans hreset))
  exact absurd hfails (by decide)

end Sys2Proof.Machine
end
